-- ==== Sys2Proof/Word.lean ====
section
/-! DEFINITION. The word types of the machine and their plainest arithmetic (R5, R22 of spec/). -/

namespace Sys2Proof

/-- A byte of memory (R5). -/
abbrev Byte := BitVec 8
/-- A scalar, address or system register (R41). -/
abbrev Word64 := BitVec 64
/-- A vector register (R41). -/
abbrev Vec := BitVec 1024
/-- A mask register (R41). -/
abbrev Mask := BitVec 128

/-- Bits `[lo + n - 1 : lo]` of a natural number, as a number. -/
def bits (w lo n : Nat) : Nat := w / 2 ^ lo % 2 ^ n

/-- Bits `[lo + n - 1 : lo]` of an encoded word, as a field. -/
def fld (w lo n : Nat) : BitVec n := BitVec.ofNat n (w / 2 ^ lo)

/-- Bit `k` of a natural number. -/
def bitOf (w k : Nat) : Bool := w / 2 ^ k % 2 == 1

end Sys2Proof
end

