-- ==== Sys2Proof/Config.lean ====
section
/-! DEFINITION. What the device fixes, and the values the spec leaves open. A value left open is an opaque constant with
no body: nothing can evaluate it, so a claim that holds, holds for every value of it (log entries 7 to 10). -/

namespace Sys2Proof

/-- Cores of the package (R11). -/
def Config.cores : Nat := 256
/-- Clusters of the package (R11). -/
def Config.clusters : Nat := 32
/-- Contexts of the package (R11). -/
def Config.contexts : Nat := 1024

/-- An open count, such as the cycles for which data is late (R107, R109); log entry 7. -/
opaque Config.freeNat : Nat → Nat
/-- An open choice between two outcomes that the spec allows (R61, R266); log entry 7. -/
opaque Config.freeBool : Nat → Bool
/-- The home die that the device's hash gives a line of STM or host memory (R249); log entry 10. -/
opaque Config.lineHome : Nat → Bool
/-- The decoded samples of a bitstream under R352: for each frame in output order its width, height, bit depth and the
samples of Y, Cb and Cr, up to the bitstream's end or the first break of its standard. Log entry 8. -/
opaque Config.decodeVideo : Nat → List Byte → List (Nat × Nat × Nat × List Nat)
/-- Whether a storage root port has a controller (R347); log entry 7. -/
opaque Config.controller : Nat → Bool
/-- Blocks of a namespace of a port's drive, and whether a block has 4,096 bytes and not 512; none where the drive has no
such namespace of a kind that R346 attaches. Log entry 7. -/
opaque Config.drive : Nat → Nat → Option (Nat × Bool)
/-- Largest transfer of a port's drive in bytes, its MDTS (R347); log entry 7. -/
opaque Config.largestRead : Nat → Nat
/-- The 10-bit tag of a read of host memory, ID-Based Ordering of a request to it and Relaxed Ordering of a read, by the number of what the
device has sent before: no rule gives them (R338, R344); log entry 79. -/
opaque Config.sentTag : Nat → Nat
opaque Config.sentIdo : Nat → Bool
opaque Config.sentRo : Nat → Bool
/-- The device's part number (R370); log entry 7. -/
opaque Config.partNumber : Nat
/-- The two firmware images in flash as manufactured (R366); log entry 4. -/
opaque Config.firmware : Nat → List Byte
/-- Version, signature and signed bytes of a firmware image (R371); log entry 9. -/
opaque Config.imageParts : List Byte → Nat × List Byte × List Byte
/-- The bytes of ROM (R366, R371); log entry 9. -/
opaque Config.rom : List Byte
/-- The digest of ROM in fuses (R366); log entry 9. -/
opaque Config.romDigest : List Byte
/-- Vilsenor's public key in ROM (R371); log entry 9. -/
opaque Config.romKey : List Byte
/-- The 32-byte device secret in fuses (R371); log entry 9. -/
opaque Config.secret : BitVec 256
/-- The minimum firmware version in fuses (R371); log entry 9. -/
opaque Config.fwMinimum : Nat
/-- Byte of the link calibration values and spare assignments of a starter record, whose layout no rule gives
(R368; DESIGN CHOICE, log entry 7). -/
opaque Config.calibration : List (Nat × Nat × Nat) → Nat → Byte
/-- Set of the cluster translation cache that a page lies in, by its address: no rule gives the index (R330); log entry 19. -/
opaque Config.cacheSet : Nat → Nat
/-- STM channel of an address (R11, R367); log entry 10. -/
opaque Config.stmChannel : Nat → Nat
/-- Pseudo-channel of an HBM address within its stack: the bits that select it are not architectural (R255); log entry 10. -/
opaque Config.pseudoChannel : Nat → Nat
/-- Bank of an HBM address within its pseudo-channel, and bank of L2 of a line with the cluster that it stands at (R255, R356); log
entry 10. -/
opaque Config.hbmBank : Nat → Nat
opaque Config.l2Bank : Nat → Nat × Nat
/-- What a bitstream is under its standard: profile (0 Main, 1 Main 10), level in tenths, chroma format, whether it is interlaced, and
whether it begins as R352 asks; log entry 8. -/
opaque Config.videoStream : Nat → List Byte → Nat × Nat × Nat × Bool × Bool
/-- The completion timeout in milliseconds that firmware sets for the host port (R345); log entry 7. -/
opaque Config.hostTimeout : Nat

end Sys2Proof
end

