-- ==== Sys2Proof/Machine/Tab.lean ====
section
/-! DEFINITION. Sparse tables: lists of (key, value) pairs with rising keys that never list a key's default value, so
that equal tables are equal lists. -/

namespace Sys2Proof.Machine

/-- A table from numbers to values. -/
abbrev Tab (α : Type) := List (Nat × α)

/-- The value at a key; `d` where the key is not listed. -/
def tabGet {α : Type} (d : α) : Tab α → Nat → α
  | [], _ => d
  | (k, v) :: t, n => if k = n then v else tabGet d t n

/-- The table without a key. -/
def tabErase {α : Type} : Tab α → Nat → Tab α
  | [], _ => []
  | (k, v) :: t, n => if k = n then tabErase t n else (k, v) :: tabErase t n

/-- The table with the value at a key set; setting the default may list it. -/
def tabPut {α : Type} : Tab α → Nat → α → Tab α
  | [], n, x => [(n, x)]
  | (k, v) :: t, n, x =>
    if n < k then (n, x) :: (k, v) :: t
    else if n = k then (n, x) :: t
    else (k, v) :: tabPut t n x

/-- The table with the value at a key set; setting the default unlists the key. -/
def tabSet {α : Type} [DecidableEq α] (d : α) (t : Tab α) (n : Nat) (x : α) : Tab α :=
  if x = d then tabErase t n else tabPut t n x

/-- Keys rise and every key exceeds the bound. -/
def tabSorted {α : Type} : Option Nat → Tab α → Bool
  | _, [] => true
  | lo, (k, _) :: t => (match lo with | none => true | some b => b < k) && tabSorted (some k) t

/-- The canonical form: rising keys, no default listed. -/
def tabWf {α : Type} [DecidableEq α] (d : α) (t : Tab α) : Bool :=
  tabSorted none t && t.all fun p => p.2 ≠ d

/-- The canonical form of memory: rising addresses, and no entry that equals what an unlisted address reads as, 0
(log entry 3). -/
def Memory.wf (m : Tab Byte) : Bool := tabWf 0 m

/-- The values of `n` consecutive keys from `lo`, read in one pass of a table whose keys rise from `lo` on. -/
def tabWalk {α : Type} (d : α) : Nat → Nat → Tab α → List α
  | 0, _, _ => []
  | n + 1, lo, [] => d :: tabWalk d n (lo + 1) []
  | n + 1, lo, (k, v) :: t => if k = lo then v :: tabWalk d n (lo + 1) t else d :: tabWalk d n (lo + 1) ((k, v) :: t)

/-- The entries with keys below a bound, and from a bound on. -/
def tabBelow {α : Type} (t : Tab α) (hi : Nat) : Tab α := t.filter fun p => p.1 < hi
def tabFrom {α : Type} (t : Tab α) (lo : Nat) : Tab α := t.filter fun p => lo ≤ p.1

/-- The table with the values of consecutive keys from `lo` replaced. -/
def tabRange {α : Type} [DecidableEq α] (d : α) (t : Tab α) (lo : Nat) (xs : List α) : Tab α :=
  tabBelow t lo ++ ((xs.zipIdx).filterMap fun p => if p.1 = d then none else some (lo + p.2, p.1)) ++ tabFrom t (lo + xs.length)

/-- The values of `n` consecutive keys from `lo`. -/
def tabDense {α : Type} (d : α) (n lo : Nat) (t : Tab α) : List α :=
  let u := tabFrom t lo
  if tabSorted none u then tabWalk d n lo u else (List.range n).map fun i => tabGet d t (lo + i)

end Sys2Proof.Machine
end

