-- ==== Sys2Proof/Machine/Num.lean ====
section
/-! DEFINITION. Number formats, exact values, rounding, narrowing and their sticky flags (R17 to R40 of spec/02). -/

namespace Sys2Proof.Machine

/-- An exact value: NaN, an infinity, or a signed rational number `num / den` with `den` not zero; a zero keeps its
sign. -/
inductive Val
  | nan
  | inf (neg : Bool)
  | fin (neg : Bool) (num den : Nat)
  deriving DecidableEq, Repr

/-- Sticky flags as the bits of SYS.FPSF (R32, R47). -/
abbrev Flags6 := Nat
def flagInv : Flags6 := 1
def flagDz : Flags6 := 2
def flagOvf : Flags6 := 4
def flagUnf : Flags6 := 8
def flagInx : Flags6 := 16
def flagSkip : Flags6 := 32

/-- A result with the flags its formation set. -/
structure Res (α : Type) where
  val : α
  flags : Flags6
  deriving DecidableEq, Repr

/-- The base format of a micro-block format (R24); every other code is its own. -/
def fmtBase (f : Nat) : Nat := if 8 ≤ f ∧ f ≤ 12 then f - 5 else f

/-- Width in bits of an element of a format (R17, R18, R21, R25). -/
def fmtWidth (f : Nat) : Nat :=
  match fmtBase f with
  | 0 => 32 | 1 => 16 | 2 => 16 | 3 => 8 | 4 => 8 | 5 => 6 | 6 => 6 | 7 => 4
  | 13 => 4 | 14 => 8 | 16 => 4 | 17 => 8 | 18 => 16 | 19 => 32 | 20 => 64
  | 21 => 8 | 22 => 16 | 23 => 32 | 24 => 64 | _ => 8

/-- Float formats, block formats included. -/
def isFloatFmt (f : Nat) : Bool := f ≤ 12
/-- Micro-block formats (R24). -/
def isBlockFmt (f : Nat) : Bool := 8 ≤ f && f ≤ 12
/-- Signed integer formats (R21). -/
def isSignedFmt (f : Nat) : Bool := 16 ≤ f && f ≤ 20
/-- A format code that R17 assigns. -/
def isFmt (f : Nat) : Bool := f < 15 || (16 ≤ f && f < 25)

/-- Mantissa bits of a float format (R18). -/
def fmtMant (f : Nat) : Nat :=
  match fmtBase f with
  | 0 => 23 | 1 => 7 | 2 => 10 | 3 => 3 | 4 => 2 | 5 => 2 | 6 => 3 | _ => 1

/-- Exponent bias of a float format (R18). -/
def fmtBias (f : Nat) : Nat :=
  match fmtBase f with
  | 0 => 127 | 1 => 127 | 2 => 15 | 3 => 7 | 4 => 15 | 5 => 3 | 6 => 1 | _ => 1

/-- Exponent of the largest binade (R18). -/
def fmtEmax (f : Nat) : Nat :=
  match fmtBase f with
  | 0 => 127 | 1 => 127 | 2 => 15 | 3 => 8 | 4 => 15 | 5 => 4 | 6 => 2 | _ => 2

/-- Code of the largest finite value (R18). -/
def fmtMaxCode (f : Nat) : Nat :=
  match fmtBase f with
  | 0 => 0x7F7FFFFF | 1 => 0x7F7F | 2 => 0x7BFF | 3 => 0x7E | 4 => 0x7B | 5 => 0x1F | 6 => 0x1F | _ => 0x7

/-- Formats with an infinity (R18). -/
def fmtHasInf (f : Nat) : Bool :=
  match fmtBase f with
  | 0 => true | 1 => true | 2 => true | 4 => true | _ => false

/-- The canonical NaN's code, where the format has a NaN (R19). -/
def fmtNan (f : Nat) : Option Nat :=
  match fmtBase f with
  | 0 => some 0x7FC00000 | 1 => some 0x7FC0 | 2 => some 0x7E00 | 3 => some 0x7F | 4 => some 0x7E | _ => none

/-- Code of positive infinity; the code after the largest finite one (R18, R19). -/
def fmtInfCode (f : Nat) : Nat := fmtMaxCode f + 1

/-- A dyadic magnitude `m * 2 ^ (e - k)` as a value. -/
def dyadic (neg : Bool) (m e k : Nat) : Val :=
  if k ≤ e then .fin neg (m * 2 ^ (e - k)) 1 else .fin neg m (2 ^ (k - e))

/-- The value of a float code (R19). -/
def decodeFloat (c f : Nat) : Val :=
  let w := fmtWidth f
  let m := fmtMant f
  let neg := bitOf c (w - 1)
  let mag := c % 2 ^ (w - 1)
  let e := mag / 2 ^ m
  let frac := mag % 2 ^ m
  if fmtHasInf f && mag == fmtInfCode f then .inf neg
  else if (fmtHasInf f && mag > fmtInfCode f) || (fmtBase f == 3 && mag == 0x7F) then .nan
  else if e = 0 then dyadic neg frac 1 (fmtBias f + m)
  else dyadic neg (2 ^ m + frac) e (fmtBias f + m)

/-- An integer as a value. -/
def valOfInt (i : Int) : Val := .fin (decide (i < 0)) i.natAbs 1

/-- The `w` low bits of a code read as two's complement (R62). -/
def signExt (c w : Nat) : Int :=
  let x := c % 2 ^ w
  if bitOf x (w - 1) then (x : Int) - 2 ^ w else x

/-- An integer modulo `2 ^ w` (R62). -/
def wrapInt (i : Int) (w : Nat) : Nat := (i % 2 ^ w).toNat

/-- The integer an integer code stands for (R21). -/
def intOfCode (c f : Nat) : Int := if isSignedFmt f then signExt c (fmtWidth f) else (c % 2 ^ fmtWidth f : Nat)

/-- The value of an element code of a scalar format (R19, R21). -/
def decodeElem (c f : Nat) : Val := if isFloatFmt f then decodeFloat c f else valOfInt (intOfCode c f)

def isNan : Val → Bool
  | .nan => true
  | _ => false

def isInf : Val → Bool
  | .inf _ => true
  | _ => false

def isZero : Val → Bool
  | .fin _ 0 _ => true
  | _ => false

/-- The sign bit of a value; a NaN's carries no meaning. -/
def signOf : Val → Bool
  | .nan => false
  | .inf n => n
  | .fin n _ _ => n

def negVal : Val → Val
  | .nan => .nan
  | .inf n => .inf !n
  | .fin n a b => .fin (!n) a b

/-- Two magnitudes over one denominator. -/
def commonDen (a b c d : Nat) : Nat × Nat × Nat :=
  if b = d then (a, c, b)
  else if b % d = 0 then (a, c * (b / d), b)
  else if d % b = 0 then (a * (d / b), c, d)
  else (a * d, c * b, b * d)

/-- Exact sum under the special-value rules of R31. -/
def addVal (x y : Val) : Res Val :=
  match x, y with
  | .nan, _ => ⟨.nan, 0⟩
  | _, .nan => ⟨.nan, 0⟩
  | .inf p, .inf q => if p = q then ⟨.inf p, 0⟩ else ⟨.nan, flagInv⟩
  | .inf p, _ => ⟨.inf p, 0⟩
  | _, .inf q => ⟨.inf q, 0⟩
  | .fin p a b, .fin q c d =>
    let (a', c', m) := commonDen a b c d
    if p = q then ⟨.fin p (a' + c') m, 0⟩
    else if a' = c' then ⟨.fin false 0 1, 0⟩
    else if c' < a' then ⟨.fin p (a' - c') m, 0⟩
    else ⟨.fin q (c' - a') m, 0⟩

/-- Exact product under the special-value rules of R31. -/
def mulVal (x y : Val) : Res Val :=
  match x, y with
  | .nan, _ => ⟨.nan, 0⟩
  | _, .nan => ⟨.nan, 0⟩
  | .inf p, .inf q => ⟨.inf (p != q), 0⟩
  | .inf p, .fin q c _ => if c = 0 then ⟨.nan, flagInv⟩ else ⟨.inf (p != q), 0⟩
  | .fin p a _, .inf q => if a = 0 then ⟨.nan, flagInv⟩ else ⟨.inf (p != q), 0⟩
  | .fin p a b, .fin q c d => ⟨.fin (p != q) (a * c) (b * d), 0⟩

/-- `x < y` by value; false where either is NaN. -/
def ltVal (x y : Val) : Bool :=
  match x, y with
  | .nan, _ => false
  | _, .nan => false
  | .inf p, .inf q => p && !q
  | .inf p, _ => p
  | _, .inf q => !q
  | .fin p a b, .fin q c d =>
    let (a', c', _) := commonDen a b c d
    match p, q with
    | false, false => a' < c'
    | true, true => c' < a'
    | true, false => a' != 0 || c' != 0
    | false, true => false

/-- Equal by value: −0 equals +0, and a NaN equals nothing (R19). -/
def eqVal (x y : Val) : Bool := !isNan x && !isNan y && !ltVal x y && !ltVal y x

/-- Order of R133 for minimum and maximum: by value, with −0 below +0. -/
def ltSigned (x y : Val) : Bool := ltVal x y || (isZero x && isZero y && signOf x && !signOf y)

/-- `⌊log₂ (num / den)⌋ + k` for a non-zero magnitude, as long as it is not negative; else 0. -/
def log2Shift (num den k : Nat) : Nat :=
  let a := num.log2 + k
  let b := den.log2
  if a < b then 0
  else
    -- num * 2 ^ k against den * 2 ^ (a - b)
    if den * 2 ^ (a - b) ≤ num * 2 ^ k then a - b else a - b - 1

/-- Quotient rounded to nearest: ties to even, or away from zero (R26). -/
def roundQuot (num den : Nat) (away : Bool) : Nat :=
  let q := num / den
  let r := num % den
  if 2 * r < den then q
  else if den < 2 * r then q + 1
  else if away || q % 2 == 1 then q + 1 else q

/-- Magnitude code of a non-zero magnitude rounded to a float format, exponent range unbounded above (R26), with
whether the rounding was exact and whether the magnitude lies below the smallest normal value. -/
def roundFloat (num den f : Nat) : Nat × Bool × Bool :=
  let m := fmtMant f
  let k := fmtBias f - 1              -- smallest normal exponent is −k
  let sub := num * 2 ^ k < den        -- below 2 ^ (−k)
  let e := log2Shift num den k        -- max(⌊log₂ x⌋, −k) + k
  let away := fmtWidth f < 16
  -- x / ulp with ulp = 2 ^ (e − k − m)
  let n := num * 2 ^ (k + m)
  let d := den * 2 ^ e
  let q := roundQuot n d away
  (e * 2 ^ m + q, q * d == n, sub)

/-- A float code from its sign and magnitude code. -/
def signCode (neg : Bool) (mag f : Nat) : Nat := (if neg then 2 ^ (fmtWidth f - 1) else 0) + mag

/-- Narrow of R28: a value to a float format, with its flags. -/
def narrow (x : Val) (f : Nat) (sat : Bool) : Res Nat :=
  match x with
  | .nan => match fmtNan f with
    | some c => ⟨c, 0⟩
    | none => ⟨0, flagInv⟩
  | .inf neg =>
    if fmtHasInf f && !sat then ⟨signCode neg (fmtInfCode f) f, 0⟩
    else ⟨signCode neg (fmtMaxCode f) f, flagOvf⟩
  | .fin neg num den =>
    if num = 0 then ⟨signCode neg 0 f, 0⟩
    else
      let (mag, exact, sub) := roundFloat num den f
      if mag > fmtMaxCode f then
        ⟨signCode neg (if fmtHasInf f && !sat then fmtInfCode f else fmtMaxCode f) f, flagOvf ||| flagInx⟩
      else ⟨signCode neg mag f, if exact then 0 else if sub then flagInx ||| flagUnf else flagInx⟩

/-- Largest value of an integer format (R21). -/
def intMax (f : Nat) : Int := if isSignedFmt f then 2 ^ (fmtWidth f - 1) - 1 else 2 ^ fmtWidth f - 1
/-- Smallest value of an integer format (R21). -/
def intMin (f : Nat) : Int := if isSignedFmt f then -2 ^ (fmtWidth f - 1) else 0

/-- ToInt of R29: a value to an integer format, saturating, with its flags. -/
def toIntFmt (x : Val) (f : Nat) : Res Int :=
  match x with
  | .nan => ⟨0, flagInv⟩
  | .inf neg => ⟨if neg then intMin f else intMax f, flagOvf ||| flagInx⟩
  | .fin neg num den =>
    let q : Int := roundQuot num den (fmtWidth f < 16)
    let y := if neg then -q else q
    if y > intMax f then ⟨intMax f, flagOvf ||| flagInx⟩
    else if y < intMin f then ⟨intMin f, flagOvf ||| flagInx⟩
    else ⟨y, if num % den = 0 then 0 else flagInx⟩

/-- Narrow or ToInt, by the destination format: the code of `x` in a scalar format (R28, R29). -/
def convertTo (x : Val) (f : Nat) (sat : Bool) : Res Nat :=
  if isFloatFmt f then narrow x f sat
  else
    let r := toIntFmt x f
    ⟨wrapInt r.val (fmtWidth f), r.flags⟩

/-- One rounded result of an exact operation. -/
def narrowRes (r : Res Val) (f : Nat) (sat : Bool) : Res Nat :=
  let n := narrow r.val f sat
  ⟨n.val, r.flags ||| n.flags⟩

/-- Fused multiply-add, rounded once (R31). A product 0 × ±Inf sets INV whatever the addend is, a NaN addend too
(DEDUCED, log entry 87). -/
def fmaVal (x y z : Val) : Res Val :=
  let p := mulVal x y
  let s := addVal p.val z
  ⟨s.val, p.flags ||| s.flags⟩

/-- SC10Value of R23. -/
def sc10Value (c : Nat) : Val :=
  let s := c % 1024
  let e := s / 16
  let m := s % 16
  if e = 0 then .fin false m (2 ^ 34)
  else if e = 63 then .nan
  else dyadic false (16 + m) e 35

/-- ScaleAcc of R36. A product 0 × ±Inf of the scales sets INV whatever the accumulator is, a NaN too
(DEDUCED, log entry 87). -/
def scaleAcc (acc : Nat) (p : Int) (sa sb : Nat) : Res Nat :=
  let a := mulVal (valOfInt p) (decodeFloat sa 2)
  let b := mulVal a.val (decodeFloat sb 2)
  let s := addVal (decodeFloat acc 0) b.val
  let n := narrow s.val 0 false
  ⟨n.val, a.flags ||| b.flags ||| s.flags ||| n.flags⟩

/-- Larger of two numbers by value. -/
def maxVal (x y : Val) : Val := if ltSigned x y then y else x
/-- Smaller of two numbers by value. -/
def minVal (x y : Val) : Val := if ltSigned y x then y else x

/-- The scale and clip of R37, before its rounding. -/
def scaleClip (x s lo hi : Val) : Res Val :=
  let y := mulVal x s
  if isNan y.val then y
  else
    let a := if isNan lo then y.val else maxVal y.val lo
    let b := if isNan hi then a else minVal a hi
    ⟨b, y.flags⟩

/-- ScaleClipConvert of R37 for a float or integer destination. -/
def scaleClipConvert (x s lo hi : Val) (f : Nat) (sat : Bool) : Res Nat :=
  let y := scaleClip x s lo hi
  let c := convertTo y.val f sat
  ⟨c.val, y.flags ||| c.flags⟩

/-- `⌊log₂ x⌋` of a magnitude, offset by 512 so that it is a natural number for every value of the formats. -/
def exponent512 : Val → Nat
  | .fin _ num den => log2Shift num den 512
  | _ => 0

/-- A value times `2 ^ (31 - d)` over `2 ^ 31`: division by the power of two of a block scale, `d` offset by 31. -/
def divPow (x : Val) (d31 : Nat) : Val :=
  match x with
  | .fin neg num den => if 31 ≤ d31 then .fin neg num (den * 2 ^ (d31 - 31)) else .fin neg (num * 2 ^ (31 - d31)) den
  | v => v

/-- BlockQuantise of R38: the scale's SC10 code and the four element codes. -/
def blockQuantise (xs : List Val) (f : Nat) : Res (Nat × List Nat) :=
  if xs.any fun x => isNan x || isInf x then ⟨(0x3F0, xs.map fun _ => 0), flagInv⟩
  else if xs.all isZero then ⟨(0, xs.map fun x => signCode (signOf x) 0 f), 0⟩
  else
    let e := xs.foldl (fun m x => if isZero x then m else max m (exponent512 x)) 0
    -- d + 31 for d := min(max(E − emax, −30), 31)
    let d31 := min (max (e + 31 - 512 - fmtEmax f) 1) 62
    let rs := xs.map fun x => narrow (divPow x d31) f true
    ⟨(d31 * 16, rs.map (·.val)), rs.foldl (fun a r => a ||| r.flags) 0⟩

/-- ErrorFeedbackQuantise of R39: the scale, the codes and the new feedback codes. -/
def errorFeedback (gs es : List Nat) : Res (Nat × List Nat × List Nat) :=
  let ts := List.zipWith (fun g e => addVal (decodeFloat g 0) (decodeFloat e 1)) gs es
  let q := blockQuantise (ts.map (·.val)) 3
  let back := List.zipWith (fun t c =>
    let d := mulVal (decodeFloat c 3) (sc10Value q.val.1)
    let r := addVal t.val (negVal d.val)
    narrow r.val 1 false) ts q.val.2
  -- a NaN subtracted produces no flag of its own beyond those the roundings set
  ⟨(q.val.1, q.val.2, back.map (·.val)),
    (ts.foldl (fun a t => a ||| t.flags) 0) ||| q.flags ||| back.foldl (fun a r => a ||| r.flags) 0⟩

/-- Newton's iteration for the integer square root, with fuel. -/
def isqrtGo (n : Nat) : Nat → Nat → Nat
  | 0, g => g
  | k + 1, g =>
    let h := (g + n / g) / 2
    if h < g then isqrtGo n k h else g

/-- The integer square root. -/
def isqrt (n : Nat) : Nat := if n = 0 then 0 else isqrtGo n 200 (2 ^ (n.log2 / 2 + 1))

/-- The exact reciprocal square root of a positive rational, or a rational strictly between the two 64-bit neighbours
of it, which every format of class F rounds alike (R141). -/
def recipSqrt (num den : Nat) : Val :=
  -- shift so that den / num scaled has at least 160 bits
  let s := 160 + num.log2
  let q := isqrt (den * 2 ^ (2 * s) / num)
  if q * q * num == den * 2 ^ (2 * s) then .fin false q (2 ^ s) else .fin false (2 * q + 1) (2 ^ (s + 1))

/-- The product over the set bits of a fraction of the square roots `2 ^ (2 ^ -j)`, in 192-bit fixed point
(UNVERIFIED, log entry 12). -/
def exp2Frac : Nat → Nat → Nat → Nat → Nat
  | 0, _, _, acc => acc
  | k + 1, fr, root, acc =>
    let root' := isqrt (root * 2 ^ 192)
    let fr' := fr * 2
    if fr' ≥ 2 ^ 192 then exp2Frac k (fr' - 2 ^ 192) root' (acc * root' / 2 ^ 192) else exp2Frac k fr' root' acc

/-- 2 to a finite power (R141): exact for integers; otherwise a rational within 2^-150 of it, relatively (UNVERIFIED:
log entry 12). Powers beyond the range of every format are replaced by ones just beyond it. -/
def exp2Val (neg : Bool) (num den : Nat) : Val :=
  if num ≥ 1024 * den then (if neg then .fin false 1 (2 ^ 1024) else .fin false (2 ^ 1024) 1)
  else
    -- x + 1024 = i + fr
    let t := if neg then 1024 * den - num else 1024 * den + num
    let i := t / den
    let r := t % den
    if r = 0 then dyadic false 1 i 1024
    else
      let fr := r * 2 ^ 192 / den
      let p := exp2Frac 192 fr (2 * 2 ^ 192) (2 ^ 192)
      match dyadic false (2 * p + 1) i 1217 with
      | v => v

/-- VRCP of R141 on a value. -/
def recipVal : Val → Res Val
  | .nan => ⟨.nan, 0⟩
  | .inf n => ⟨.fin n 0 1, 0⟩
  | .fin n a b => if a = 0 then ⟨.inf n, flagDz⟩ else ⟨.fin n b a, 0⟩

/-- VRSQ of R141 on a value. -/
def rsqVal : Val → Res Val
  | .nan => ⟨.nan, 0⟩
  | .inf n => if n then ⟨.nan, flagInv⟩ else ⟨.fin false 0 1, 0⟩
  | .fin n a b => if a = 0 then ⟨.inf n, flagDz⟩ else if n then ⟨.nan, flagInv⟩ else ⟨recipSqrt a b, 0⟩

/-- VEXP2 of R141 on a value. -/
def exp2OfVal : Val → Res Val
  | .nan => ⟨.nan, 0⟩
  | .inf n => if n then ⟨.fin false 0 1, 0⟩ else ⟨.inf false, 0⟩
  | .fin n a b => ⟨exp2Val n a b, 0⟩

/-- Minimum of R133 on element codes of one format. -/
def minCode (a b f : Nat) : Nat :=
  if isFloatFmt f then
    let x := decodeFloat a f
    let y := decodeFloat b f
    if isNan x || isNan y then (fmtNan f).getD 0 else if ltSigned y x then b else a
  else if intOfCode b f < intOfCode a f then b else a

/-- Maximum of R133 on element codes of one format. -/
def maxCode (a b f : Nat) : Nat :=
  if isFloatFmt f then
    let x := decodeFloat a f
    let y := decodeFloat b f
    if isNan x || isNan y then (fmtNan f).getD 0 else if ltSigned x y then b else a
  else if intOfCode a f < intOfCode b f then b else a

/-- Element `j` of a packed value (R22, R62). -/
def elemAt (v w j : Nat) : Nat := v / 2 ^ (w * j) % 2 ^ w

/-- Elements packed from the least significant bit upward (R22). -/
def packElems (w : Nat) : List Nat → Nat
  | [] => 0
  | c :: cs => c % 2 ^ w + 2 ^ w * packElems w cs

/-- Element `j` read in a plain, block or group operand (R24, R25): its code, the SC10 container of its block and the
zero point of its group. The product of a block element and its scale sets the flags of R31. -/
def elemValue (f code scale zp : Nat) : Res Val :=
  if isBlockFmt f then
    match sc10Value scale with
    | .nan => ⟨.nan, 0⟩
    | s => mulVal (decodeFloat code f) s
  else if f = 13 ∨ f = 14 then ⟨valOfInt ((code : Int) - zp), 0⟩
  else ⟨decodeElem code f, 0⟩

/-- The flags of several results together (R33). -/
def resFlags {α : Type} (rs : List (Res α)) : Flags6 := rs.foldl (fun f r => f ||| r.flags) 0

end Sys2Proof.Machine
end

