-- ==== Sys2Proof/Machine/Sieve.lean ====
section
/-! DEFINITION. The Sieve: the projection of a drained row, its support record and its adjoint (R190 to R203). A row is a
list of exact values, each the value of an FP32 code. -/

namespace Sys2Proof.Machine

/-! ### The control word and the record -/

/-- SIEVE, word 0 of a drain descriptor (R190). -/
structure SieveCtl where
  set : Nat
  taum : Bool
  prow : Bool
  paddr : Nat
  deriving DecidableEq, Repr

def sieveCtl (w : Nat) : SieveCtl :=
  { set := bits w 0 3, taum := bitOf w 4, prow := bitOf w 5, paddr := bits w 16 24 }

/-- The SIEVE word is valid (R192). -/
def sieveWordOk (w : Nat) : Bool :=
  let c := sieveCtl w
  c.set != 7 && w / 2 ^ 40 == 0 && bits w 6 10 == 0 && !bitOf w 3 && (!c.taum || c.set == 1 || c.set == 2)

/-- The Sieve reads a parameter entry per row (R191). -/
def sieveParams (c : SieveCtl) (adjoint : Bool) : Bool := 1 ≤ c.set && c.set ≤ 4 && (!adjoint || c.taum)

/-- Bytes of one support record (R200). -/
def recordPitch (w : Nat) : Nat := 32 + w / 4

/-- A support record (R200); TAU, SUM and ADJSUM are FP32 codes. -/
structure Support where
  tau : Nat
  grp : Nat
  taum : Bool
  set : Nat
  bad : Bool
  act : Bool
  supp : Nat
  adjsum : Nat
  sum : Nat
  mask : List Bool
  aux : List Bool
  deriving DecidableEq, Repr

def boolBit (b : Bool) : Nat := if b then 1 else 0

/-- Bytes of a bitmap, bit `i` at bit `i mod 8` of byte `i / 8` (R200). -/
def bitmapBytes : Nat → List Bool → List Byte
  | 0, _ => []
  | n + 1, bs => BitVec.ofNat 8 (packElems 1 ((bs.take 8).map boolBit)) :: bitmapBytes n (bs.drop 8)

def bytesOf : Nat → Nat → List Byte
  | 0, _ => []
  | n + 1, x => BitVec.ofNat 8 x :: bytesOf n (x / 256)

/-- The bytes of a record for rows of `w` elements (R200). -/
def Support.bytes (r : Support) (w : Nat) : List Byte :=
  let word0 := r.tau * 2 ^ 32 + r.grp * 2 ^ 22 + boolBit r.taum * 2 ^ 21 + r.set * 2 ^ 18 + boolBit r.bad * 2 ^ 17
    + boolBit r.act * 2 ^ 16 + r.supp
  bytesOf 8 word0 ++ bytesOf 8 (r.adjsum * 2 ^ 32 + r.sum) ++ List.replicate 16 0 ++ bitmapBytes (w / 8) r.mask
    ++ bitmapBytes (w / 8) r.aux

def leNumber : List Byte → Nat
  | [] => 0
  | b :: t => b.toNat + 256 * leNumber t

/-- A record as an adjoint drain reads it (R201). -/
def supportOf (bs : List Byte) (w : Nat) : Support :=
  let word0 := leNumber (bs.take 8)
  let word1 := leNumber ((bs.drop 8).take 8)
  let bit (o : Nat) : List Bool := ((bs.drop o).take (w / 8)).flatMap fun b => (List.range 8).map fun k => bitOf b.toNat k
  { tau := bits word0 32 32, grp := bits word0 22 3, taum := bitOf word0 21, set := bits word0 18 3, bad := bitOf word0 17
    act := bitOf word0 16, supp := bits word0 0 16, adjsum := bits word1 32 32, sum := bits word1 0 32
    mask := bit 32, aux := bit (32 + w / 8) }

/-! ### Arithmetic -/

/-- FP32 code of a value that has one. -/
def f32 (v : Val) : Nat := (narrow v 0 false).val

/-- RoundF (R193): the rounded value, its flags, and whether the row becomes invalid. -/
structure Rounded where
  val : Val
  flags : Flags6
  bad : Bool
  deriving DecidableEq, Repr

def roundF (x : Res Val) : Rounded :=
  let n := narrow x.val 0 false
  let v := decodeFloat n.val 0
  ⟨v, x.flags ||| n.flags ||| (if isInf v then flagOvf else 0), isInf v⟩

def plainVal (v : Val) : Res Val := ⟨v, 0⟩

/-- A value divided by a positive count. -/
def divNat (v : Val) (n : Nat) : Val :=
  match v with
  | .fin p a b => .fin p a (b * n)
  | v => v

def absVal : Val → Val
  | .nan => .nan
  | .inf _ => .inf false
  | .fin _ a b => .fin false a b

def zeroVal : Val := .fin false 0 1
def natVal (n : Nat) : Val := .fin false n 1

/-- Exact sum of values (R193). -/
def exactSum (xs : List Val) : Val := xs.foldl (fun s x => (addVal s x).val) zeroVal

def isFin (v : Val) : Bool := !isNan v && !isInf v

/-- The square root of a quotient of two non-negative values, as recipSqrt gives it. -/
def sqrtQuot (x y : Val) : Val :=
  match x, y with
  | .fin _ a b, .fin _ c d => if a = 0 then zeroVal else recipSqrt (b * c) (a * d)
  | _, _ => .nan

/-- What the Sieve makes of a row: its output, the flags, the record, and whether the row stayed valid. -/
structure Sieved where
  u : List Val
  flags : Flags6
  rec' : Support
  bad : Bool
  deriving DecidableEq, Repr

/-- The record of an invalid row (R194), from which valid rows set their fields. -/
def blankSupport (c : SieveCtl) (w : Nat) : Support :=
  { tau := 0, grp := w / 128 - 1, taum := c.taum, set := c.set, bad := false, act := false, supp := 0, adjsum := 0, sum := 0
    mask := [], aux := [] }

/-- The result for an invalid row (R194): the rule lists BAD, SUPP, the mask, AUX, TAU and SUM of its record and says nothing of ACT, which
is written 0 (DEDUCED, log entry 32). -/
def invalidRow (c : SieveCtl) (w : Nat) (flags : Flags6) : Sieved :=
  ⟨List.replicate w .nan, flags ||| flagInv, { blankSupport c w with bad := true }, true⟩

def countTrue (bs : List Bool) : Nat := (bs.filter id).length

/-! ### Projections -/

/-- An element placed in descending order, after every element that it does not exceed (R195). -/
def insertDesc (v : Val) : List Val → List Val
  | [] => [v]
  | x :: t => if ltVal x v then v :: x :: t else x :: insertDesc v t

/-- The search of R195 over the sorted elements: the running sum, the best `k` with its sum, flags and validity
(DEDUCED, log entry 32). -/
def searchK (z : Val) : List Val → Nat → Rounded → Nat → Val → Nat × Val × Flags6 × Bool
  | [], _, c, k, ck => (k, ck, c.flags, c.bad)
  | a :: t, j, c, k, ck =>
    let r := roundF (addVal c.val a)
    let c' : Rounded := ⟨r.val, c.flags ||| r.flags, c.bad || r.bad⟩
    let test := addVal (addVal (mulVal (natVal j) a).val (negVal r.val)).val z
    if ltVal zeroVal test.val then searchK z t (j + 1) c' j r.val else searchK z t (j + 1) c' k ck

/-- Elements of a simplex or ℓ1 row brought below a threshold (R195, R199). -/
def thresholded (a : List Val) (sg : List Bool) (tau : Val) : List Rounded :=
  List.zipWith (fun v (s : Bool) =>
    if ltVal tau v then
      let r := roundF (addVal v (negVal tau))
      if s && !isZero r.val then ⟨negVal r.val, r.flags, r.bad⟩ else r
    else ⟨zeroVal, 0, false⟩) a sg

def orFlags (rs : List Rounded) : Flags6 := rs.foldl (fun f r => f ||| r.flags) 0

/-- A row from its rounded elements. -/
def sievedOf (c : SieveCtl) (w : Nat) (rs : List Rounded) (flags : Flags6) (bad : Bool) (r : Support) : Sieved :=
  let f := flags ||| orFlags rs
  if bad || rs.any (·.bad) then invalidRow c w f else ⟨rs.map (·.val), f, r, false⟩

/-- The simplex and the ℓ1 ball, by search or with a supplied threshold (R195, R199). -/
def sieveSimplex (c : SieveCtl) (p0 p1 : Val) (xs : List Val) : Sieved :=
  let w := xs.length
  let a := if c.set = 2 then xs.map absVal else xs
  let sg := xs.map fun x => c.set == 2 && ltVal x zeroVal
  let blank := blankSupport c w
  if c.taum then
    let s := a.foldl (fun (s : Val × Flags6) v =>
      if ltVal p1 v then
        let n := narrow (addVal s.1 v).val 0 false
        (decodeFloat n.val 0, s.2 ||| n.flags)
      else s) (zeroVal, 0)
    let mask := a.map fun v => ltVal p1 v
    sievedOf c w (thresholded a sg p1) s.2 false
      { blank with tau := f32 p1, sum := f32 s.1, act := true, supp := countTrue mask, mask := mask, aux := sg }
  else if c.set = 2 && !ltVal p0 (exactSum a) then
    let mask := a.map fun v => ltVal zeroVal v
    ⟨xs, 0, { blank with supp := countTrue mask, mask := mask, aux := sg }, false⟩
  else
    let sorted := a.foldl (fun t v => insertDesc v t) []
    let (k, ck, fl, bad) := searchK p0 sorted 1 ⟨zeroVal, 0, false⟩ 1 zeroVal
    let tau := roundF (plainVal (divNat (addVal ck (negVal p0)).val k))
    let mask := a.map fun v => ltVal tau.val v
    sievedOf c w (thresholded a sg tau.val) (fl ||| tau.flags) (bad || tau.bad)
      { blank with tau := f32 tau.val, sum := f32 ck, act := true, supp := countTrue mask, mask := mask, aux := sg }

/-- The ℓ2 ball (R196). -/
def sieveL2 (c : SieveCtl) (z : Val) (xs : List Val) : Sieved :=
  let w := xs.length
  let q := exactSum (xs.map fun x => (mulVal x x).val)
  let z2 := (mulVal z z).val
  let nrm := narrow (sqrtQuot q (natVal 1)) 0 false
  let mask := xs.map fun x => !isZero x
  let r := { blankSupport c w with sum := nrm.val, supp := countTrue mask, mask := mask }
  if !ltVal z2 q then ⟨xs, nrm.flags, { r with tau := f32 (natVal 1) }, false⟩
  else
    let f := roundF (plainVal (sqrtQuot z2 q))
    sievedOf c w (xs.map fun x => roundF (mulVal x f.val)) (nrm.flags ||| f.flags) f.bad
      { r with tau := f32 f.val, act := true }

/-- The box (R197). -/
def sieveBox (c : SieveCtl) (lo hi : Val) (xs : List Val) : Sieved :=
  let w := xs.length
  let mask := xs.map fun x => ltVal lo x && ltVal x hi
  let act := xs.any fun x => ltVal x lo || ltVal hi x
  ⟨xs.map fun x => if isNan x then .nan else minVal (maxVal x lo) hi, 0,
    { blankSupport c w with act := act, supp := countTrue mask, mask := mask }, false⟩

/-- A pool of a cone: its exact sum and its length (R198). -/
abbrev Pool := Val × Nat

/-- Two neighbouring pools, the earlier first, violate the order of the cone (R198). -/
def violates (up : Bool) (x y : Pool) : Bool :=
  let l := (mulVal x.1 (natVal y.2)).val
  let r := (mulVal y.1 (natVal x.2)).val
  if up then ltVal r l else ltVal l r

/-- A pool pushed on the stack, latest first, merged with those below it while they violate the order. -/
def pushPool (up : Bool) : List Pool → Pool → List Pool
  | [], p => [p]
  | q :: t, p => if violates up q p then pushPool up t ((addVal q.1 p.1).val, q.2 + p.2) else p :: q :: t

/-- The cones (R198) (DEDUCED, log entry 32). -/
def sieveCone (c : SieveCtl) (xs : List Val) : Sieved :=
  let w := xs.length
  let pools := (xs.foldl (fun st x => pushPool (c.set == 5) st (x, 1)) ([] : List Pool)).reverse
  let rs := pools.map fun p => (roundF (plainVal (divNat p.1 p.2)), p.2)
  let starts := pools.flatMap fun p => true :: List.replicate (p.2 - 1) false
  sievedOf c w (rs.flatMap fun r => List.replicate r.2 r.1) 0 false
    { blankSupport c w with act := pools.length < w, supp := pools.length, mask := xs.map fun _ => true, aux := starts }

/-- A row is invalid before any arithmetic (R194). -/
def rowInvalid (c : SieveCtl) (adjoint : Bool) (p0 p1 : Val) (xs : List Val) : Bool :=
  (c.set != 4 && xs.any fun x => !isFin x)
    || (!adjoint && !c.taum && 1 ≤ c.set && c.set ≤ 3 && (!isFin p0 || !ltVal zeroVal p0))
    || (!adjoint && c.set == 4 && (isNan p0 || isNan p1))
    || (c.taum && !isFin (if adjoint then p0 else p1))

/-- The Sieve of an ACWB on one row (R193 to R199). -/
def sieveRow (c : SieveCtl) (p0 p1 : Val) (xs : List Val) : Sieved :=
  if rowInvalid c false p0 p1 xs then invalidRow c xs.length 0
  else match c.set with
    | 1 => sieveSimplex c p0 p1 xs
    | 2 => sieveSimplex c p0 p1 xs
    | 3 => sieveL2 c p0 xs
    | 4 => sieveBox c p0 p1 xs
    | _ => sieveCone c xs

/-! ### The adjoint -/

/-- A written ±0 is +0 (R201). -/
def plusZero (v : Val) : Val := if isZero v then zeroVal else v

/-- A running sum, each addition a RoundF (R201). -/
def runningSum (xs : List Val) : Rounded :=
  xs.foldl (fun s x =>
    let r := roundF (addVal s.val x)
    ⟨r.val, s.flags ||| r.flags, s.bad || r.bad⟩) ⟨zeroVal, 0, false⟩

/-- The lengths of the pools that AUX starts; the first element starts one (DEDUCED, log entry 33). -/
def poolLengths : List Bool → List Nat
  | [] => []
  | _ :: t =>
    match poolLengths t, t with
    | n :: ns, false :: _ => (n + 1) :: ns
    | ns, _ => 1 :: ns

/-- The pools' means (R201). -/
def poolMeans : List Nat → List Val → List Rounded
  | [], _ => []
  | n :: ns, xs =>
    let t := runningSum (xs.take n)
    let m := roundF (plainVal (divNat t.val n))
    List.replicate n ⟨m.val, t.flags ||| m.flags, t.bad || m.bad⟩ ++ poolMeans ns (xs.drop n)

/-- The adjoint of a row: its outcome, and the record's new ADJSUM where it is written (R201, R202). -/
def adjointRow (c : SieveCtl) (p0 : Val) (gs : List Val) (r : Support) : Sieved × Option Nat :=
  let w := gs.length
  let out (rs : List Rounded) (flags : Flags6) (bad : Bool) : Sieved :=
    let s := sievedOf c w rs flags bad (blankSupport c w)
    { s with u := s.u.map plusZero }
  if rowInvalid c true p0 p0 gs || r.bad || r.set != c.set || r.taum != c.taum || r.grp != w / 128 - 1
      || (r.supp == 0 && (c.set == 1 || (c.set == 2 && r.act))) then (invalidRow c w 0, none)
  else if c.set = 1 || (c.set = 2 && (r.act || c.taum)) then
    let signed := List.zipWith (fun g (s : Bool) => if c.set == 2 && s then negVal g else g) gs r.aux
    let sum := runningSum (((signed.zip r.mask).filter (·.2)).map (·.1))
    let mu := if c.taum then ⟨p0, 0, false⟩ else roundF (plainVal (divNat sum.val r.supp))
    let rs := ((gs.zip r.mask).zip r.aux).map fun x =>
      if x.1.2 then roundF (addVal x.1.1 (if c.set == 2 && x.2 then mu.val else negVal mu.val)) else ⟨zeroVal, 0, false⟩
    let s := out rs (sum.flags ||| mu.flags) (sum.bad || mu.bad)
    (s, if c.taum && !s.bad then some (f32 sum.val) else none)
  else if c.set = 2 then (out (gs.map fun g => ⟨g, 0, false⟩) 0 false, none)
  else if c.set = 3 then
    (out (gs.map fun g => if r.act then roundF (mulVal (decodeFloat r.tau 0) g) else ⟨g, 0, false⟩) 0 false, none)
  else if c.set = 4 then
    let rs : List Rounded := (gs.zip r.mask).map fun x => ⟨if x.2 then x.1 else zeroVal, 0, false⟩
    (⟨rs.map fun x => plusZero x.val, 0, blankSupport c w, false⟩, none)
  else (out (poolMeans (poolLengths r.aux) gs) 0 false, none)

/-- Cycles per row and the fixed delay of a drain (R171, R203). -/
def drainTiming (c : SieveCtl) (adjoint : Bool) (grp : Nat) : Nat × Nat :=
  let g := grp + 1
  if c.set = 0 then (g, 0)
  else if adjoint then (2 * g, 12)
  else match c.set with
    | 4 => (g, 2)
    | 3 => (g, 16)
    | 5 => (8 * g, 32)
    | 6 => (8 * g, 32)
    | _ => if c.taum then (g, 8) else (4 * g, 40)

end Sys2Proof.Machine
end

