-- ==== Sys2Proof/Syntax.lean ====
section
/-! DEFINITION. The instructions and events of the machine: one constructor per row of the opcode table (spec/04 and
spec/opcode_table.json), with the operand fields the encoding tables of spec/04 give it. -/

namespace Sys2Proof

/-- The encoded slots of a bundle (R49, R63) and the microprogram store's words (R82). -/
inductive SlotKind
  | sync | ctrl | sca | mem | vec | xfm | scl | mtx | eng | micro
  deriving DecidableEq, Repr

/-- Where a host read goes: the region (0 the doorbells and registers, 2 the aperture) and the byte offset in it (R339, R340). -/
structure BarOffset where
  bar : Nat
  off : Nat
  deriving DecidableEq, Repr

/-- A host write to a BAR0 register: its value, and the ordering bits and the requester of its packet (R342). -/
structure BarWrite (α : Type) where
  value : α
  ro : Nat
  ido : Nat
  rid : Nat
  deriving DecidableEq, Repr

/-- A completion's queue pair and the position of its command there (R346). -/
structure PairSlot where
  pair : Nat
  idx : Nat
  deriving DecidableEq, Repr

/-- An acknowledgement: the command's position in its queue, the packet's number in the message, and whether it landed (R349). -/
structure Ack where
  pos : Nat
  packet : Nat
  landed : Bool
  deriving DecidableEq, Repr

/-- A packet of an untargeted message: the message's number and length, the packet's offset in it, and its bytes (R350). -/
structure Packet where
  msg : Nat
  len : Nat
  off : Nat
  bytes : List (BitVec 8)
  deriving DecidableEq, Repr

/-- One row of the opcode table each: events of the machine, instructions of the twelve slots, micro-instructions of
the matrix unit, and device commands of the mailbox. Fields of an encoding keep the names of spec/04; operands of an
event name the unit it happens in; a device command takes its words from the mailbox (R369, R370). -/
inductive Instr
  /-- BUNDLE_FETCH: The fetch unit gathers the next bundle's whole stream image (index word and dictionary entry, or literal template and fields), decodes it and runs its read-phase checks (R59) -/
  | bundleFetch (ctx : Nat)
  /-- WRITE_RETIRE: A fixed-latency register write retires at t + L and becomes visible to later bundles of the context (R54) -/
  | writeRetire (ctx : Nat)
  /-- LANDING: Load data returns into the landing buffer and lands in its destination at t + ARR, or thaws a frozen core when it was late (R107) -/
  | landing (ctx : Nat)
  /-- LATE_DATA_FREEZE: A landing's data is absent at core cycle t + ARR, so the core's clock domain freezes and SYS.LATECNT counts the freeze (R109) -/
  | lateDataFreeze (core : Nat)
  /-- WAITTO: The WAIT or CBAR timeout count reaches SYS.WAITTO and the context takes the wait-timeout program trap with SRES 0 (R86) -/
  | waitTimeout (ctx : Nat)
  /-- BOUNDARY_TRAP: At a bundle boundary a pending cause (fatal, replayable, WOUND or ARITH) is taken by priority (R213) -/
  | boundaryTrap (ctx : Nat)
  /-- MATRIX_ENTRY_BEGIN: A matrix-queue entry (routine, ACZ, ACREL, MPSLD or drain) begins once the entries ahead of it allow (R154) -/
  | matrixEntryBegin (core : Nat)
  /-- DRAIN_END: A drain performs its last write, merges its flags and increments its FEN flag in the next cycle (R171) -/
  | drainEnd (core : Nat)
  /-- XFM_RETIRE: A transform unit's result replaces its destination tile and tile control register at t + L (R148) -/
  | xfmRetire (ctx : Nat)
  /-- ENGINE_COMMAND_BEGIN: An engine command reaches the head of its queue and begins, reading descriptors and running its begin checks (R122) -/
  | engineCommandBegin (core queue : Nat)
  /-- ENGINE_COMMAND_COMPLETE: An engine command's writes have performed and its completion increments flag F of its flag core (R125) -/
  | engineCommandComplete (core queue : Nat)
  /-- COPY_POINTER_WRITE: A copy channel completes a further 128 bytes and writes its write pointer as a release at .clu (R126) -/
  | copyPointerWrite (core queue : Nat)
  /-- PREPARATION_BEGIN: The reconciler begins a preparation, taking snapshots and moving keep, zero and load entries (R230) -/
  | preparationBegin (ctx : Nat)
  /-- PREPARATION_TRUE: A preparation's last snapshot read and destination write have performed, and it becomes true (R230) -/
  | preparationTrue (ctx : Nat)
  /-- WRITE_BACK_PERFORM: A snapshot's write-back to its backing tile performs (R230) -/
  | writeBackPerform (ctx : Nat)
  /-- LOCK_HOME_ACCEPT: A lock home accepts a lock command from a queue 13 and applies it, evaluating the lock (R279) -/
  | lockHomeAccept (core idx : Nat)
  /-- AGE_COUNT_RECEIVE: A home receives another home's age count and raises its own count to it when larger (R277) -/
  | ageCountReceive (home src : Nat)
  /-- WOUND_CANCEL_ARRIVAL: A wound's cancellation reaches a home and cancels the transaction's ungranted requests there (R284) -/
  | woundCancelArrival (home ctx : Nat)
  /-- LAUNCH_ADMIT: A cluster admits a ready launch from a work queue and binds its stage instances (R310) -/
  | launchAdmit (queue cluster : Nat)
  /-- NEXT_WAKE: A parked NEXT is checked again when work arrives or its stage drains (R313) -/
  | nextWake (ctx : Nat)
  /-- LAUNCH_RETIRE: A launch whose instances, commands and drains have all ended retires, drains at .sys, writes DONE and lets the next launch in (R321) -/
  | launchRetire (launch : Nat)
  /-- WATCHDOG_EXPIRY: A queue's watchdog reaches WDLIM × 65,536 IOD cycles, setting PREQ the first time and killing the launch the second (R324) -/
  | watchdogExpiry (queue : Nat)
  /-- CLOCK_GATE: The oven timer reaches 4,096 cycles with every bound context blocked, and the core's clock is gated (R325) -/
  | clockGate (core : Nat)
  /-- POWER_GATE: The oven timer reaches 4,194,304 cycles, the core is power-gated in retention and its hang bit is set (R325) -/
  | powerGate (core : Nat)
  /-- MONITOR_WAKE: A write performs on a monitored page-table line and every waiter walks again and resumes or re-arms (R332) -/
  | monitorWake (line : Nat)
  /-- PAGE_REQUEST_RESPONSE: A PCI Express page request response arrives for a PGREQ, failing it with ENGFAULT on a failure (R334) -/
  | pageRequestResponse (core page code : Nat)
  /-- DOORBELL_WRITE: A host write to queue q's doorbell sets PTAIL and lets admission read the new ring records (R339) -/
  | doorbellWrite (queue value ro ido rid : Nat)
  /-- APERTURE_WRITE: An inbound posted write at BAR2 passes the ordering point and is translated in the bound domain and split into routes (R340) -/
  | apertureWrite (off : Nat) (data : List (BitVec 8)) (ro ido rid : Nat)
  /-- APERTURE_READ: An inbound read at BAR2 passes the ordering point and completes with data or Completer Abort (R340) -/
  | apertureRead (off : BarOffset) (len ro ido rid : Nat)
  /-- ROUTE_ACK: A route's acknowledgement returns to the ordering point, releasing requests held behind the write (R341) -/
  | routeAck (seq route : Nat)
  /-- HANGLOG_WRITE: A host write of 1 to a HANGLOG bit clears that core's sticky hang bit (R369) -/
  | hanglogWrite (mask : BarWrite (BitVec 256))
  /-- MGMT_REGISTER_WRITE: A host write to a BAR0 location with no behaviour of its own is stored or dropped (R339) -/
  | mgmtRegisterWrite (off : Nat) (value : BarWrite Nat)
  /-- HOST_ERROR_COMPLETION: A device request to host memory completes with Unsupported Request, Completer Abort or a refused translation and fails its agent (R345) -/
  | hostErrorCompletion (agent idx status : Nat)
  /-- HOST_COMPLETION_TIMEOUT: The host port's completion timeout expires for a device request, which fails as MEMERR or ENGFAULT (R345) -/
  | hostCompletionTimeout (agent idx : Nat)
  /-- NVME_COMPLETION: An NVMe Read completion arrives at a storage root port, advancing or failing an STGRD (R347) -/
  | nvmeCompletion (port : Nat) (slot : PairSlot) (status : Nat) (data : List (BitVec 8))
  /-- STORAGE_TIMEOUT: No NVMe completion arrives within 15,000,000,000 IOD cycles and the STGRD raises ENGFAULT (R347) -/
  | storageTimeout (core : Nat)
  /-- PACKET_LANDING: A network packet arrives at the receiving package, lands at RADDR and increments RFLAG on RCORE, or is refused (R349) -/
  | packetLanding (ep raddr rcore rflag : Nat) (data : List (BitVec 8))
  /-- PACKET_ACK: The receiver's acknowledgement of a packet arrives at the sender (R349) -/
  | packetAck (core : Nat) (ack : Ack)
  /-- TRANSPORT_TIMEOUT: Retransmission of a refused packet reaches the transport timeout and the NETTX raises ENGFAULT (R349) -/
  | transportTimeout (core pos : Nat)
  /-- UNTARGETED_MESSAGE: An untargeted message arrives and fills the next posted NETRXP buffer with header and bytes, or is refused (R350) -/
  | untargetedMessage (port ep src : Nat) (packet : Packet)
  /-- FLIT_CRC_ERROR: A die-link receiver finds a CRC error, discards the flit and later ones and asks for a replay (R355) -/
  | flitCrcError (link : Nat)
  /-- LINK_RETRAIN: A flit fails 16 replays in a row and the link retrains while traffic waits (R355) -/
  | linkRetrain (link : Nat)
  /-- ERROR_DETECTED: A repairable unit detects an error, corrects or poisons it and starts its targeted self-test (R357) -/
  | errorDetected (kind unit severity addr : Nat)
  /-- SELF_TEST_COMPLETE: A targeted self-test ends, classing the error transient or lasting and retiring the failed part to a spare (R357) -/
  | selfTestComplete (kind unit failed : Nat)
  /-- TRAP_QUEUE_RETRY: CIDX advances so that fewer than 255 records are pending, and agents parked without a record are retried (R362) -/
  | trapQueueRetry (node : Nat)
  /-- START: The module starts and runs the start steps from fuses to firmware ready, writing the starter record (R366) -/
  | startModule (copies fails other cores clusters hbms channels : Nat)
  /-- POWER_PERIOD: At each 150,000-cycle period the power controller compares PWR with the limit and lowers or raises core duty (R372) -/
  | powerPeriod (watts : Nat)
  /-- THERMAL_THROTTLE: The junction temperature reaches 105 °C and every core's duty is set to 4/16 (R372) -/
  | thermalThrottle
  /-- THERMAL_SHUTDOWN: The junction temperature reaches 120 °C and the BMC removes power (R372) -/
  | thermalShutdown
  /-- SNOP: SYNC slot no-op (R63) -/
  | snop
  /-- WAIT: Issues only when flag F holds at least CNT, then decrements it and acquires (R85) -/
  | wait (f : BitVec 5) (cnt : BitVec 7)
  /-- POST: Increments one of the issuing core's flags as a release at .core (R87) -/
  | post (f : BitVec 5) (inc : BitVec 7)
  /-- POSTP: Increments a flag of a core of the cluster as a release at .clu (R87) -/
  | postp (rank : BitVec 3) (f : BitVec 5) (inc : BitVec 4)
  /-- BANKLK: Holds the arbitration of a range of own PM banks for up to CNT bundles (R88) -/
  | banklk (cnt : BitVec 4) (bank0 : BitVec 5) (nb : BitVec 3)
  /-- CBAR: Arrives at a cluster barrier and waits for it to complete (R89) -/
  | cbar (bid : BitVec 4)
  /-- CNOP: CTRL slot no-op (R63) -/
  | cnop
  /-- BR: Branches always by a signed stream-word offset (R90) -/
  | br (off : BitVec 26)
  /-- BRC: Branches when a scalar meets a condition (R90) -/
  | brc (s : BitVec 6) (cond : BitVec 3) (off : BitVec 17)
  /-- BRI: Branches to the PC held in a scalar register (R90) -/
  | bri (s : BitVec 6)
  /-- CALL: Branches by an offset and writes the link to an address register (R90) -/
  | call (a : BitVec 5) (off : BitVec 21)
  /-- RET: Returns to the PC held in an address register (R90) -/
  | ret (a : BitVec 5)
  /-- LOOP: Pushes an upward loop level with an immediate or scalar count (R92) -/
  | loop (i : BitVec 3) (imm : BitVec 1) (cnt : BitVec 10) (e : BitVec 12)
  /-- LOOPQ: Pushes a loop level whose count is popped from the count queue (R289) -/
  | loopq (i : BitVec 3) (e : BitVec 12)
  /-- LNEST: Pushes a group of N + 1 nested levels with counts popped from the count queue (R291) -/
  | lnest (i n : BitVec 3) (e : BitVec 12)
  /-- LREPLAY: Replays an iterator's recorded loop in the opposite direction (R292) -/
  | lreplay (i : BitVec 3) (e : BitVec 12)
  /-- LREV: Pushes a downward loop level with an immediate or scalar count (R92) -/
  | lrev (i : BitVec 3) (imm : BitVec 1) (cnt : BitVec 10) (e : BitVec 12)
  /-- PHPREP: Checks and starts the cluster reconciler on map (SYS.PHASE + K) mod 16 (R229) -/
  | phprep (k : BitVec 4)
  /-- PHADV: Issues when its preparation is true and switches the current map, advancing SYS.PHGEN (R231) -/
  | phadv (k : BitVec 4)
  /-- PHSET: Sets the current map without reconciliation, consuming a true preparation of it if present (R232) -/
  | phset (map : BitVec 4)
  /-- MAPLD: Loads and checks a map image from virtual memory into map MAP (R228) -/
  | mapld (map : BitVec 4) (a : BitVec 5)
  /-- NEXT: Takes the next work word of the context's stage, or parks, rebinds or ends the instance (R313) -/
  | next (s : BitVec 6)
  /-- TAIL: Records a tail launch of the running launch (R319) -/
  | tail (a : BitVec 5)
  /-- TRAP: Commits and takes the TRAP program trap with its code, splitting at slot 2 (R95) -/
  | trap (code : BitVec 16)
  /-- RTE: Returns from a program trap to SYS.EPC at slot SRES, using the capture, and clears TRAPM (R215) -/
  | rte
  /-- EXIT: Waits for the context's routines, drains and landings, then ends the instance (R95) -/
  | exit
  /-- SRD: Reads a system register into a scalar register (R95) -/
  | srd (s : BitVec 6) (sysn : BitVec 8)
  /-- SWR: Writes a scalar register into a system register at commit (R46) -/
  | swr (s : BitVec 6) (sysn : BitVec 8)
  /-- DICTSW: Loads a dictionary descriptor, sets CBASE, DBASE and DICTN and sets PC to 0 (R96) -/
  | dictsw (a : BitVec 5)
  /-- SCNOP: SCA slot no-op (R63) -/
  | scnop
  /-- ADD: Scalar add modulo 2^64 (R97) -/
  | add (d a b : BitVec 6)
  /-- SUB: Scalar subtract modulo 2^64 (R97) -/
  | sub (d a b : BitVec 6)
  /-- ADDI: Adds a signed 14-bit immediate (R97) -/
  | addi (d a : BitVec 6) (imm : BitVec 14)
  /-- MUL: Low 64 bits of a product (R97) -/
  | mul (d a b : BitVec 6)
  /-- MULH: High 64 bits of the signed product (R97) -/
  | mulh (d a b : BitVec 6)
  /-- DIVQ: Signed quotient rounded toward zero (R97) -/
  | divq (d a b : BitVec 6)
  /-- REMQ: Signed remainder with the sign of a (R97) -/
  | remq (d a b : BitVec 6)
  /-- AND: Bitwise AND (R97) -/
  | and (d a b : BitVec 6)
  /-- OR: Bitwise OR (R97) -/
  | or (d a b : BitVec 6)
  /-- XOR: Bitwise XOR (R97) -/
  | xor (d a b : BitVec 6)
  /-- ANDI: Bitwise AND with a zero-extended immediate (R97) -/
  | andi (d a : BitVec 6) (imm : BitVec 14)
  /-- ORI: Bitwise OR with a zero-extended immediate (R97) -/
  | ori (d a : BitVec 6) (imm : BitVec 14)
  /-- XORI: Bitwise XOR with a zero-extended immediate (R97) -/
  | xori (d a : BitVec 6) (imm : BitVec 14)
  /-- SHL: Shift left by a register count (R97) -/
  | shl (d a b : BitVec 6)
  /-- SHR: Logical shift right by a register count (R97) -/
  | shr (d a b : BitVec 6)
  /-- SRA: Arithmetic shift right by a register count (R97) -/
  | sra (d a b : BitVec 6)
  /-- SHLI: Shift left by an immediate count (R97) -/
  | shli (d a sh : BitVec 6)
  /-- SHRI: Logical shift right by an immediate count (R97) -/
  | shri (d a sh : BitVec 6)
  /-- SRAI: Arithmetic shift right by an immediate count (R97) -/
  | srai (d a sh : BitVec 6)
  /-- MIN: Signed minimum (R97) -/
  | min (d a b : BitVec 6)
  /-- MAX: Signed maximum (R97) -/
  | max (d a b : BitVec 6)
  /-- MINN: Unsigned minimum (R97) -/
  | minn (d a b : BitVec 6)
  /-- MAXN: Unsigned maximum (R97) -/
  | maxn (d a b : BitVec 6)
  /-- CMPEQ: Sets 1 when equal, else 0 (R97) -/
  | cmpeq (d a b : BitVec 6)
  /-- CMPLT: Sets 1 when signed less than, else 0 (R97) -/
  | cmplt (d a b : BitVec 6)
  /-- CMPLTN: Sets 1 when unsigned less than, else 0 (R97) -/
  | cmpltn (d a b : BitVec 6)
  /-- SEL: Selects b when a is non-zero, else c (R97) -/
  | sel (d a b c : BitVec 6)
  /-- MOVI: Loads a sign-extended 20-bit immediate (R98) -/
  | movi (d : BitVec 6) (imm : BitVec 20)
  /-- MOVHI: Writes a 16-bit immediate into one quarter of d (R98) -/
  | movhi (d : BitVec 6) (q : BitVec 2) (imm : BitVec 16)
  /-- CLZ: Counts leading zero bits (R98) -/
  | clz (d a : BitVec 6)
  /-- POPC: Counts set bits (R98) -/
  | popc (d a : BitVec 6)
  /-- BFX: Extracts a bit field, zero- or sign-extended (R98) -/
  | bfx (d a pos len : BitVec 6) (sgn : BitVec 1)
  /-- BFI: Inserts a bit field into d (R98) -/
  | bfi (d a pos len : BitVec 6)
  /-- AADD: Adds a scalar to an address register (R99) -/
  | aadd (ad aa : BitVec 5) (s : BitVec 6)
  /-- AMOV: Moves between a scalar and an address register (R99) -/
  | amov (a : BitVec 5) (dir : BitVec 1) (s : BitVec 6)
  /-- ALEA: Adds a shifted scalar to an address register (R99) -/
  | alea (ad aa : BitVec 5) (s : BitVec 6) (sh : BitVec 3)
  /-- FADD: FP32 add with one rounding (R100) -/
  | fadd (d a b : BitVec 6)
  /-- FMUL: FP32 multiply with one rounding (R100) -/
  | fmul (d a b : BitVec 6)
  /-- FMA: FP32 fused multiply-add with one rounding (R100) -/
  | fma (d a b c : BitVec 6)
  /-- FCVT: Converts one element between float and integer formats (R101) -/
  | fcvt (d a : BitVec 6) (dfmt sfmt : BitVec 5) (sat : BitVec 1)
  /-- TSHAPE: Writes a tile's control register with format, rows, bytes per row and group size (R102) -/
  | tshape (t : BitVec 4) (fmt : BitVec 5) (rows bpr : BitVec 7) (gsz : BitVec 2)
  /-- MPAR: Sets a matrix parameter register from a scalar (R103) -/
  | mpar (p : BitVec 3) (s : BitVec 6)
  /-- LNOP: MEM slot no-op (R63) -/
  | lnop
  /-- LD: Scalar load landing at its arrival count, optionally an acquire (R110) -/
  | ld (sp : BitVec 2) (ac : BitVec 3) (d : BitVec 6) (a : BitVec 5) (arr : BitVec 10) (ord pi : BitVec 1) (addr : BitVec 10)
  /-- ST: Scalar store at commit, optionally a release (R110) -/
  | st (sp : BitVec 2) (ac : BitVec 3) (s : BitVec 6) (a : BitVec 5) (ord pi : BitVec 1) (addr : BitVec 10)
  /-- LDV: 128-byte vector load landing at its arrival count, with acquire and residency-tolerant forms (R110) -/
  | ldv (sp : BitVec 2) (ac : BitVec 3) (v : BitVec 9) (a : BitVec 5) (arr : BitVec 10) (nr ord pi : BitVec 1) (addr : BitVec 10)
  /-- STV: 128-byte vector store at commit, optionally a release (R110) -/
  | stv (sp : BitVec 2) (ac : BitVec 3) (v : BitVec 9) (a : BitVec 5) (ord pi : BitVec 1) (addr : BitVec 10)
  /-- LDVS: Strided vector load (R113) -/
  | ldvs (sp : BitVec 2) (ac : BitVec 3) (v : BitVec 9) (a : BitVec 5) (arr : BitVec 10) (s : BitVec 6) (esz : BitVec 2)
  /-- STVS: Strided vector store (R113) -/
  | stvs (sp : BitVec 2) (ac : BitVec 3) (v : BitVec 9) (a : BitVec 5) (s : BitVec 6) (esz : BitVec 2)
  /-- LDVG: Gathered vector load (R113) -/
  | ldvg (sp : BitVec 2) (ac : BitVec 3) (v : BitVec 9) (a : BitVec 5) (arr : BitVec 10) (x : BitVec 9) (esz : BitVec 2)
  /-- STVG: Scattered vector store (R113) -/
  | stvg (sp : BitVec 2) (ac : BitVec 3) (v : BitVec 9) (a : BitVec 5) (x : BitVec 9) (esz : BitVec 2)
  /-- LDT: Loads a tile's rows directly into the tile by t + ARR (R114) -/
  | ldt (sp : BitVec 2) (ac : BitVec 3) (t : BitVec 4) (a : BitVec 5) (arr : BitVec 10) (pi : BitVec 1) (off : BitVec 10)
  /-- STT: Stores a tile's rows at commit (R114) -/
  | stt (sp : BitVec 2) (ac : BitVec 3) (t : BitVec 4) (a : BitVec 5) (pi : BitVec 1) (off : BitVec 10)
  /-- STT2: Stores a tile and its transposed copy (R115) -/
  | stt2 (sp : BitVec 2) (ac : BitVec 3) (t : BitVec 4) (a : BitVec 5) (pi : BitVec 1) (off : BitVec 10)
  /-- AMO: Atomic read-modify-write at a scope, landing the old value (R116) -/
  | amo (sp : BitVec 2) (ac : BitVec 3) (d s : BitVec 6) (a : BitVec 5) (scope : BitVec 3) (aop : BitVec 4) (w64 acq rel : BitVec 1)
  /-- RED: Reduction merged in the owning port's write queue (R117) -/
  | red (sp : BitVec 2) (ac : BitVec 3) (s : BitVec 6) (a : BitVec 5) (scope : BitVec 3) (aop : BitVec 4) (w64 rel ord : BitVec 1)
  /-- DRAIN: Holds the next bundle until the context's earlier accesses have performed at a scope (R118) -/
  | drain (scope : BitVec 3)
  /-- FENCE: Orders the context's accesses of the named alias classes at a scope (R119) -/
  | fence (scope : BitVec 3) (acls : BitVec 8)
  /-- CVTWAYS: Sets how many L1 ways serve as scratchpad (R120) -/
  | cvtways (nw : BitVec 5)
  /-- CINV: Invalidates cached lines without write-back (R121) -/
  | cinv (sp : BitVec 2) (ac : BitVec 3) (a : BitVec 5) (nl : BitVec 10)
  /-- CWB: Writes dirty cached lines back to L2 (R121) -/
  | cwb (sp : BitVec 2) (ac : BitVec 3) (a : BitVec 5) (nl : BitVec 10)
  /-- PREF: Prefetches lines into L1 (R121) -/
  | pref (sp : BitVec 2) (ac : BitVec 3) (a : BitVec 5) (nl : BitVec 10)
  /-- VNOP: VEC slot no-op (R63) -/
  | vnop
  /-- VADD: Element-wise add (R133) -/
  | vadd (vd va vb : BitVec 9) (fmt : BitVec 5) (m : BitVec 4) (men : BitVec 1)
  /-- VSUB: Element-wise subtract (R133) -/
  | vsub (vd va vb : BitVec 9) (fmt : BitVec 5) (m : BitVec 4) (men : BitVec 1)
  /-- VMUL: Element-wise multiply (R133) -/
  | vmul (vd va vb : BitVec 9) (fmt : BitVec 5) (m : BitVec 4) (men : BitVec 1)
  /-- VFMA: Element-wise fused multiply-add into VD (R133) -/
  | vfma (vd va vb : BitVec 9) (fmt : BitVec 5) (m : BitVec 4) (men : BitVec 1)
  /-- VMIN: Element-wise minimum (R133) -/
  | vmin (vd va vb : BitVec 9) (fmt : BitVec 5) (m : BitVec 4) (men : BitVec 1)
  /-- VMAX: Element-wise maximum (R133) -/
  | vmax (vd va vb : BitVec 9) (fmt : BitVec 5) (m : BitVec 4) (men : BitVec 1)
  /-- VABS: Element-wise absolute value (R134) -/
  | vabs (vd va : BitVec 9) (fmt : BitVec 5) (m : BitVec 4) (men : BitVec 1)
  /-- VNEG: Element-wise negation (R134) -/
  | vneg (vd va : BitVec 9) (fmt : BitVec 5) (m : BitVec 4) (men : BitVec 1)
  /-- VAND: Bitwise AND of element codes (R135) -/
  | vand (vd va vb : BitVec 9) (fmt : BitVec 5) (m : BitVec 4) (men : BitVec 1)
  /-- VOR: Bitwise OR of element codes (R135) -/
  | vor (vd va vb : BitVec 9) (fmt : BitVec 5) (m : BitVec 4) (men : BitVec 1)
  /-- VXOR: Bitwise XOR of element codes (R135) -/
  | vxor (vd va vb : BitVec 9) (fmt : BitVec 5) (m : BitVec 4) (men : BitVec 1)
  /-- VNOT: Bitwise complement of element codes (R135) -/
  | vnot (vd va : BitVec 9) (fmt : BitVec 5) (m : BitVec 4) (men : BitVec 1)
  /-- VSHL: Element-wise shift left (R134) -/
  | vshl (vd va vb : BitVec 9) (fmt : BitVec 5) (m : BitVec 4) (men : BitVec 1)
  /-- VSHR: Element-wise logical shift right (R134) -/
  | vshr (vd va vb : BitVec 9) (fmt : BitVec 5) (m : BitVec 4) (men : BitVec 1)
  /-- VSRA: Element-wise arithmetic shift right (R134) -/
  | vsra (vd va vb : BitVec 9) (fmt : BitVec 5) (m : BitVec 4) (men : BitVec 1)
  /-- VCMP: Compares elements under a predicate into a mask (R136) -/
  | vcmp (md : BitVec 4) (va vb : BitVec 9) (fmt : BitVec 5) (m : BitVec 4) (men : BitVec 1) (fn : BitVec 4)
  /-- VSEL: Selects elements of VA or VB by mask (R135) -/
  | vsel (vd va vb : BitVec 9) (fmt : BitVec 5) (m : BitVec 4)
  /-- VMOV: Copies elements (R137) -/
  | vmov (vd va : BitVec 9) (fmt : BitVec 5) (m : BitVec 4) (men : BitVec 1)
  /-- VBCAST: Broadcasts a scalar to every element (R137) -/
  | vbcast (vd : BitVec 9) (s : BitVec 6) (fmt : BitVec 5) (m : BitVec 4) (men : BitVec 1)
  /-- VEXT: Extracts one element to a scalar (R137) -/
  | vext (s : BitVec 6) (va : BitVec 9) (sl : BitVec 6) (fmt : BitVec 5) (m : BitVec 4) (men : BitVec 1)
  /-- VINS: Inserts a scalar into one element (R137) -/
  | vins (vd : BitVec 9) (s sl : BitVec 6) (fmt : BitVec 5) (m : BitVec 4) (men : BitVec 1)
  /-- VPERM: Permutes elements by lane indices (R137) -/
  | vperm (vd va vb : BitVec 9) (fmt : BitVec 5) (m : BitVec 4) (men : BitVec 1)
  /-- VRED: Reduces a vector to a scalar over a fixed tree (R138) -/
  | vred (s : BitVec 6) (va : BitVec 9) (fmt : BitVec 5) (m : BitVec 4) (men : BitVec 1) (fn : BitVec 4)
  /-- VSCAN: Writes the inclusive prefix of a vector (R139) -/
  | vscan (vd va : BitVec 9) (fmt : BitVec 5) (m : BitVec 4) (men : BitVec 1) (fn : BitVec 4)
  /-- VCVT: Converts elements between formats (R140) -/
  | vcvt (vd va : BitVec 9) (sfmt fmt : BitVec 5) (m : BitVec 4) (men sat : BitVec 1)
  /-- VRCP: Correctly rounded reciprocal (R141) -/
  | vrcp (vd va : BitVec 9) (fmt : BitVec 5) (m : BitVec 4) (men : BitVec 1)
  /-- VRSQ: Correctly rounded reciprocal square root (R141) -/
  | vrsq (vd va : BitVec 9) (fmt : BitVec 5) (m : BitVec 4) (men : BitVec 1)
  /-- VEXP2: Correctly rounded power of two (R141) -/
  | vexp2 (vd va : BitVec 9) (fmt : BitVec 5) (m : BitVec 4) (men : BitVec 1)
  /-- VTHR: Marks elements at or above a threshold (R142) -/
  | vthr (md : BitVec 4) (va : BitVec 9) (s : BitVec 6) (fmt : BitVec 5) (m : BitVec 4) (men : BitVec 1)
  /-- VTOPK: Marks the k largest candidate elements (R143) -/
  | vtopk (md : BitVec 4) (va : BitVec 9) (s : BitVec 6) (fmt : BitVec 5) (m : BitVec 4) (men : BitVec 1)
  /-- VHIST: Adds bin counts into the count queue (R144) -/
  | vhist (va : BitVec 9) (s : BitVec 6) (fmt : BitVec 5) (m : BitVec 4) (men : BitVec 1)
  /-- SCACC: Scales INT32 partials by group scales into FP32 accumulators (R145) -/
  | scacc (vd va vb : BitVec 9) (m : BitVec 4) (men : BitVec 1)
  /-- VEFQ: Error-feedback quantises 32 gradients to E4M3 blocks (R146) -/
  | vefq (vd va vb : BitVec 9)
  /-- MAND: Mask AND (R147) -/
  | mand (md ma mb m : BitVec 4) (men : BitVec 1)
  /-- MOR: Mask OR (R147) -/
  | mor (md ma mb m : BitVec 4) (men : BitVec 1)
  /-- MXOR: Mask XOR (R147) -/
  | mxor (md ma mb m : BitVec 4) (men : BitVec 1)
  /-- MNOT: Mask complement (R147) -/
  | mnot (md ma m : BitVec 4) (men : BitVec 1)
  /-- MPOPC: Counts set mask bits into a scalar (R147) -/
  | mpopc (s : BitVec 6) (ma m : BitVec 4) (men : BitVec 1)
  /-- XNOP: XFM slot no-op (R63) -/
  | xnop
  /-- XEXP: Unpacks 4-bit and 6-bit codes into bytes (R150) -/
  | xexp (td ta : BitVec 4) (fmt : BitVec 5)
  /-- XTRN: Transposes element codes of a tile (R151) -/
  | xtrn (td ta : BitVec 4)
  /-- XCVT: Converts each element of a tile to a format (R152) -/
  | xcvt (td ta : BitVec 4) (fmt : BitVec 5)
  /-- XREBLK: Transposes a tile and re-quantises it into a block format (R153) -/
  | xreblk (td ta : BitVec 4) (fmt : BitVec 5)
  /-- SLNOP: SCL slot no-op (R63) -/
  | slnop
  /-- SLATCH: Writes 64 edge scale latches from a vector, effective 6 cycles later (R164) -/
  | slatch (side : BitVec 1) (v : BitVec 9) (half : BitVec 1)
  /-- SLCLR: Sets every latch of an edge to 1.0 (R164) -/
  | slclr (side : BitVec 1)
  /-- MNOP: MTX slot no-op (R63) -/
  | mnop
  /-- MCALL: Checks and queues the routine at an entry, mapping its output handles (R155) -/
  | mcall (entry : BitVec 6)
  /-- ACZ: Queues zeroing of an accumulator handle, mapping it if needed (R167) -/
  | acz (slot : BitVec 4)
  /-- ACREL: Queues the return of a handle's slot to the free list (R167) -/
  | acrel (slot : BitVec 4)
  /-- ACWB: Queues a drain of a group of handles through the Sieve and scale-and-clip (R171) -/
  | acwb (slot : BitVec 4) (grp p : BitVec 3) (dst : BitVec 1)
  /-- ACADJ: Queues an adjoint drain using earlier support records (R172) -/
  | acadj (slot : BitVec 4) (grp p : BitVec 3) (dst : BitVec 1)
  /-- MPSLD: Checks and queues the loading of a routine image into the MPS (R169) -/
  | mpsld (p : BitVec 3)
  /-- ACBRD: Reads accumulator bank rows into vector registers in compatibility mode (R168) -/
  | acbrd (ba bb : BitVec 4) (v : BitVec 9) (one : BitVec 1)
  /-- ACBWR: Writes vector registers into accumulator bank rows in compatibility mode (R168) -/
  | acbwr (ba bb : BitVec 4) (v : BitVec 9) (one : BitVec 1)
  /-- ENOP: ENG slot no-op (R63) -/
  | enop
  /-- CPY: Enqueues a copy on a channel with an optional write pointer (R126) -/
  | cpy (a f : BitVec 5)
  /-- MCAST: Enqueues a multicast fill into PM of the cores of a mask (R127) -/
  | mcast (a f : BitVec 5)
  /-- BTE: Enqueues a strided block transfer (R248) -/
  | bte (a f : BitVec 5)
  /-- TLD: Enqueues a tensor window load through the layout unit (R252) -/
  | tld (a f : BitVec 5)
  /-- TST: Enqueues a tensor window store through the layout unit (R253) -/
  | tst (a f : BitVec 5)
  /-- CMPX: Enqueues ZB expansion of CSM chunks into PM (R245) -/
  | cmpx (a f : BitVec 5)
  /-- CMPW: Enqueues ZB compression of PM chunks into CSM (R244) -/
  | cmpw (a f : BitVec 5)
  /-- TGATH: Enqueues a gather of tensor rows by index (R299) -/
  | tgath (a f : BitVec 5)
  /-- TSCAT: Enqueues a scatter-add of rows into a tensor (R300) -/
  | tscat (a f : BitVec 5)
  /-- QFENCE: Enqueues a fence across the named engine queues (R128) -/
  | qfence (a f : BitVec 5)
  /-- QPUSH: Enqueues a push of a descriptor into a stage queue (R315) -/
  | qpush (a f : BitVec 5)
  /-- LKBEGIN: Starts a lock transaction, drawing an age ordinal (R278) -/
  | lkbegin (a f : BitVec 5)
  /-- LKREQ: Requests a lock in a mode (R280) -/
  | lkreq (a f : BitVec 5)
  /-- LKUPG: Requests an upgrade of a held lock (R281) -/
  | lkupg (a f : BitVec 5)
  /-- LKREL: Releases a hold or cancels a wait on one lock (R282) -/
  | lkrel (a f : BitVec 5)
  /-- LKRELALL: Releases every lock of the transaction at one home (R282) -/
  | lkrelall (a f : BitVec 5)
  /-- COLL: Joins a collective operation of a group (R351) -/
  | coll (a f : BitVec 5)
  /-- NETTX: Sends bytes to a remote endpoint slot over Ultra Ethernet (R349) -/
  | nettx (a f : BitVec 5)
  /-- NETRXP: Posts a receive buffer for untargeted messages (R350) -/
  | netrxp (a f : BitVec 5)
  /-- STGRD: Reads NVMe blocks into virtual memory (R347) -/
  | stgrd (a f : BitVec 5)
  /-- VDEC: Enqueues a video decode job (R353) -/
  | vdec (a f : BitVec 5)
  /-- PGREQ: Requests that a range of pages be made resident (R334) -/
  | pgreq (a f : BitVec 5)
  /-- MIDLE: Idles CNT + 1 cycles (R159) -/
  | midle (cnt : BitVec 10)
  /-- MLDA: Copies tile rows as the A operand (R160) -/
  | mlda (p : BitVec 3) (row0 nrow : BitVec 7)
  /-- MLDB: Copies tile rows as the B operand (R160) -/
  | mldb (p : BitVec 3) (row0 nrow : BitVec 7)
  /-- MSTEP: Performs NCH + 1 contraction chunks into the target (R161) -/
  | mstep (nch : BitVec 8)
  /-- MSCALE: Sets scale use for one side (R164) -/
  | mscale (side en : BitVec 1)
  /-- MZP: Copies group records for one side (R165) -/
  | mzp (side : BitVec 1) (p : BitVec 3)
  /-- MSKIP: Sets zero skipping (R166) -/
  | mskip (en : BitVec 1)
  /-- MROWB: Copies the second B operand and sets the row boundary (R160) -/
  | mrowb (row : BitVec 7) (p : BitVec 3)
  /-- MACC: Sets the target handle and INT mode (R159) -/
  | macc (p : BitVec 3) (int : BitVec 1)
  /-- MLOOP: Repeats words TOP to this word CNT times (R163) -/
  | mloop (cnt top : BitVec 10)
  /-- MEND: Ends the routine and merges its flags (R158) -/
  | mend
  /-- MFMT: Sets the A and B operand formats (R159) -/
  | mfmt (afmt bfmt : BitVec 5)
  /-- MSETK: Sets the contraction length K (R159) -/
  | msetk (k : BitVec 12)
  /-- MCLR: Zeroes a handle and sets it to float mode (R159) -/
  | mclr (p : BitVec 3)
  /-- MJMP: Jumps to an MPS word (R159) -/
  | mjmp (target : BitVec 10)
  /-- MWAITS: Waits for the next SCL instruction of a side (R164) -/
  | mwaits (side : BitVec 1)
  /-- MATRIX_ENTRY_END: An ACZ, ACREL or MPSLD entry ends after its stated duration, leaves the matrix queue and lets later entries begin (R154) -/
  | matrixEntryEnd (core : Nat)
  /-- ACCESS_PERFORM: A memory access of a context performs at a scope, ending the holds of DRAIN, release stores, POST, POSTP and LKREL that wait on it (R258) -/
  | accessPerform (ctx idx : Nat)
  /-- TABLE_WALK_COMPLETE: A page-table walk made for a slot's read phase completes and the core's frozen clock resumes (R106) -/
  | tableWalkComplete (core : Nat)
  /-- LINK_RETRAIN_COMPLETE: A die link finishes retraining and the traffic that waited resumes (R355) -/
  | linkRetrainComplete (link : Nat)
  /-- MAILBOX_UNKNOWN_OPCODE: A mailbox command with an unlisted opcode is started by GO and answered with STATUS 1 (R370) -/
  | mailboxUnknownOpcode
  /-- ATS_INVALIDATION_REQUEST: The host sends an ATS invalidation request for entries of the device's address translation cache (R338) -/
  | atsInvalidationRequest (pasid va bytes : Nat)
  /-- COLLECTIVE_PACKET: A packet of another member's part of a collective operation arrives and is reduced or placed toward this member's DST (R351) -/
  | collectivePacket (group op rank : Nat) (cop fmt len : Nat) (data : List (BitVec 8))
  /-- HBM_REFRESH: A refresh of an HBM bank writes back every dirty row buffer and keeps it valid (R255) -/
  | hbmRefresh (bank : Nat)
  /-- IDENT: Returns part number, firmware version and starter-record SEQ (R370) -/
  | ident
  /-- GETCFG: Returns the removal masks of the starter record (R370) -/
  | getcfg
  /-- MGMTROOT: Sets the root of the management space (R370) -/
  | mgmtroot
  /-- DOMCREATE: Creates a fault domain on an RCB node (R370) -/
  | domcreate
  /-- DOMTEARDOWN: Ends a fault domain, killing its contexts and halting its commands (R365) -/
  | domteardown
  /-- QCREATE: Creates a hardware work queue (R370) -/
  | qcreate
  /-- QDESTROY: Destroys a work queue (R370) -/
  | qdestroy
  /-- QCLEAR: Clears a queue's error or killed state (R370) -/
  | qclear
  /-- QPREEMPT: Sets PREQ on a queue (R370) -/
  | qpreempt
  /-- QRESUME: Resumes a saved queue (R323) -/
  | qresume
  /-- QKILL: Kills a queue's launch with WDKILL (R370) -/
  | qkill
  /-- RESUME: Resumes a parked context or engine command (R216) -/
  | resume
  /-- KILL: Kills a context with the fatal CMDKILL cause (R370) -/
  | kill
  /-- XINVAL: Invalidates translations of a range in a domain (R331) -/
  | xinval
  /-- OUTCOME: Writes a domain's outcome record (R364) -/
  | outcome
  /-- MIGRATE: Moves or re-duplicates one page between HBM and STM (R337) -/
  | migrate
  /-- APBIND: Binds the BAR2 aperture to a domain and base (R340) -/
  | apbind
  /-- EPBIND: Binds a network endpoint to a remote package, port and domain (R348) -/
  | epbind
  /-- GRPDEF: Defines a collective group's member list (R351) -/
  | grpdef
  /-- NSATTACH: Attaches or detaches an NVMe namespace (R346) -/
  | nsattach
  /-- SETVEC: Routes an event to an MSI-X vector (R370) -/
  | setvec
  /-- ERRGET: Returns a unit's error counts, class and spares left (R370) -/
  | errget
  /-- SELFTEST: Runs the targeted self-test on a unit (R357) -/
  | selftest
  /-- STARTREC: Returns the starter record and optionally clears its step entries (R368) -/
  | startrec
  /-- ATTEST: Writes a signed attestation report to host memory (R371) -/
  | attest
  /-- FWSTAGE: Verifies an image and writes it as the primary firmware image (R371) -/
  | fwstage
  /-- PWRLIMIT: Sets the module power limit (R372) -/
  | pwrlimit
  deriving DecidableEq, Repr

end Sys2Proof
end

