-- ==== Sys2Proof/WellFormed.lean ====
section
/-! DEFINITION. Which operand values of an instruction its encoding admits (R43, R64 to R83 of spec/04, R104 of
spec/06, and the format classes of spec/07). What depends on SYS.TGRANT, on the accumulator mode or on other slots is checked at fetch. -/

namespace Sys2Proof

/-- A format code that R17 assigns. -/
def fmtKnown (f : BitVec 5) : Bool := f != 15 && f.toNat < 25
/-- Class F of R130. -/
def fmtF (f : BitVec 5) : Bool := f.toNat < 3
/-- Class E of R130. -/
def fmtE (f : BitVec 5) : Bool := f == 3 || f == 4
/-- Class I of R130. -/
def fmtI (f : BitVec 5) : Bool := 17 ≤ f.toNat && f.toNat < 25
/-- Class W of R130. -/
def fmtW (f : BitVec 5) : Bool := fmtF f || fmtE f || fmtI f
/-- The formats FCVT and VCVT accept (R70, R140). -/
def fmtScalar (f : BitVec 5) : Bool := f.toNat < 8 || (16 ≤ f.toNat && f.toNat < 25)
/-- The scalar formats narrower than 8 bits (R17). -/
def fmtNarrow (f : BitVec 5) : Bool := f == 5 || f == 6 || f == 7 || f == 16
/-- The 6-bit formats (R17). -/
def fmtSix (f : BitVec 5) : Bool := f == 5 || f == 6 || f == 10 || f == 11
/-- The micro-block formats (R17). -/
def fmtBlock (f : BitVec 5) : Bool := 8 ≤ f.toNat && f.toNat < 13
/-- A vector register field names a register (R43). -/
def vregOk (v : BitVec 9) : Bool := v.toNat < 320
/-- Scope codes 6 and 7 are illegal (R66). -/
def scopeOk (s : BitVec 3) : Bool := s.toNat < 6
/-- MEN 0 requires M to be 0 (R76). -/
def maskOk (m : BitVec 4) (men : BitVec 1) : Bool := men != 0 || m == 0
/-- A block tile has an even number (R149). -/
def tileEven (t : BitVec 4) : Bool := t.toNat % 2 == 0

/-- The instruction's operands are ones its encoding admits. -/
def wf : Instr → Bool
  | .bundleFetch _ => true
  | .writeRetire _ => true
  | .landing _ => true
  | .lateDataFreeze _ => true
  | .waitTimeout _ => true
  | .boundaryTrap _ => true
  | .matrixEntryBegin _ => true
  | .drainEnd _ => true
  | .xfmRetire _ => true
  | .engineCommandBegin _ _ => true
  | .engineCommandComplete _ _ => true
  | .copyPointerWrite _ _ => true
  | .preparationBegin _ => true
  | .preparationTrue _ => true
  | .writeBackPerform _ => true
  | .lockHomeAccept _ _ => true
  | .ageCountReceive _ _ => true
  | .woundCancelArrival _ _ => true
  | .launchAdmit _ _ => true
  | .nextWake _ => true
  | .launchRetire _ => true
  | .watchdogExpiry _ => true
  | .clockGate _ => true
  | .powerGate _ => true
  | .monitorWake _ => true
  | .pageRequestResponse _ _ _ => true
  | .doorbellWrite _ _ _ _ _ => true
  | .apertureWrite _ _ _ _ _ => true
  | .apertureRead _ _ _ _ _ => true
  | .routeAck _ _ => true
  | .hanglogWrite _ => true
  | .mgmtRegisterWrite _ _ => true
  | .hostErrorCompletion _ _ _ => true
  | .hostCompletionTimeout _ _ => true
  | .nvmeCompletion _ _ _ _ => true
  | .storageTimeout _ => true
  | .packetLanding _ _ _ _ _ => true
  | .packetAck _ _ => true
  | .transportTimeout _ _ => true
  | .untargetedMessage _ _ _ _ => true
  | .flitCrcError _ => true
  | .linkRetrain _ => true
  | .errorDetected _ _ _ _ => true
  | .selfTestComplete _ _ _ => true
  | .trapQueueRetry _ => true
  | .startModule _ _ _ _ _ _ _ => true
  | .powerPeriod _ => true
  | .thermalThrottle => true
  | .thermalShutdown => true
  | .snop => true
  | .wait _ _ => true
  | .post _ _ => true
  | .postp _ _ _ => true
  | .banklk cnt _ _ => cnt != 0
  | .cbar _ => true
  | .cnop => true
  | .br _ => true
  | .brc _ _ _ => true
  | .bri _ => true
  | .call _ _ => true
  | .ret _ => true
  | .loop _ imm cnt _ => imm != 0 || cnt.toNat < 64
  | .loopq _ _ => true
  | .lnest i n _ => i.toNat + n.toNat ≤ 7
  | .lreplay _ _ => true
  | .lrev _ imm cnt _ => imm != 0 || cnt.toNat < 64
  | .phprep k => k != 0
  | .phadv k => k != 0
  | .phset _ => true
  | .mapld _ _ => true
  | .next _ => true
  | .tail _ => true
  | .trap _ => true
  | .rte => true
  | .exit => true
  | .srd _ _ => true
  | .swr _ _ => true
  | .dictsw _ => true
  | .scnop => true
  | .add _ _ _ => true
  | .sub _ _ _ => true
  | .addi _ _ _ => true
  | .mul _ _ _ => true
  | .mulh _ _ _ => true
  | .divq _ _ _ => true
  | .remq _ _ _ => true
  | .and _ _ _ => true
  | .or _ _ _ => true
  | .xor _ _ _ => true
  | .andi _ _ _ => true
  | .ori _ _ _ => true
  | .xori _ _ _ => true
  | .shl _ _ _ => true
  | .shr _ _ _ => true
  | .sra _ _ _ => true
  | .shli _ _ _ => true
  | .shri _ _ _ => true
  | .srai _ _ _ => true
  | .min _ _ _ => true
  | .max _ _ _ => true
  | .minn _ _ _ => true
  | .maxn _ _ _ => true
  | .cmpeq _ _ _ => true
  | .cmplt _ _ _ => true
  | .cmpltn _ _ _ => true
  | .sel _ _ _ _ => true
  | .movi _ _ => true
  | .movhi _ _ _ => true
  | .clz _ _ => true
  | .popc _ _ => true
  | .bfx _ _ pos len _ => pos.toNat + len.toNat + 1 ≤ 64
  | .bfi _ _ pos len => pos.toNat + len.toNat + 1 ≤ 64
  | .aadd _ _ _ => true
  | .amov _ _ _ => true
  | .alea _ _ _ _ => true
  | .fadd _ _ _ => true
  | .fmul _ _ _ => true
  | .fma _ _ _ _ => true
  | .fcvt _ _ dfmt sfmt sat => fmtScalar dfmt && fmtScalar sfmt && (sat == 0 || dfmt == 4)
  | .tshape _ fmt _ bpr gsz => fmtKnown fmt && gsz != 3 && (gsz == 0 || fmt == 13 || fmt == 14) && (!fmtSix fmt || (bpr.toNat + 1) % 3 == 0)
  | .mpar _ _ => true
  | .lnop => true
  | .ld _ _ _ _ _ ord pi addr => if ord = 0 then addr.toNat / 128 < 7
      else pi == 0 && addr.toNat / 128 < 7 && addr.toNat / 16 % 8 < 6 && addr.toNat % 16 == 0
  | .st _ _ _ _ ord pi addr => if ord = 0 then addr.toNat / 128 < 7
      else pi == 0 && addr.toNat / 128 < 7 && addr.toNat / 16 % 8 < 6 && addr.toNat % 16 == 0
  | .ldv sp _ v _ _ nr ord pi addr => vregOk v && (if ord = 0 then nr == 0 || sp == 1 || sp == 3
      else pi == 0 && nr == 0 && addr.toNat / 128 < 6 && addr.toNat % 128 == 0)
  | .stv _ _ v _ ord pi addr => vregOk v && (ord == 0 || (pi == 0 && addr.toNat / 128 < 6 && addr.toNat % 128 == 0))
  | .ldvs _ _ v _ _ _ _ => vregOk v
  | .stvs _ _ v _ _ _ => vregOk v
  | .ldvg _ _ v _ _ x _ => vregOk v && vregOk x
  | .stvg _ _ v _ x _ => vregOk v && vregOk x
  | .ldt _ _ _ _ _ _ _ => true
  | .stt _ _ _ _ _ _ => true
  | .stt2 _ _ _ _ _ _ => true
  | .amo _ _ _ _ _ scope aop w64 _ _ => scopeOk scope && aop.toNat ≤ 11 && (aop != 8 || w64 == 0)
  | .red _ _ _ _ scope aop w64 _ ord => scopeOk scope && aop.toNat ≤ 9 && (aop != 8 || w64 == 0) && (ord == 0 || aop == 8)
  | .drain scope => scopeOk scope
  | .fence scope acls => scopeOk scope && acls != 0
  | .cvtways nw => nw.toNat ≤ 16
  | .cinv sp _ _ _ => sp != 0
  | .cwb sp _ _ _ => sp != 0
  | .pref sp _ _ _ => sp != 0
  | .vnop => true
  | .vadd vd va vb fmt m men => vregOk vd && vregOk va && vregOk vb && maskOk m men && (fmtF fmt || fmtI fmt)
  | .vsub vd va vb fmt m men => vregOk vd && vregOk va && vregOk vb && maskOk m men && (fmtF fmt || fmtI fmt)
  | .vmul vd va vb fmt m men => vregOk vd && vregOk va && vregOk vb && maskOk m men && (fmtF fmt || fmtI fmt)
  | .vfma vd va vb fmt m men => vregOk vd && vregOk va && vregOk vb && maskOk m men && (fmtF fmt || fmtI fmt)
  | .vmin vd va vb fmt m men => vregOk vd && vregOk va && vregOk vb && maskOk m men && fmtW fmt
  | .vmax vd va vb fmt m men => vregOk vd && vregOk va && vregOk vb && maskOk m men && fmtW fmt
  | .vabs vd va fmt m men => vregOk vd && vregOk va && maskOk m men && (fmtF fmt || fmtI fmt)
  | .vneg vd va fmt m men => vregOk vd && vregOk va && maskOk m men && (fmtF fmt || fmtI fmt)
  | .vand vd va vb fmt m men => vregOk vd && vregOk va && vregOk vb && maskOk m men && fmtW fmt
  | .vor vd va vb fmt m men => vregOk vd && vregOk va && vregOk vb && maskOk m men && fmtW fmt
  | .vxor vd va vb fmt m men => vregOk vd && vregOk va && vregOk vb && maskOk m men && fmtW fmt
  | .vnot vd va fmt m men => vregOk vd && vregOk va && maskOk m men && fmtW fmt
  | .vshl vd va vb fmt m men => vregOk vd && vregOk va && vregOk vb && maskOk m men && fmtI fmt
  | .vshr vd va vb fmt m men => vregOk vd && vregOk va && vregOk vb && maskOk m men && fmtI fmt
  | .vsra vd va vb fmt m men => vregOk vd && vregOk va && vregOk vb && maskOk m men && fmtI fmt
  | .vcmp _ va vb fmt m men fn => vregOk va && vregOk vb && maskOk m men && fmtW fmt && fn.toNat < 8
  | .vsel vd va vb fmt _ => vregOk vd && vregOk va && vregOk vb && fmtW fmt
  | .vmov vd va fmt m men => vregOk vd && vregOk va && maskOk m men && fmtW fmt
  | .vbcast vd _ fmt m men => vregOk vd && maskOk m men && fmtW fmt
  | .vext _ va _ fmt m men => vregOk va && maskOk m men && fmtW fmt
  | .vins vd _ _ fmt m men => vregOk vd && maskOk m men && fmtW fmt
  | .vperm vd va vb fmt m men => vregOk vd && vregOk va && vregOk vb && maskOk m men && fmtW fmt
  | .vred _ va fmt m men fn => vregOk va && maskOk m men && ((fmtF fmt && fn.toNat < 3) || (fmtE fmt && (fn == 1 || fn == 2)) || (fmtI fmt && fn.toNat < 6))
  | .vscan vd va fmt m men fn => vregOk vd && vregOk va && maskOk m men && ((fmtF fmt && fn.toNat < 3) || (fmtI fmt && fn.toNat < 6))
  | .vcvt vd va sfmt fmt m men sat => vregOk vd && vregOk va && maskOk m men && fmtScalar fmt && fmtScalar sfmt && !(fmtNarrow fmt && fmtNarrow sfmt)
      && (men == 0 || !(fmtNarrow fmt || fmtNarrow sfmt)) && (sat == 0 || fmt == 4)
  | .vrcp vd va fmt m men => vregOk vd && vregOk va && maskOk m men && fmtF fmt
  | .vrsq vd va fmt m men => vregOk vd && vregOk va && maskOk m men && fmtF fmt
  | .vexp2 vd va fmt m men => vregOk vd && vregOk va && maskOk m men && fmtF fmt
  | .vthr _ va _ fmt m men => vregOk va && maskOk m men && fmtW fmt
  | .vtopk _ va _ fmt m men => vregOk va && maskOk m men && fmtW fmt
  | .vhist va _ fmt m men => vregOk va && maskOk m men && fmtI fmt
  | .scacc vd va vb m men => vregOk vd && vregOk va && vregOk vb && maskOk m men
  | .vefq vd va vb => vregOk vd && vregOk va && vregOk vb && vd != vb
  | .mand _ _ _ m men => maskOk m men
  | .mor _ _ _ m men => maskOk m men
  | .mxor _ _ _ m men => maskOk m men
  | .mnot _ _ m men => maskOk m men
  | .mpopc _ _ m men => maskOk m men
  | .xnop => true
  | .xexp td ta fmt => (fmt == 5 || fmt == 6 || fmt == 7 || fmt == 13 || fmt == 16) || (fmtBlock fmt && fmt.toNat ≥ 10 && tileEven td && tileEven ta)
  | .xtrn _ _ => true
  | .xcvt td _ fmt => fmtKnown fmt && fmt != 13 && fmt != 14 && (!fmtBlock fmt || tileEven td)
  | .xreblk td _ fmt => fmtBlock fmt && tileEven td
  | .slnop => true
  | .slatch _ v _ => vregOk v
  | .slclr _ => true
  | .mnop => true
  | .mcall _ => true
  | .acz _ => true
  | .acrel _ => true
  | .acwb slot grp _ _ => slot.toNat + grp.toNat ≤ 15
  | .acadj slot grp _ _ => slot.toNat + grp.toNat ≤ 15
  | .mpsld _ => true
  | .acbrd ba bb v one => vregOk v && (if one = 0 then ba != bb && v.toNat ≠ 319 else bb == 0)
  | .acbwr ba bb v one => vregOk v && (if one = 0 then ba != bb && v.toNat ≠ 319 else bb == 0)
  | .enop => true
  | .cpy _ _ => true
  | .mcast _ _ => true
  | .bte _ _ => true
  | .tld _ _ => true
  | .tst _ _ => true
  | .cmpx _ _ => true
  | .cmpw _ _ => true
  | .tgath _ _ => true
  | .tscat _ _ => true
  | .qfence _ _ => true
  | .qpush _ _ => true
  | .lkbegin _ _ => true
  | .lkreq _ _ => true
  | .lkupg _ _ => true
  | .lkrel _ _ => true
  | .lkrelall _ _ => true
  | .coll _ _ => true
  | .nettx _ _ => true
  | .netrxp _ _ => true
  | .stgrd _ _ => true
  | .vdec _ _ => true
  | .pgreq _ _ => true
  | .midle _ => true
  | .mlda _ _ _ => true
  | .mldb _ _ _ => true
  | .mstep _ => true
  | .mscale _ _ => true
  | .mzp _ _ => true
  | .mskip _ => true
  | .mrowb _ _ => true
  | .macc _ _ => true
  | .mloop _ _ => true
  | .mend => true
  | .mfmt afmt bfmt => fmtKnown afmt && fmtKnown bfmt
  | .msetk _ => true
  | .mclr _ => true
  | .mjmp _ => true
  | .mwaits _ => true
  | .ident => true
  | .getcfg => true
  | .mgmtroot => true
  | .domcreate => true
  | .domteardown => true
  | .qcreate => true
  | .qdestroy => true
  | .qclear => true
  | .qpreempt => true
  | .qresume => true
  | .qkill => true
  | .resume => true
  | .kill => true
  | .xinval => true
  | .outcome => true
  | .migrate => true
  | .apbind => true
  | .epbind => true
  | .grpdef => true
  | .nsattach => true
  | .setvec => true
  | .errget => true
  | .selftest => true
  | .startrec => true
  | .attest => true
  | .fwstage => true
  | .pwrlimit => true
  | .matrixEntryEnd _ => true
  | .accessPerform _ _ => true
  | .tableWalkComplete _ => true
  | .linkRetrainComplete _ => true
  | .mailboxUnknownOpcode => true
  | .atsInvalidationRequest _ _ _ => true
  | .collectivePacket _ _ _ _ _ _ _ => true
  | .hbmRefresh _ => true

end Sys2Proof
end

