-- ==== Sys2Proof/Decode.lean ====
section
/-! DEFINITION. The decoder of the slots and of the microprogram words, and the encoder (R49, R58, R63 to R83 of
spec/04 and spec/03). Decoding is total and rejects by name. -/

namespace Sys2Proof

/-- Why a slot's bits name no instruction (the fates of R64). -/
inductive DecodeError
  /-- an opcode outside the assigned range of R63 -/
  | unassignedOpcode
  /-- a non-zero reserved field -/
  | reservedField
  /-- a field value that spec/04 marks illegal -/
  | illegalField
  deriving DecidableEq, Repr

/-- An instruction or instructions read, or the reason why none was. -/
inductive Decoded (ε α : Type)
  | ok (a : α)
  | bad (e : ε)
  deriving DecidableEq, Repr

/-- Width of a slot or microprogram word (R49, R82). -/
def slotWidth : SlotKind → Nat
  | .sync => 16
  | .ctrl => 32
  | .sca => 32
  | .mem => 48
  | .vec => 48
  | .xfm => 16
  | .scl => 16
  | .mtx => 24
  | .eng => 16
  | .micro => 32

/-- First bit of the opcode field (R63, R82). -/
def opcodeLow : SlotKind → Nat
  | .sync => 12
  | .ctrl => 26
  | .sca => 26
  | .mem => 42
  | .vec => 42
  | .xfm => 13
  | .scl => 14
  | .mtx => 19
  | .eng => 11
  | .micro => 28

/-- The kind of slot at an index of the bundle (R49). -/
def slotKindAt : Nat → SlotKind
  | 0 => .sync | 1 => .ctrl | 2 => .sca | 3 => .sca | 4 => .mem | 5 => .mem | 6 => .vec | 7 => .vec
  | 8 => .xfm | 9 => .scl | 10 => .mtx | _ => .eng

/-- The kind of slot an instruction stands in; none for events and device commands. -/
def slotOf : Instr → Option SlotKind
  | .bundleFetch _ => none
  | .writeRetire _ => none
  | .landing _ => none
  | .lateDataFreeze _ => none
  | .waitTimeout _ => none
  | .boundaryTrap _ => none
  | .matrixEntryBegin _ => none
  | .drainEnd _ => none
  | .xfmRetire _ => none
  | .engineCommandBegin _ _ => none
  | .engineCommandComplete _ _ => none
  | .copyPointerWrite _ _ => none
  | .preparationBegin _ => none
  | .preparationTrue _ => none
  | .writeBackPerform _ => none
  | .lockHomeAccept _ _ => none
  | .ageCountReceive _ _ => none
  | .woundCancelArrival _ _ => none
  | .launchAdmit _ _ => none
  | .nextWake _ => none
  | .launchRetire _ => none
  | .watchdogExpiry _ => none
  | .clockGate _ => none
  | .powerGate _ => none
  | .monitorWake _ => none
  | .pageRequestResponse _ _ _ => none
  | .doorbellWrite _ _ _ _ _ => none
  | .apertureWrite _ _ _ _ _ => none
  | .apertureRead _ _ _ _ _ => none
  | .routeAck _ _ => none
  | .hanglogWrite _ => none
  | .mgmtRegisterWrite _ _ => none
  | .hostErrorCompletion _ _ _ => none
  | .hostCompletionTimeout _ _ => none
  | .nvmeCompletion _ _ _ _ => none
  | .storageTimeout _ => none
  | .packetLanding _ _ _ _ _ => none
  | .packetAck _ _ => none
  | .transportTimeout _ _ => none
  | .untargetedMessage _ _ _ _ => none
  | .flitCrcError _ => none
  | .linkRetrain _ => none
  | .errorDetected _ _ _ _ => none
  | .selfTestComplete _ _ _ => none
  | .trapQueueRetry _ => none
  | .startModule _ _ _ _ _ _ _ => none
  | .powerPeriod _ => none
  | .thermalThrottle => none
  | .thermalShutdown => none
  | .snop => some .sync
  | .wait _ _ => some .sync
  | .post _ _ => some .sync
  | .postp _ _ _ => some .sync
  | .banklk _ _ _ => some .sync
  | .cbar _ => some .sync
  | .cnop => some .ctrl
  | .br _ => some .ctrl
  | .brc _ _ _ => some .ctrl
  | .bri _ => some .ctrl
  | .call _ _ => some .ctrl
  | .ret _ => some .ctrl
  | .loop _ _ _ _ => some .ctrl
  | .loopq _ _ => some .ctrl
  | .lnest _ _ _ => some .ctrl
  | .lreplay _ _ => some .ctrl
  | .lrev _ _ _ _ => some .ctrl
  | .phprep _ => some .ctrl
  | .phadv _ => some .ctrl
  | .phset _ => some .ctrl
  | .mapld _ _ => some .ctrl
  | .next _ => some .ctrl
  | .tail _ => some .ctrl
  | .trap _ => some .ctrl
  | .rte => some .ctrl
  | .exit => some .ctrl
  | .srd _ _ => some .ctrl
  | .swr _ _ => some .ctrl
  | .dictsw _ => some .ctrl
  | .scnop => some .sca
  | .add _ _ _ => some .sca
  | .sub _ _ _ => some .sca
  | .addi _ _ _ => some .sca
  | .mul _ _ _ => some .sca
  | .mulh _ _ _ => some .sca
  | .divq _ _ _ => some .sca
  | .remq _ _ _ => some .sca
  | .and _ _ _ => some .sca
  | .or _ _ _ => some .sca
  | .xor _ _ _ => some .sca
  | .andi _ _ _ => some .sca
  | .ori _ _ _ => some .sca
  | .xori _ _ _ => some .sca
  | .shl _ _ _ => some .sca
  | .shr _ _ _ => some .sca
  | .sra _ _ _ => some .sca
  | .shli _ _ _ => some .sca
  | .shri _ _ _ => some .sca
  | .srai _ _ _ => some .sca
  | .min _ _ _ => some .sca
  | .max _ _ _ => some .sca
  | .minn _ _ _ => some .sca
  | .maxn _ _ _ => some .sca
  | .cmpeq _ _ _ => some .sca
  | .cmplt _ _ _ => some .sca
  | .cmpltn _ _ _ => some .sca
  | .sel _ _ _ _ => some .sca
  | .movi _ _ => some .sca
  | .movhi _ _ _ => some .sca
  | .clz _ _ => some .sca
  | .popc _ _ => some .sca
  | .bfx _ _ _ _ _ => some .sca
  | .bfi _ _ _ _ => some .sca
  | .aadd _ _ _ => some .sca
  | .amov _ _ _ => some .sca
  | .alea _ _ _ _ => some .sca
  | .fadd _ _ _ => some .sca
  | .fmul _ _ _ => some .sca
  | .fma _ _ _ _ => some .sca
  | .fcvt _ _ _ _ _ => some .sca
  | .tshape _ _ _ _ _ => some .sca
  | .mpar _ _ => some .sca
  | .lnop => some .mem
  | .ld _ _ _ _ _ _ _ _ => some .mem
  | .st _ _ _ _ _ _ _ => some .mem
  | .ldv _ _ _ _ _ _ _ _ _ => some .mem
  | .stv _ _ _ _ _ _ _ => some .mem
  | .ldvs _ _ _ _ _ _ _ => some .mem
  | .stvs _ _ _ _ _ _ => some .mem
  | .ldvg _ _ _ _ _ _ _ => some .mem
  | .stvg _ _ _ _ _ _ => some .mem
  | .ldt _ _ _ _ _ _ _ => some .mem
  | .stt _ _ _ _ _ _ => some .mem
  | .stt2 _ _ _ _ _ _ => some .mem
  | .amo _ _ _ _ _ _ _ _ _ _ => some .mem
  | .red _ _ _ _ _ _ _ _ _ => some .mem
  | .drain _ => some .mem
  | .fence _ _ => some .mem
  | .cvtways _ => some .mem
  | .cinv _ _ _ _ => some .mem
  | .cwb _ _ _ _ => some .mem
  | .pref _ _ _ _ => some .mem
  | .vnop => some .vec
  | .vadd _ _ _ _ _ _ => some .vec
  | .vsub _ _ _ _ _ _ => some .vec
  | .vmul _ _ _ _ _ _ => some .vec
  | .vfma _ _ _ _ _ _ => some .vec
  | .vmin _ _ _ _ _ _ => some .vec
  | .vmax _ _ _ _ _ _ => some .vec
  | .vabs _ _ _ _ _ => some .vec
  | .vneg _ _ _ _ _ => some .vec
  | .vand _ _ _ _ _ _ => some .vec
  | .vor _ _ _ _ _ _ => some .vec
  | .vxor _ _ _ _ _ _ => some .vec
  | .vnot _ _ _ _ _ => some .vec
  | .vshl _ _ _ _ _ _ => some .vec
  | .vshr _ _ _ _ _ _ => some .vec
  | .vsra _ _ _ _ _ _ => some .vec
  | .vcmp _ _ _ _ _ _ _ => some .vec
  | .vsel _ _ _ _ _ => some .vec
  | .vmov _ _ _ _ _ => some .vec
  | .vbcast _ _ _ _ _ => some .vec
  | .vext _ _ _ _ _ _ => some .vec
  | .vins _ _ _ _ _ _ => some .vec
  | .vperm _ _ _ _ _ _ => some .vec
  | .vred _ _ _ _ _ _ => some .vec
  | .vscan _ _ _ _ _ _ => some .vec
  | .vcvt _ _ _ _ _ _ _ => some .vec
  | .vrcp _ _ _ _ _ => some .vec
  | .vrsq _ _ _ _ _ => some .vec
  | .vexp2 _ _ _ _ _ => some .vec
  | .vthr _ _ _ _ _ _ => some .vec
  | .vtopk _ _ _ _ _ _ => some .vec
  | .vhist _ _ _ _ _ => some .vec
  | .scacc _ _ _ _ _ => some .vec
  | .vefq _ _ _ => some .vec
  | .mand _ _ _ _ _ => some .vec
  | .mor _ _ _ _ _ => some .vec
  | .mxor _ _ _ _ _ => some .vec
  | .mnot _ _ _ _ => some .vec
  | .mpopc _ _ _ _ => some .vec
  | .xnop => some .xfm
  | .xexp _ _ _ => some .xfm
  | .xtrn _ _ => some .xfm
  | .xcvt _ _ _ => some .xfm
  | .xreblk _ _ _ => some .xfm
  | .slnop => some .scl
  | .slatch _ _ _ => some .scl
  | .slclr _ => some .scl
  | .mnop => some .mtx
  | .mcall _ => some .mtx
  | .acz _ => some .mtx
  | .acrel _ => some .mtx
  | .acwb _ _ _ _ => some .mtx
  | .acadj _ _ _ _ => some .mtx
  | .mpsld _ => some .mtx
  | .acbrd _ _ _ _ => some .mtx
  | .acbwr _ _ _ _ => some .mtx
  | .enop => some .eng
  | .cpy _ _ => some .eng
  | .mcast _ _ => some .eng
  | .bte _ _ => some .eng
  | .tld _ _ => some .eng
  | .tst _ _ => some .eng
  | .cmpx _ _ => some .eng
  | .cmpw _ _ => some .eng
  | .tgath _ _ => some .eng
  | .tscat _ _ => some .eng
  | .qfence _ _ => some .eng
  | .qpush _ _ => some .eng
  | .lkbegin _ _ => some .eng
  | .lkreq _ _ => some .eng
  | .lkupg _ _ => some .eng
  | .lkrel _ _ => some .eng
  | .lkrelall _ _ => some .eng
  | .coll _ _ => some .eng
  | .nettx _ _ => some .eng
  | .netrxp _ _ => some .eng
  | .stgrd _ _ => some .eng
  | .vdec _ _ => some .eng
  | .pgreq _ _ => some .eng
  | .midle _ => some .micro
  | .mlda _ _ _ => some .micro
  | .mldb _ _ _ => some .micro
  | .mstep _ => some .micro
  | .mscale _ _ => some .micro
  | .mzp _ _ => some .micro
  | .mskip _ => some .micro
  | .mrowb _ _ => some .micro
  | .macc _ _ => some .micro
  | .mloop _ _ => some .micro
  | .mend => some .micro
  | .mfmt _ _ => some .micro
  | .msetk _ => some .micro
  | .mclr _ => some .micro
  | .mjmp _ => some .micro
  | .mwaits _ => some .micro
  | .ident => none
  | .getcfg => none
  | .mgmtroot => none
  | .domcreate => none
  | .domteardown => none
  | .qcreate => none
  | .qdestroy => none
  | .qclear => none
  | .qpreempt => none
  | .qresume => none
  | .qkill => none
  | .resume => none
  | .kill => none
  | .xinval => none
  | .outcome => none
  | .migrate => none
  | .apbind => none
  | .epbind => none
  | .grpdef => none
  | .nsattach => none
  | .setvec => none
  | .errget => none
  | .selftest => none
  | .startrec => none
  | .attest => none
  | .fwstage => none
  | .pwrlimit => none
  | .matrixEntryEnd _ => none
  | .accessPerform _ _ => none
  | .tableWalkComplete _ => none
  | .linkRetrainComplete _ => none
  | .mailboxUnknownOpcode => none
  | .atsInvalidationRequest _ _ _ => none
  | .collectivePacket _ _ _ _ _ _ _ => none
  | .hbmRefresh _ => none

/-- The bits of an instruction in its slot (R67 to R82); 0 for events and device commands, which have none. -/
def encode : Instr → Nat
  | .bundleFetch _ => 0
  | .writeRetire _ => 0
  | .landing _ => 0
  | .lateDataFreeze _ => 0
  | .waitTimeout _ => 0
  | .boundaryTrap _ => 0
  | .matrixEntryBegin _ => 0
  | .drainEnd _ => 0
  | .xfmRetire _ => 0
  | .engineCommandBegin _ _ => 0
  | .engineCommandComplete _ _ => 0
  | .copyPointerWrite _ _ => 0
  | .preparationBegin _ => 0
  | .preparationTrue _ => 0
  | .writeBackPerform _ => 0
  | .lockHomeAccept _ _ => 0
  | .ageCountReceive _ _ => 0
  | .woundCancelArrival _ _ => 0
  | .launchAdmit _ _ => 0
  | .nextWake _ => 0
  | .launchRetire _ => 0
  | .watchdogExpiry _ => 0
  | .clockGate _ => 0
  | .powerGate _ => 0
  | .monitorWake _ => 0
  | .pageRequestResponse _ _ _ => 0
  | .doorbellWrite _ _ _ _ _ => 0
  | .apertureWrite _ _ _ _ _ => 0
  | .apertureRead _ _ _ _ _ => 0
  | .routeAck _ _ => 0
  | .hanglogWrite _ => 0
  | .mgmtRegisterWrite _ _ => 0
  | .hostErrorCompletion _ _ _ => 0
  | .hostCompletionTimeout _ _ => 0
  | .nvmeCompletion _ _ _ _ => 0
  | .storageTimeout _ => 0
  | .packetLanding _ _ _ _ _ => 0
  | .packetAck _ _ => 0
  | .transportTimeout _ _ => 0
  | .untargetedMessage _ _ _ _ => 0
  | .flitCrcError _ => 0
  | .linkRetrain _ => 0
  | .errorDetected _ _ _ _ => 0
  | .selfTestComplete _ _ _ => 0
  | .trapQueueRetry _ => 0
  | .startModule _ _ _ _ _ _ _ => 0
  | .powerPeriod _ => 0
  | .thermalThrottle => 0
  | .thermalShutdown => 0
  | .snop => 0x0
  | .wait f cnt => 0x1000 + f.toNat * 0x80 + cnt.toNat
  | .post f inc => 0x2000 + f.toNat * 0x80 + inc.toNat
  | .postp rank f inc => 0x3000 + rank.toNat * 0x200 + f.toNat * 0x10 + inc.toNat
  | .banklk cnt bank0 nb => 0x4000 + cnt.toNat * 0x100 + bank0.toNat * 0x8 + nb.toNat
  | .cbar bid => 0x5000 + bid.toNat * 0x100
  | .cnop => 0x0
  | .br off => 0x4000000 + off.toNat
  | .brc s cond off => 0x8000000 + s.toNat * 0x100000 + cond.toNat * 0x20000 + off.toNat
  | .bri s => 0xc000000 + s.toNat * 0x100000
  | .call a off => 0x10000000 + a.toNat * 0x200000 + off.toNat
  | .ret a => 0x14000000 + a.toNat * 0x200000
  | .loop i imm cnt e => 0x18000000 + i.toNat * 0x800000 + imm.toNat * 0x400000 + cnt.toNat * 0x1000 + e.toNat
  | .loopq i e => 0x1c000000 + i.toNat * 0x800000 + e.toNat
  | .lnest i n e => 0x20000000 + i.toNat * 0x800000 + n.toNat * 0x100000 + e.toNat
  | .lreplay i e => 0x24000000 + i.toNat * 0x800000 + e.toNat
  | .lrev i imm cnt e => 0x28000000 + i.toNat * 0x800000 + imm.toNat * 0x400000 + cnt.toNat * 0x1000 + e.toNat
  | .phprep k => 0x2c000000 + k.toNat * 0x400000
  | .phadv k => 0x30000000 + k.toNat * 0x400000
  | .phset map => 0x34000000 + map.toNat * 0x400000
  | .mapld map a => 0x38000000 + map.toNat * 0x400000 + a.toNat * 0x20000
  | .next s => 0x3c000000 + s.toNat * 0x100000
  | .tail a => 0x40000000 + a.toNat * 0x200000
  | .trap code => 0x44000000 + code.toNat
  | .rte => 0x48000000
  | .exit => 0x4c000000
  | .srd s sysn => 0x50000000 + s.toNat * 0x100000 + sysn.toNat * 0x1000
  | .swr s sysn => 0x54000000 + s.toNat * 0x100000 + sysn.toNat * 0x1000
  | .dictsw a => 0x58000000 + a.toNat * 0x200000
  | .scnop => 0x0
  | .add d a b => 0x4000000 + d.toNat * 0x100000 + a.toNat * 0x4000 + b.toNat * 0x100
  | .sub d a b => 0x8000000 + d.toNat * 0x100000 + a.toNat * 0x4000 + b.toNat * 0x100
  | .addi d a imm => 0xc000000 + d.toNat * 0x100000 + a.toNat * 0x4000 + imm.toNat
  | .mul d a b => 0x10000000 + d.toNat * 0x100000 + a.toNat * 0x4000 + b.toNat * 0x100
  | .mulh d a b => 0x14000000 + d.toNat * 0x100000 + a.toNat * 0x4000 + b.toNat * 0x100
  | .divq d a b => 0x18000000 + d.toNat * 0x100000 + a.toNat * 0x4000 + b.toNat * 0x100
  | .remq d a b => 0x1c000000 + d.toNat * 0x100000 + a.toNat * 0x4000 + b.toNat * 0x100
  | .and d a b => 0x20000000 + d.toNat * 0x100000 + a.toNat * 0x4000 + b.toNat * 0x100
  | .or d a b => 0x24000000 + d.toNat * 0x100000 + a.toNat * 0x4000 + b.toNat * 0x100
  | .xor d a b => 0x28000000 + d.toNat * 0x100000 + a.toNat * 0x4000 + b.toNat * 0x100
  | .andi d a imm => 0x2c000000 + d.toNat * 0x100000 + a.toNat * 0x4000 + imm.toNat
  | .ori d a imm => 0x30000000 + d.toNat * 0x100000 + a.toNat * 0x4000 + imm.toNat
  | .xori d a imm => 0x34000000 + d.toNat * 0x100000 + a.toNat * 0x4000 + imm.toNat
  | .shl d a b => 0x38000000 + d.toNat * 0x100000 + a.toNat * 0x4000 + b.toNat * 0x100
  | .shr d a b => 0x3c000000 + d.toNat * 0x100000 + a.toNat * 0x4000 + b.toNat * 0x100
  | .sra d a b => 0x40000000 + d.toNat * 0x100000 + a.toNat * 0x4000 + b.toNat * 0x100
  | .shli d a sh => 0x44000000 + d.toNat * 0x100000 + a.toNat * 0x4000 + sh.toNat
  | .shri d a sh => 0x48000000 + d.toNat * 0x100000 + a.toNat * 0x4000 + sh.toNat
  | .srai d a sh => 0x4c000000 + d.toNat * 0x100000 + a.toNat * 0x4000 + sh.toNat
  | .min d a b => 0x50000000 + d.toNat * 0x100000 + a.toNat * 0x4000 + b.toNat * 0x100
  | .max d a b => 0x54000000 + d.toNat * 0x100000 + a.toNat * 0x4000 + b.toNat * 0x100
  | .minn d a b => 0x58000000 + d.toNat * 0x100000 + a.toNat * 0x4000 + b.toNat * 0x100
  | .maxn d a b => 0x5c000000 + d.toNat * 0x100000 + a.toNat * 0x4000 + b.toNat * 0x100
  | .cmpeq d a b => 0x60000000 + d.toNat * 0x100000 + a.toNat * 0x4000 + b.toNat * 0x100
  | .cmplt d a b => 0x64000000 + d.toNat * 0x100000 + a.toNat * 0x4000 + b.toNat * 0x100
  | .cmpltn d a b => 0x68000000 + d.toNat * 0x100000 + a.toNat * 0x4000 + b.toNat * 0x100
  | .sel d a b c => 0x6c000000 + d.toNat * 0x100000 + a.toNat * 0x4000 + b.toNat * 0x100 + c.toNat * 0x4
  | .movi d imm => 0x70000000 + d.toNat * 0x100000 + imm.toNat
  | .movhi d q imm => 0x74000000 + d.toNat * 0x100000 + q.toNat * 0x40000 + imm.toNat
  | .clz d a => 0x78000000 + d.toNat * 0x100000 + a.toNat * 0x4000
  | .popc d a => 0x7c000000 + d.toNat * 0x100000 + a.toNat * 0x4000
  | .bfx d a pos len sgn => 0x80000000 + d.toNat * 0x100000 + a.toNat * 0x4000 + pos.toNat * 0x100 + len.toNat * 0x4 + sgn.toNat * 0x2
  | .bfi d a pos len => 0x84000000 + d.toNat * 0x100000 + a.toNat * 0x4000 + pos.toNat * 0x100 + len.toNat * 0x4
  | .aadd ad aa s => 0x88000000 + ad.toNat * 0x200000 + aa.toNat * 0x10000 + s.toNat * 0x400
  | .amov a dir s => 0x8c000000 + a.toNat * 0x200000 + dir.toNat * 0x100000 + s.toNat * 0x4000
  | .alea ad aa s sh => 0x90000000 + ad.toNat * 0x200000 + aa.toNat * 0x10000 + s.toNat * 0x400 + sh.toNat * 0x80
  | .fadd d a b => 0x94000000 + d.toNat * 0x100000 + a.toNat * 0x4000 + b.toNat * 0x100
  | .fmul d a b => 0x98000000 + d.toNat * 0x100000 + a.toNat * 0x4000 + b.toNat * 0x100
  | .fma d a b c => 0x9c000000 + d.toNat * 0x100000 + a.toNat * 0x4000 + b.toNat * 0x100 + c.toNat * 0x4
  | .fcvt d a dfmt sfmt sat => 0xa0000000 + d.toNat * 0x100000 + a.toNat * 0x4000 + dfmt.toNat * 0x200 + sfmt.toNat * 0x10 + sat.toNat * 0x8
  | .tshape t fmt rows bpr gsz => 0xa4000000 + t.toNat * 0x400000 + fmt.toNat * 0x20000 + rows.toNat * 0x400 + bpr.toNat * 0x8 + gsz.toNat * 0x2
  | .mpar p s => 0xa8000000 + p.toNat * 0x800000 + s.toNat * 0x20000
  | .lnop => 0x0
  | .ld sp ac d a arr ord pi addr => 0x40000000000 + sp.toNat * 0x10000000000 + ac.toNat * 0x2000000000 + d.toNat * 0x10000000 + a.toNat * 0x800000 + arr.toNat * 0x2000 + ord.toNat * 0x800 + pi.toNat * 0x400 + addr.toNat
  | .st sp ac s a ord pi addr => 0x80000000000 + sp.toNat * 0x10000000000 + ac.toNat * 0x2000000000 + s.toNat * 0x10000000 + a.toNat * 0x800000 + ord.toNat * 0x800 + pi.toNat * 0x400 + addr.toNat
  | .ldv sp ac v a arr nr ord pi addr => 0xc0000000000 + sp.toNat * 0x10000000000 + ac.toNat * 0x2000000000 + v.toNat * 0x10000000 + a.toNat * 0x800000 + arr.toNat * 0x2000 + nr.toNat * 0x1000 + ord.toNat * 0x800 + pi.toNat * 0x400 + addr.toNat
  | .stv sp ac v a ord pi addr => 0x100000000000 + sp.toNat * 0x10000000000 + ac.toNat * 0x2000000000 + v.toNat * 0x10000000 + a.toNat * 0x800000 + ord.toNat * 0x800 + pi.toNat * 0x400 + addr.toNat
  | .ldvs sp ac v a arr s esz => 0x140000000000 + sp.toNat * 0x10000000000 + ac.toNat * 0x2000000000 + v.toNat * 0x10000000 + a.toNat * 0x800000 + arr.toNat * 0x2000 + s.toNat * 0x10 + esz.toNat * 0x4
  | .stvs sp ac v a s esz => 0x180000000000 + sp.toNat * 0x10000000000 + ac.toNat * 0x2000000000 + v.toNat * 0x10000000 + a.toNat * 0x800000 + s.toNat * 0x10 + esz.toNat * 0x4
  | .ldvg sp ac v a arr x esz => 0x1c0000000000 + sp.toNat * 0x10000000000 + ac.toNat * 0x2000000000 + v.toNat * 0x10000000 + a.toNat * 0x800000 + arr.toNat * 0x2000 + x.toNat * 0x10 + esz.toNat * 0x4
  | .stvg sp ac v a x esz => 0x200000000000 + sp.toNat * 0x10000000000 + ac.toNat * 0x2000000000 + v.toNat * 0x10000000 + a.toNat * 0x800000 + x.toNat * 0x10 + esz.toNat * 0x4
  | .ldt sp ac t a arr pi off => 0x240000000000 + sp.toNat * 0x10000000000 + ac.toNat * 0x2000000000 + t.toNat * 0x10000000 + a.toNat * 0x800000 + arr.toNat * 0x2000 + pi.toNat * 0x400 + off.toNat
  | .stt sp ac t a pi off => 0x280000000000 + sp.toNat * 0x10000000000 + ac.toNat * 0x2000000000 + t.toNat * 0x10000000 + a.toNat * 0x800000 + pi.toNat * 0x400 + off.toNat
  | .stt2 sp ac t a pi off => 0x2c0000000000 + sp.toNat * 0x10000000000 + ac.toNat * 0x2000000000 + t.toNat * 0x10000000 + a.toNat * 0x800000 + pi.toNat * 0x400 + off.toNat
  | .amo sp ac d s a scope aop w64 acq rel => 0x300000000000 + sp.toNat * 0x10000000000 + ac.toNat * 0x2000000000 + d.toNat * 0x80000000 + s.toNat * 0x2000000 + a.toNat * 0x100000 + scope.toNat * 0x20000 + aop.toNat * 0x2000 + w64.toNat * 0x1000 + acq.toNat * 0x800 + rel.toNat * 0x400
  | .red sp ac s a scope aop w64 rel ord => 0x340000000000 + sp.toNat * 0x10000000000 + ac.toNat * 0x2000000000 + s.toNat * 0x2000000 + a.toNat * 0x100000 + scope.toNat * 0x20000 + aop.toNat * 0x2000 + w64.toNat * 0x1000 + rel.toNat * 0x400 + ord.toNat * 0x200
  | .drain scope => 0x380000000000 + scope.toNat * 0x8000000000
  | .fence scope acls => 0x3c0000000000 + scope.toNat * 0x8000000000 + acls.toNat * 0x80000000
  | .cvtways nw => 0x400000000000 + nw.toNat * 0x2000000000
  | .cinv sp ac a nl => 0x440000000000 + sp.toNat * 0x10000000000 + ac.toNat * 0x2000000000 + a.toNat * 0x800000 + nl.toNat * 0x2000
  | .cwb sp ac a nl => 0x480000000000 + sp.toNat * 0x10000000000 + ac.toNat * 0x2000000000 + a.toNat * 0x800000 + nl.toNat * 0x2000
  | .pref sp ac a nl => 0x4c0000000000 + sp.toNat * 0x10000000000 + ac.toNat * 0x2000000000 + a.toNat * 0x800000 + nl.toNat * 0x2000
  | .vnop => 0x0
  | .vadd vd va vb fmt m men => 0x40000000000 + vd.toNat * 0x200000000 + va.toNat * 0x1000000 + vb.toNat * 0x8000 + fmt.toNat * 0x400 + m.toNat * 0x40 + men.toNat * 0x20
  | .vsub vd va vb fmt m men => 0x80000000000 + vd.toNat * 0x200000000 + va.toNat * 0x1000000 + vb.toNat * 0x8000 + fmt.toNat * 0x400 + m.toNat * 0x40 + men.toNat * 0x20
  | .vmul vd va vb fmt m men => 0xc0000000000 + vd.toNat * 0x200000000 + va.toNat * 0x1000000 + vb.toNat * 0x8000 + fmt.toNat * 0x400 + m.toNat * 0x40 + men.toNat * 0x20
  | .vfma vd va vb fmt m men => 0x100000000000 + vd.toNat * 0x200000000 + va.toNat * 0x1000000 + vb.toNat * 0x8000 + fmt.toNat * 0x400 + m.toNat * 0x40 + men.toNat * 0x20
  | .vmin vd va vb fmt m men => 0x140000000000 + vd.toNat * 0x200000000 + va.toNat * 0x1000000 + vb.toNat * 0x8000 + fmt.toNat * 0x400 + m.toNat * 0x40 + men.toNat * 0x20
  | .vmax vd va vb fmt m men => 0x180000000000 + vd.toNat * 0x200000000 + va.toNat * 0x1000000 + vb.toNat * 0x8000 + fmt.toNat * 0x400 + m.toNat * 0x40 + men.toNat * 0x20
  | .vabs vd va fmt m men => 0x1c0000000000 + vd.toNat * 0x200000000 + va.toNat * 0x1000000 + fmt.toNat * 0x400 + m.toNat * 0x40 + men.toNat * 0x20
  | .vneg vd va fmt m men => 0x200000000000 + vd.toNat * 0x200000000 + va.toNat * 0x1000000 + fmt.toNat * 0x400 + m.toNat * 0x40 + men.toNat * 0x20
  | .vand vd va vb fmt m men => 0x240000000000 + vd.toNat * 0x200000000 + va.toNat * 0x1000000 + vb.toNat * 0x8000 + fmt.toNat * 0x400 + m.toNat * 0x40 + men.toNat * 0x20
  | .vor vd va vb fmt m men => 0x280000000000 + vd.toNat * 0x200000000 + va.toNat * 0x1000000 + vb.toNat * 0x8000 + fmt.toNat * 0x400 + m.toNat * 0x40 + men.toNat * 0x20
  | .vxor vd va vb fmt m men => 0x2c0000000000 + vd.toNat * 0x200000000 + va.toNat * 0x1000000 + vb.toNat * 0x8000 + fmt.toNat * 0x400 + m.toNat * 0x40 + men.toNat * 0x20
  | .vnot vd va fmt m men => 0x300000000000 + vd.toNat * 0x200000000 + va.toNat * 0x1000000 + fmt.toNat * 0x400 + m.toNat * 0x40 + men.toNat * 0x20
  | .vshl vd va vb fmt m men => 0x340000000000 + vd.toNat * 0x200000000 + va.toNat * 0x1000000 + vb.toNat * 0x8000 + fmt.toNat * 0x400 + m.toNat * 0x40 + men.toNat * 0x20
  | .vshr vd va vb fmt m men => 0x380000000000 + vd.toNat * 0x200000000 + va.toNat * 0x1000000 + vb.toNat * 0x8000 + fmt.toNat * 0x400 + m.toNat * 0x40 + men.toNat * 0x20
  | .vsra vd va vb fmt m men => 0x3c0000000000 + vd.toNat * 0x200000000 + va.toNat * 0x1000000 + vb.toNat * 0x8000 + fmt.toNat * 0x400 + m.toNat * 0x40 + men.toNat * 0x20
  | .vcmp md va vb fmt m men fn => 0x400000000000 + md.toNat * 0x200000000 + va.toNat * 0x1000000 + vb.toNat * 0x8000 + fmt.toNat * 0x400 + m.toNat * 0x40 + men.toNat * 0x20 + fn.toNat
  | .vsel vd va vb fmt m => 0x440000000020 + vd.toNat * 0x200000000 + va.toNat * 0x1000000 + vb.toNat * 0x8000 + fmt.toNat * 0x400 + m.toNat * 0x40
  | .vmov vd va fmt m men => 0x480000000000 + vd.toNat * 0x200000000 + va.toNat * 0x1000000 + fmt.toNat * 0x400 + m.toNat * 0x40 + men.toNat * 0x20
  | .vbcast vd s fmt m men => 0x4c0000000000 + vd.toNat * 0x200000000 + s.toNat * 0x1000000 + fmt.toNat * 0x400 + m.toNat * 0x40 + men.toNat * 0x20
  | .vext s va sl fmt m men => 0x500000000000 + s.toNat * 0x200000000 + va.toNat * 0x1000000 + sl.toNat * 0x8000 + fmt.toNat * 0x400 + m.toNat * 0x40 + men.toNat * 0x20
  | .vins vd s sl fmt m men => 0x540000000000 + vd.toNat * 0x200000000 + s.toNat * 0x1000000 + sl.toNat * 0x8000 + fmt.toNat * 0x400 + m.toNat * 0x40 + men.toNat * 0x20
  | .vperm vd va vb fmt m men => 0x580000000000 + vd.toNat * 0x200000000 + va.toNat * 0x1000000 + vb.toNat * 0x8000 + fmt.toNat * 0x400 + m.toNat * 0x40 + men.toNat * 0x20
  | .vred s va fmt m men fn => 0x5c0000000000 + s.toNat * 0x200000000 + va.toNat * 0x1000000 + fmt.toNat * 0x400 + m.toNat * 0x40 + men.toNat * 0x20 + fn.toNat
  | .vscan vd va fmt m men fn => 0x600000000000 + vd.toNat * 0x200000000 + va.toNat * 0x1000000 + fmt.toNat * 0x400 + m.toNat * 0x40 + men.toNat * 0x20 + fn.toNat
  | .vcvt vd va sfmt fmt m men sat => 0x640000000000 + vd.toNat * 0x200000000 + va.toNat * 0x1000000 + sfmt.toNat * 0x8000 + fmt.toNat * 0x400 + m.toNat * 0x40 + men.toNat * 0x20 + sat.toNat * 0x10
  | .vrcp vd va fmt m men => 0x680000000000 + vd.toNat * 0x200000000 + va.toNat * 0x1000000 + fmt.toNat * 0x400 + m.toNat * 0x40 + men.toNat * 0x20
  | .vrsq vd va fmt m men => 0x6c0000000000 + vd.toNat * 0x200000000 + va.toNat * 0x1000000 + fmt.toNat * 0x400 + m.toNat * 0x40 + men.toNat * 0x20
  | .vexp2 vd va fmt m men => 0x700000000000 + vd.toNat * 0x200000000 + va.toNat * 0x1000000 + fmt.toNat * 0x400 + m.toNat * 0x40 + men.toNat * 0x20
  | .vthr md va s fmt m men => 0x740000000000 + md.toNat * 0x200000000 + va.toNat * 0x1000000 + s.toNat * 0x8000 + fmt.toNat * 0x400 + m.toNat * 0x40 + men.toNat * 0x20
  | .vtopk md va s fmt m men => 0x780000000000 + md.toNat * 0x200000000 + va.toNat * 0x1000000 + s.toNat * 0x8000 + fmt.toNat * 0x400 + m.toNat * 0x40 + men.toNat * 0x20
  | .vhist va s fmt m men => 0x7c0000000000 + va.toNat * 0x1000000 + s.toNat * 0x8000 + fmt.toNat * 0x400 + m.toNat * 0x40 + men.toNat * 0x20
  | .scacc vd va vb m men => 0x800000000000 + vd.toNat * 0x200000000 + va.toNat * 0x1000000 + vb.toNat * 0x8000 + m.toNat * 0x40 + men.toNat * 0x20
  | .vefq vd va vb => 0x840000002000 + vd.toNat * 0x200000000 + va.toNat * 0x1000000 + vb.toNat * 0x8000
  | .mand md ma mb m men => 0x880000000000 + md.toNat * 0x200000000 + ma.toNat * 0x1000000 + mb.toNat * 0x8000 + m.toNat * 0x40 + men.toNat * 0x20
  | .mor md ma mb m men => 0x8c0000000000 + md.toNat * 0x200000000 + ma.toNat * 0x1000000 + mb.toNat * 0x8000 + m.toNat * 0x40 + men.toNat * 0x20
  | .mxor md ma mb m men => 0x900000000000 + md.toNat * 0x200000000 + ma.toNat * 0x1000000 + mb.toNat * 0x8000 + m.toNat * 0x40 + men.toNat * 0x20
  | .mnot md ma m men => 0x940000000000 + md.toNat * 0x200000000 + ma.toNat * 0x1000000 + m.toNat * 0x40 + men.toNat * 0x20
  | .mpopc s ma m men => 0x980000000000 + s.toNat * 0x200000000 + ma.toNat * 0x1000000 + m.toNat * 0x40 + men.toNat * 0x20
  | .xnop => 0x0
  | .xexp td ta fmt => 0x2000 + td.toNat * 0x200 + ta.toNat * 0x20 + fmt.toNat
  | .xtrn td ta => 0x4000 + td.toNat * 0x200 + ta.toNat * 0x20
  | .xcvt td ta fmt => 0x6000 + td.toNat * 0x200 + ta.toNat * 0x20 + fmt.toNat
  | .xreblk td ta fmt => 0x8000 + td.toNat * 0x200 + ta.toNat * 0x20 + fmt.toNat
  | .slnop => 0x0
  | .slatch side v half => 0x4000 + side.toNat * 0x2000 + v.toNat * 0x10 + half.toNat * 0x8
  | .slclr side => 0x8000 + side.toNat * 0x2000
  | .mnop => 0x0
  | .mcall entry => 0x80000 + entry.toNat * 0x2000
  | .acz slot => 0x100000 + slot.toNat * 0x8000
  | .acrel slot => 0x180000 + slot.toNat * 0x8000
  | .acwb slot grp p dst => 0x200000 + slot.toNat * 0x8000 + grp.toNat * 0x1000 + p.toNat * 0x200 + dst.toNat * 0x100
  | .acadj slot grp p dst => 0x280000 + slot.toNat * 0x8000 + grp.toNat * 0x1000 + p.toNat * 0x200 + dst.toNat * 0x100
  | .mpsld p => 0x300000 + p.toNat * 0x10000
  | .acbrd ba bb v one => 0x380000 + ba.toNat * 0x8000 + bb.toNat * 0x800 + v.toNat * 0x4 + one.toNat * 0x2
  | .acbwr ba bb v one => 0x400000 + ba.toNat * 0x8000 + bb.toNat * 0x800 + v.toNat * 0x4 + one.toNat * 0x2
  | .enop => 0x0
  | .cpy a f => 0x800 + a.toNat * 0x40 + f.toNat * 0x2
  | .mcast a f => 0x1000 + a.toNat * 0x40 + f.toNat * 0x2
  | .bte a f => 0x1800 + a.toNat * 0x40 + f.toNat * 0x2
  | .tld a f => 0x2000 + a.toNat * 0x40 + f.toNat * 0x2
  | .tst a f => 0x2800 + a.toNat * 0x40 + f.toNat * 0x2
  | .cmpx a f => 0x3000 + a.toNat * 0x40 + f.toNat * 0x2
  | .cmpw a f => 0x3800 + a.toNat * 0x40 + f.toNat * 0x2
  | .tgath a f => 0x4000 + a.toNat * 0x40 + f.toNat * 0x2
  | .tscat a f => 0x4800 + a.toNat * 0x40 + f.toNat * 0x2
  | .qfence a f => 0x5000 + a.toNat * 0x40 + f.toNat * 0x2
  | .qpush a f => 0x5800 + a.toNat * 0x40 + f.toNat * 0x2
  | .lkbegin a f => 0x6000 + a.toNat * 0x40 + f.toNat * 0x2
  | .lkreq a f => 0x6800 + a.toNat * 0x40 + f.toNat * 0x2
  | .lkupg a f => 0x7000 + a.toNat * 0x40 + f.toNat * 0x2
  | .lkrel a f => 0x7800 + a.toNat * 0x40 + f.toNat * 0x2
  | .lkrelall a f => 0x8000 + a.toNat * 0x40 + f.toNat * 0x2
  | .coll a f => 0x8800 + a.toNat * 0x40 + f.toNat * 0x2
  | .nettx a f => 0x9000 + a.toNat * 0x40 + f.toNat * 0x2
  | .netrxp a f => 0x9800 + a.toNat * 0x40 + f.toNat * 0x2
  | .stgrd a f => 0xa000 + a.toNat * 0x40 + f.toNat * 0x2
  | .vdec a f => 0xa800 + a.toNat * 0x40 + f.toNat * 0x2
  | .pgreq a f => 0xb000 + a.toNat * 0x40 + f.toNat * 0x2
  | .midle cnt => 0x0 + cnt.toNat * 0x40000
  | .mlda p row0 nrow => 0x10000000 + p.toNat * 0x2000000 + row0.toNat * 0x40000 + nrow.toNat * 0x800
  | .mldb p row0 nrow => 0x20000000 + p.toNat * 0x2000000 + row0.toNat * 0x40000 + nrow.toNat * 0x800
  | .mstep nch => 0x30000000 + nch.toNat * 0x100000
  | .mscale side en => 0x40000000 + side.toNat * 0x8000000 + en.toNat * 0x4000000
  | .mzp side p => 0x50000000 + side.toNat * 0x8000000 + p.toNat * 0x1000000
  | .mskip en => 0x60000000 + en.toNat * 0x8000000
  | .mrowb row p => 0x70000000 + row.toNat * 0x200000 + p.toNat * 0x40000
  | .macc p int => 0x80000000 + p.toNat * 0x2000000 + int.toNat * 0x1000000
  | .mloop cnt top => 0x90000000 + cnt.toNat * 0x40000 + top.toNat * 0x100
  | .mend => 0xa0000000
  | .mfmt afmt bfmt => 0xb0000000 + afmt.toNat * 0x800000 + bfmt.toNat * 0x40000
  | .msetk k => 0xc0000000 + k.toNat * 0x10000
  | .mclr p => 0xd0000000 + p.toNat * 0x2000000
  | .mjmp target => 0xe0000000 + target.toNat * 0x40000
  | .mwaits side => 0xf0000000 + side.toNat * 0x8000000
  | .ident => 0
  | .getcfg => 0
  | .mgmtroot => 0
  | .domcreate => 0
  | .domteardown => 0
  | .qcreate => 0
  | .qdestroy => 0
  | .qclear => 0
  | .qpreempt => 0
  | .qresume => 0
  | .qkill => 0
  | .resume => 0
  | .kill => 0
  | .xinval => 0
  | .outcome => 0
  | .migrate => 0
  | .apbind => 0
  | .epbind => 0
  | .grpdef => 0
  | .nsattach => 0
  | .setvec => 0
  | .errget => 0
  | .selftest => 0
  | .startrec => 0
  | .attest => 0
  | .fwstage => 0
  | .pwrlimit => 0
  | .matrixEntryEnd _ => 0
  | .accessPerform _ _ => 0
  | .tableWalkComplete _ => 0
  | .linkRetrainComplete _ => 0
  | .mailboxUnknownOpcode => 0
  | .atsInvalidationRequest _ _ _ => 0
  | .collectivePacket _ _ _ _ _ _ _ => 0
  | .hbmRefresh _ => 0

/-- The SYNC instruction that an opcode names, its fields read from the word. -/
def candidateSync (w : Nat) : Nat → Option Instr
  | 0 => some (.snop)
  | 1 => some (.wait (fld w 7 5) (fld w 0 7))
  | 2 => some (.post (fld w 7 5) (fld w 0 7))
  | 3 => some (.postp (fld w 9 3) (fld w 4 5) (fld w 0 4))
  | 4 => some (.banklk (fld w 8 4) (fld w 3 5) (fld w 0 3))
  | 5 => some (.cbar (fld w 8 4))
  | _ => none

/-- The CTRL instruction that an opcode names, its fields read from the word. -/
def candidateCtrl (w : Nat) : Nat → Option Instr
  | 0 => some (.cnop)
  | 1 => some (.br (fld w 0 26))
  | 2 => some (.brc (fld w 20 6) (fld w 17 3) (fld w 0 17))
  | 3 => some (.bri (fld w 20 6))
  | 4 => some (.call (fld w 21 5) (fld w 0 21))
  | 5 => some (.ret (fld w 21 5))
  | 6 => some (.loop (fld w 23 3) (fld w 22 1) (fld w 12 10) (fld w 0 12))
  | 7 => some (.loopq (fld w 23 3) (fld w 0 12))
  | 8 => some (.lnest (fld w 23 3) (fld w 20 3) (fld w 0 12))
  | 9 => some (.lreplay (fld w 23 3) (fld w 0 12))
  | 10 => some (.lrev (fld w 23 3) (fld w 22 1) (fld w 12 10) (fld w 0 12))
  | 11 => some (.phprep (fld w 22 4))
  | 12 => some (.phadv (fld w 22 4))
  | 13 => some (.phset (fld w 22 4))
  | 14 => some (.mapld (fld w 22 4) (fld w 17 5))
  | 15 => some (.next (fld w 20 6))
  | 16 => some (.tail (fld w 21 5))
  | 17 => some (.trap (fld w 0 16))
  | 18 => some (.rte)
  | 19 => some (.exit)
  | 20 => some (.srd (fld w 20 6) (fld w 12 8))
  | 21 => some (.swr (fld w 20 6) (fld w 12 8))
  | 22 => some (.dictsw (fld w 21 5))
  | _ => none

/-- The SCA instruction that an opcode names, its fields read from the word. -/
def candidateSca (w : Nat) : Nat → Option Instr
  | 0 => some (.scnop)
  | 1 => some (.add (fld w 20 6) (fld w 14 6) (fld w 8 6))
  | 2 => some (.sub (fld w 20 6) (fld w 14 6) (fld w 8 6))
  | 3 => some (.addi (fld w 20 6) (fld w 14 6) (fld w 0 14))
  | 4 => some (.mul (fld w 20 6) (fld w 14 6) (fld w 8 6))
  | 5 => some (.mulh (fld w 20 6) (fld w 14 6) (fld w 8 6))
  | 6 => some (.divq (fld w 20 6) (fld w 14 6) (fld w 8 6))
  | 7 => some (.remq (fld w 20 6) (fld w 14 6) (fld w 8 6))
  | 8 => some (.and (fld w 20 6) (fld w 14 6) (fld w 8 6))
  | 9 => some (.or (fld w 20 6) (fld w 14 6) (fld w 8 6))
  | 10 => some (.xor (fld w 20 6) (fld w 14 6) (fld w 8 6))
  | 11 => some (.andi (fld w 20 6) (fld w 14 6) (fld w 0 14))
  | 12 => some (.ori (fld w 20 6) (fld w 14 6) (fld w 0 14))
  | 13 => some (.xori (fld w 20 6) (fld w 14 6) (fld w 0 14))
  | 14 => some (.shl (fld w 20 6) (fld w 14 6) (fld w 8 6))
  | 15 => some (.shr (fld w 20 6) (fld w 14 6) (fld w 8 6))
  | 16 => some (.sra (fld w 20 6) (fld w 14 6) (fld w 8 6))
  | 17 => some (.shli (fld w 20 6) (fld w 14 6) (fld w 0 6))
  | 18 => some (.shri (fld w 20 6) (fld w 14 6) (fld w 0 6))
  | 19 => some (.srai (fld w 20 6) (fld w 14 6) (fld w 0 6))
  | 20 => some (.min (fld w 20 6) (fld w 14 6) (fld w 8 6))
  | 21 => some (.max (fld w 20 6) (fld w 14 6) (fld w 8 6))
  | 22 => some (.minn (fld w 20 6) (fld w 14 6) (fld w 8 6))
  | 23 => some (.maxn (fld w 20 6) (fld w 14 6) (fld w 8 6))
  | 24 => some (.cmpeq (fld w 20 6) (fld w 14 6) (fld w 8 6))
  | 25 => some (.cmplt (fld w 20 6) (fld w 14 6) (fld w 8 6))
  | 26 => some (.cmpltn (fld w 20 6) (fld w 14 6) (fld w 8 6))
  | 27 => some (.sel (fld w 20 6) (fld w 14 6) (fld w 8 6) (fld w 2 6))
  | 28 => some (.movi (fld w 20 6) (fld w 0 20))
  | 29 => some (.movhi (fld w 20 6) (fld w 18 2) (fld w 0 16))
  | 30 => some (.clz (fld w 20 6) (fld w 14 6))
  | 31 => some (.popc (fld w 20 6) (fld w 14 6))
  | 32 => some (.bfx (fld w 20 6) (fld w 14 6) (fld w 8 6) (fld w 2 6) (fld w 1 1))
  | 33 => some (.bfi (fld w 20 6) (fld w 14 6) (fld w 8 6) (fld w 2 6))
  | 34 => some (.aadd (fld w 21 5) (fld w 16 5) (fld w 10 6))
  | 35 => some (.amov (fld w 21 5) (fld w 20 1) (fld w 14 6))
  | 36 => some (.alea (fld w 21 5) (fld w 16 5) (fld w 10 6) (fld w 7 3))
  | 37 => some (.fadd (fld w 20 6) (fld w 14 6) (fld w 8 6))
  | 38 => some (.fmul (fld w 20 6) (fld w 14 6) (fld w 8 6))
  | 39 => some (.fma (fld w 20 6) (fld w 14 6) (fld w 8 6) (fld w 2 6))
  | 40 => some (.fcvt (fld w 20 6) (fld w 14 6) (fld w 9 5) (fld w 4 5) (fld w 3 1))
  | 41 => some (.tshape (fld w 22 4) (fld w 17 5) (fld w 10 7) (fld w 3 7) (fld w 1 2))
  | 42 => some (.mpar (fld w 23 3) (fld w 17 6))
  | _ => none

/-- The MEM instruction that an opcode names, its fields read from the word. -/
def candidateMem (w : Nat) : Nat → Option Instr
  | 0 => some (.lnop)
  | 1 => some (.ld (fld w 40 2) (fld w 37 3) (fld w 28 6) (fld w 23 5) (fld w 13 10) (fld w 11 1) (fld w 10 1) (fld w 0 10))
  | 2 => some (.st (fld w 40 2) (fld w 37 3) (fld w 28 6) (fld w 23 5) (fld w 11 1) (fld w 10 1) (fld w 0 10))
  | 3 => some (.ldv (fld w 40 2) (fld w 37 3) (fld w 28 9) (fld w 23 5) (fld w 13 10) (fld w 12 1) (fld w 11 1) (fld w 10 1) (fld w 0 10))
  | 4 => some (.stv (fld w 40 2) (fld w 37 3) (fld w 28 9) (fld w 23 5) (fld w 11 1) (fld w 10 1) (fld w 0 10))
  | 5 => some (.ldvs (fld w 40 2) (fld w 37 3) (fld w 28 9) (fld w 23 5) (fld w 13 10) (fld w 4 6) (fld w 2 2))
  | 6 => some (.stvs (fld w 40 2) (fld w 37 3) (fld w 28 9) (fld w 23 5) (fld w 4 6) (fld w 2 2))
  | 7 => some (.ldvg (fld w 40 2) (fld w 37 3) (fld w 28 9) (fld w 23 5) (fld w 13 10) (fld w 4 9) (fld w 2 2))
  | 8 => some (.stvg (fld w 40 2) (fld w 37 3) (fld w 28 9) (fld w 23 5) (fld w 4 9) (fld w 2 2))
  | 9 => some (.ldt (fld w 40 2) (fld w 37 3) (fld w 28 4) (fld w 23 5) (fld w 13 10) (fld w 10 1) (fld w 0 10))
  | 10 => some (.stt (fld w 40 2) (fld w 37 3) (fld w 28 4) (fld w 23 5) (fld w 10 1) (fld w 0 10))
  | 11 => some (.stt2 (fld w 40 2) (fld w 37 3) (fld w 28 4) (fld w 23 5) (fld w 10 1) (fld w 0 10))
  | 12 => some (.amo (fld w 40 2) (fld w 37 3) (fld w 31 6) (fld w 25 6) (fld w 20 5) (fld w 17 3) (fld w 13 4) (fld w 12 1) (fld w 11 1) (fld w 10 1))
  | 13 => some (.red (fld w 40 2) (fld w 37 3) (fld w 25 6) (fld w 20 5) (fld w 17 3) (fld w 13 4) (fld w 12 1) (fld w 10 1) (fld w 9 1))
  | 14 => some (.drain (fld w 39 3))
  | 15 => some (.fence (fld w 39 3) (fld w 31 8))
  | 16 => some (.cvtways (fld w 37 5))
  | 17 => some (.cinv (fld w 40 2) (fld w 37 3) (fld w 23 5) (fld w 13 10))
  | 18 => some (.cwb (fld w 40 2) (fld w 37 3) (fld w 23 5) (fld w 13 10))
  | 19 => some (.pref (fld w 40 2) (fld w 37 3) (fld w 23 5) (fld w 13 10))
  | _ => none

/-- The VEC instruction that an opcode names, its fields read from the word. -/
def candidateVec (w : Nat) : Nat → Option Instr
  | 0 => some (.vnop)
  | 1 => some (.vadd (fld w 33 9) (fld w 24 9) (fld w 15 9) (fld w 10 5) (fld w 6 4) (fld w 5 1))
  | 2 => some (.vsub (fld w 33 9) (fld w 24 9) (fld w 15 9) (fld w 10 5) (fld w 6 4) (fld w 5 1))
  | 3 => some (.vmul (fld w 33 9) (fld w 24 9) (fld w 15 9) (fld w 10 5) (fld w 6 4) (fld w 5 1))
  | 4 => some (.vfma (fld w 33 9) (fld w 24 9) (fld w 15 9) (fld w 10 5) (fld w 6 4) (fld w 5 1))
  | 5 => some (.vmin (fld w 33 9) (fld w 24 9) (fld w 15 9) (fld w 10 5) (fld w 6 4) (fld w 5 1))
  | 6 => some (.vmax (fld w 33 9) (fld w 24 9) (fld w 15 9) (fld w 10 5) (fld w 6 4) (fld w 5 1))
  | 7 => some (.vabs (fld w 33 9) (fld w 24 9) (fld w 10 5) (fld w 6 4) (fld w 5 1))
  | 8 => some (.vneg (fld w 33 9) (fld w 24 9) (fld w 10 5) (fld w 6 4) (fld w 5 1))
  | 9 => some (.vand (fld w 33 9) (fld w 24 9) (fld w 15 9) (fld w 10 5) (fld w 6 4) (fld w 5 1))
  | 10 => some (.vor (fld w 33 9) (fld w 24 9) (fld w 15 9) (fld w 10 5) (fld w 6 4) (fld w 5 1))
  | 11 => some (.vxor (fld w 33 9) (fld w 24 9) (fld w 15 9) (fld w 10 5) (fld w 6 4) (fld w 5 1))
  | 12 => some (.vnot (fld w 33 9) (fld w 24 9) (fld w 10 5) (fld w 6 4) (fld w 5 1))
  | 13 => some (.vshl (fld w 33 9) (fld w 24 9) (fld w 15 9) (fld w 10 5) (fld w 6 4) (fld w 5 1))
  | 14 => some (.vshr (fld w 33 9) (fld w 24 9) (fld w 15 9) (fld w 10 5) (fld w 6 4) (fld w 5 1))
  | 15 => some (.vsra (fld w 33 9) (fld w 24 9) (fld w 15 9) (fld w 10 5) (fld w 6 4) (fld w 5 1))
  | 16 => some (.vcmp (fld w 33 4) (fld w 24 9) (fld w 15 9) (fld w 10 5) (fld w 6 4) (fld w 5 1) (fld w 0 4))
  | 17 => some (.vsel (fld w 33 9) (fld w 24 9) (fld w 15 9) (fld w 10 5) (fld w 6 4))
  | 18 => some (.vmov (fld w 33 9) (fld w 24 9) (fld w 10 5) (fld w 6 4) (fld w 5 1))
  | 19 => some (.vbcast (fld w 33 9) (fld w 24 6) (fld w 10 5) (fld w 6 4) (fld w 5 1))
  | 20 => some (.vext (fld w 33 6) (fld w 24 9) (fld w 15 6) (fld w 10 5) (fld w 6 4) (fld w 5 1))
  | 21 => some (.vins (fld w 33 9) (fld w 24 6) (fld w 15 6) (fld w 10 5) (fld w 6 4) (fld w 5 1))
  | 22 => some (.vperm (fld w 33 9) (fld w 24 9) (fld w 15 9) (fld w 10 5) (fld w 6 4) (fld w 5 1))
  | 23 => some (.vred (fld w 33 6) (fld w 24 9) (fld w 10 5) (fld w 6 4) (fld w 5 1) (fld w 0 4))
  | 24 => some (.vscan (fld w 33 9) (fld w 24 9) (fld w 10 5) (fld w 6 4) (fld w 5 1) (fld w 0 4))
  | 25 => some (.vcvt (fld w 33 9) (fld w 24 9) (fld w 15 5) (fld w 10 5) (fld w 6 4) (fld w 5 1) (fld w 4 1))
  | 26 => some (.vrcp (fld w 33 9) (fld w 24 9) (fld w 10 5) (fld w 6 4) (fld w 5 1))
  | 27 => some (.vrsq (fld w 33 9) (fld w 24 9) (fld w 10 5) (fld w 6 4) (fld w 5 1))
  | 28 => some (.vexp2 (fld w 33 9) (fld w 24 9) (fld w 10 5) (fld w 6 4) (fld w 5 1))
  | 29 => some (.vthr (fld w 33 4) (fld w 24 9) (fld w 15 6) (fld w 10 5) (fld w 6 4) (fld w 5 1))
  | 30 => some (.vtopk (fld w 33 4) (fld w 24 9) (fld w 15 6) (fld w 10 5) (fld w 6 4) (fld w 5 1))
  | 31 => some (.vhist (fld w 24 9) (fld w 15 6) (fld w 10 5) (fld w 6 4) (fld w 5 1))
  | 32 => some (.scacc (fld w 33 9) (fld w 24 9) (fld w 15 9) (fld w 6 4) (fld w 5 1))
  | 33 => some (.vefq (fld w 33 9) (fld w 24 9) (fld w 15 9))
  | 34 => some (.mand (fld w 33 4) (fld w 24 4) (fld w 15 4) (fld w 6 4) (fld w 5 1))
  | 35 => some (.mor (fld w 33 4) (fld w 24 4) (fld w 15 4) (fld w 6 4) (fld w 5 1))
  | 36 => some (.mxor (fld w 33 4) (fld w 24 4) (fld w 15 4) (fld w 6 4) (fld w 5 1))
  | 37 => some (.mnot (fld w 33 4) (fld w 24 4) (fld w 6 4) (fld w 5 1))
  | 38 => some (.mpopc (fld w 33 6) (fld w 24 4) (fld w 6 4) (fld w 5 1))
  | _ => none

/-- The XFM instruction that an opcode names, its fields read from the word. -/
def candidateXfm (w : Nat) : Nat → Option Instr
  | 0 => some (.xnop)
  | 1 => some (.xexp (fld w 9 4) (fld w 5 4) (fld w 0 5))
  | 2 => some (.xtrn (fld w 9 4) (fld w 5 4))
  | 3 => some (.xcvt (fld w 9 4) (fld w 5 4) (fld w 0 5))
  | 4 => some (.xreblk (fld w 9 4) (fld w 5 4) (fld w 0 5))
  | _ => none

/-- The SCL instruction that an opcode names, its fields read from the word. -/
def candidateScl (w : Nat) : Nat → Option Instr
  | 0 => some (.slnop)
  | 1 => some (.slatch (fld w 13 1) (fld w 4 9) (fld w 3 1))
  | 2 => some (.slclr (fld w 13 1))
  | _ => none

/-- The MTX instruction that an opcode names, its fields read from the word. -/
def candidateMtx (w : Nat) : Nat → Option Instr
  | 0 => some (.mnop)
  | 1 => some (.mcall (fld w 13 6))
  | 2 => some (.acz (fld w 15 4))
  | 3 => some (.acrel (fld w 15 4))
  | 4 => some (.acwb (fld w 15 4) (fld w 12 3) (fld w 9 3) (fld w 8 1))
  | 5 => some (.acadj (fld w 15 4) (fld w 12 3) (fld w 9 3) (fld w 8 1))
  | 6 => some (.mpsld (fld w 16 3))
  | 7 => some (.acbrd (fld w 15 4) (fld w 11 4) (fld w 2 9) (fld w 1 1))
  | 8 => some (.acbwr (fld w 15 4) (fld w 11 4) (fld w 2 9) (fld w 1 1))
  | _ => none

/-- The ENG instruction that an opcode names, its fields read from the word. -/
def candidateEng (w : Nat) : Nat → Option Instr
  | 0 => some (.enop)
  | 1 => some (.cpy (fld w 6 5) (fld w 1 5))
  | 2 => some (.mcast (fld w 6 5) (fld w 1 5))
  | 3 => some (.bte (fld w 6 5) (fld w 1 5))
  | 4 => some (.tld (fld w 6 5) (fld w 1 5))
  | 5 => some (.tst (fld w 6 5) (fld w 1 5))
  | 6 => some (.cmpx (fld w 6 5) (fld w 1 5))
  | 7 => some (.cmpw (fld w 6 5) (fld w 1 5))
  | 8 => some (.tgath (fld w 6 5) (fld w 1 5))
  | 9 => some (.tscat (fld w 6 5) (fld w 1 5))
  | 10 => some (.qfence (fld w 6 5) (fld w 1 5))
  | 11 => some (.qpush (fld w 6 5) (fld w 1 5))
  | 12 => some (.lkbegin (fld w 6 5) (fld w 1 5))
  | 13 => some (.lkreq (fld w 6 5) (fld w 1 5))
  | 14 => some (.lkupg (fld w 6 5) (fld w 1 5))
  | 15 => some (.lkrel (fld w 6 5) (fld w 1 5))
  | 16 => some (.lkrelall (fld w 6 5) (fld w 1 5))
  | 17 => some (.coll (fld w 6 5) (fld w 1 5))
  | 18 => some (.nettx (fld w 6 5) (fld w 1 5))
  | 19 => some (.netrxp (fld w 6 5) (fld w 1 5))
  | 20 => some (.stgrd (fld w 6 5) (fld w 1 5))
  | 21 => some (.vdec (fld w 6 5) (fld w 1 5))
  | 22 => some (.pgreq (fld w 6 5) (fld w 1 5))
  | _ => none

/-- The MICRO instruction that an opcode names, its fields read from the word. -/
def candidateMicro (w : Nat) : Nat → Option Instr
  | 0 => some (.midle (fld w 18 10))
  | 1 => some (.mlda (fld w 25 3) (fld w 18 7) (fld w 11 7))
  | 2 => some (.mldb (fld w 25 3) (fld w 18 7) (fld w 11 7))
  | 3 => some (.mstep (fld w 20 8))
  | 4 => some (.mscale (fld w 27 1) (fld w 26 1))
  | 5 => some (.mzp (fld w 27 1) (fld w 24 3))
  | 6 => some (.mskip (fld w 27 1))
  | 7 => some (.mrowb (fld w 21 7) (fld w 18 3))
  | 8 => some (.macc (fld w 25 3) (fld w 24 1))
  | 9 => some (.mloop (fld w 18 10) (fld w 8 10))
  | 10 => some (.mend)
  | 11 => some (.mfmt (fld w 23 5) (fld w 18 5))
  | 12 => some (.msetk (fld w 16 12))
  | 13 => some (.mclr (fld w 25 3))
  | 14 => some (.mjmp (fld w 18 10))
  | 15 => some (.mwaits (fld w 27 1))
  | _ => none

/-- The instruction that a slot's opcode names. -/
def candidate (k : SlotKind) (w : Nat) : Option Instr :=
  let op := w / 2 ^ opcodeLow k
  match k with
  | .sync => candidateSync w op
  | .ctrl => candidateCtrl w op
  | .sca => candidateSca w op
  | .mem => candidateMem w op
  | .vec => candidateVec w op
  | .xfm => candidateXfm w op
  | .scl => candidateScl w op
  | .mtx => candidateMtx w op
  | .eng => candidateEng w op
  | .micro => candidateMicro w op

/-- Whether the decoder admits an instruction: its operands are ones its encoding admits. -/
def admits (i : Instr) : Bool := wf i

/-- The instruction in a slot's bits. A candidate is accepted when re-encoding it gives the word again, so that no
reserved bit is set, and when its operands are well formed. -/
def decodeSlot (k : SlotKind) (w : Nat) : Decoded DecodeError Instr :=
  match candidate k w with
  | none => .bad .unassignedOpcode
  | some i =>
    if encode i ≠ w then .bad .reservedField
    else if admits i then .ok i else .bad .illegalField

/-- The twelve slot fields and STALL of a bundle, before the slots are decoded (R49, R58); `pad` names the slots and
`padHeader` the header or template whose reserved bits are set. -/
structure RawBundle where
  stall : Nat
  words : List Nat
  pad : List Nat
  padHeader : Bool
  deriving DecidableEq, Repr

/-- The value of little-endian bytes (R5). -/
def leNat : List Byte → Nat
  | [] => 0
  | b :: bs => b.toNat + 256 * leNat bs

/-- First bit of slot `i` in the 384 bits of a bundle (R49). -/
def slotLow : Nat → Nat
  | 0 => 360 | 1 => 328 | 2 => 296 | 3 => 264 | 4 => 216 | 5 => 168 | 6 => 120 | 7 => 72
  | 8 => 56 | 9 => 40 | 10 => 16 | _ => 0

/-- A dictionary entry's 48 bytes as a bundle (R49). -/
def rawOfEntry (bytes : List Byte) : RawBundle :=
  let n := leNat bytes
  { stall := bits n 380 4
    words := (List.range 12).map fun i => bits n (slotLow i) (slotWidth (slotKindAt i))
    pad := []
    padHeader := bits n 376 4 != 0 }

/-- Stream words that a slot's field takes in a literal (R58). -/
def slotWords (i : Nat) : Nat := (slotWidth (slotKindAt i) + 15) / 16

/-- Words of a literal after its template (R58). -/
def literalLength (t : Nat) : Nat :=
  (if bitOf t 3 then 1 else 0) + ((List.range 12).map fun i => if bitOf t (4 + i) then slotWords i else 0).sum

/-- Lowest word first (R58). -/
def wordsNat : List Nat → Nat
  | [] => 0
  | w :: ws => w + 65536 * wordsNat ws

/-- The slot fields of a literal, from slot `i` on: slot values, and the slots whose padding is set (R58). -/
def literalSlots (t : Nat) : Nat → Nat → List Nat → List Nat × List Nat
  | 0, _, _ => ([], [])
  | n + 1, i, ws =>
    if bitOf t (4 + i) then
      let v := wordsNat (ws.take (slotWords i))
      let width := slotWidth (slotKindAt i)
      let r := literalSlots t n (i + 1) (ws.drop (slotWords i))
      (v % 2 ^ width :: r.1, if v / 2 ^ width = 0 then r.2 else i :: r.2)
    else
      let r := literalSlots t n (i + 1) ws
      (0 :: r.1, r.2)

/-- A literal's template and words as a bundle (R58). -/
def rawOfLiteral (t : Nat) (ws : List Nat) : RawBundle :=
  let hdr := bitOf t 3
  let h := if hdr then ws.headD 0 else 0
  let r := literalSlots t 12 0 (if hdr then ws.drop 1 else ws)
  { stall := bits h 4 4
    words := r.1
    pad := r.2
    padHeader := bits h 0 4 != 0 || bits h 8 8 != 0 || bits t 0 2 != 0 }

/-- Each slot of a bundle decoded. -/
def decodeSlots (ws : List Nat) : List (Decoded DecodeError Instr) :=
  (List.range 12).map fun i => decodeSlot (slotKindAt i) (ws.getD i 0)

/-- The instructions of a bundle whose slots all decode, and else the slots that do not (R51, R64). -/
def decodeBundle (r : RawBundle) : Decoded (List Nat) (List Instr) :=
  let ds := decodeSlots r.words
  let bad := (List.range 12).filter fun i =>
    r.pad.contains i || (match ds.getD i (.ok .snop) with | .ok _ => false | .bad _ => true)
  if bad = [] then .ok (ds.filterMap fun d => match d with | .ok i => some i | .bad _ => none)
  else .bad bad

/-- The slots whose word may have this many bits, in the order in which they are tried (DESIGN CHOICE, log entry 11). -/
def slotsOfWidth : Nat → List SlotKind
  | 16 => [.eng, .sync, .xfm, .scl]
  | 24 => [.mtx]
  | 32 => [.sca, .ctrl, .micro]
  | 48 => [.mem, .vec]
  | _ => []

/-- The first slot whose decoder accepts the word (DESIGN CHOICE, log entry 11). -/
def firstDecode (w : Nat) : List SlotKind → Option Instr
  | [] => none
  | k :: ks => match decodeSlot k w with
    | .ok i => some i
    | .bad _ => firstDecode w ks

/-- The instruction in a table word of `nbits` bits (DESIGN CHOICE, log entry 11): the same bits may stand in several
slots of a bundle, and the first slot that accepts them decides. -/
def decodeTableWord (nbits w : Nat) : Option Instr := firstDecode w (slotsOfWidth nbits)

end Sys2Proof
end

