-- ==== Sys2Proof/Machine/State.lean ====
section
/-! DEFINITION. The state of the machine as plain data (INVENTORY.md lists each field with its rule), its faults and
refusals, and the state after reset. -/

namespace Sys2Proof.Machine

/-- Register files, as the scoreboard and the port counts name them (R41, R44, R209). -/
inductive RegFile
  | s | a | v | m | t | sys | p | tctl
  deriving DecidableEq, Repr

/-- One register. -/
structure Reg where
  file : RegFile
  num : Nat
  deriving DecidableEq, Repr

/-- A pending boundary cause (R209, R213). -/
structure Cause where
  code : Nat
  detail : Nat
  faddr : Nat
  smask : Nat
  deriving DecidableEq, Repr

/-- What a retiring write puts into registers (R54, R107, R148). -/
inductive RegWrite
  | s (n : Nat) (x : Word64)
  | a (n : Nat) (x : Word64)
  | v (n : Nat) (x : Vec)
  | m (n : Nat) (x : Mask)
  | p (n : Nat) (x : Word64)
  /-- a tile control register of the core (R45) -/
  | tctl (n : Nat) (x : BitVec 32)
  /-- bytes of a tile of the core: offset of the first byte of each run, and the run (R114, R148) -/
  | tile (n : Nat) (runs : List (Nat × List Byte))
  /-- SYS.PHASE and SYS.PHGEN (R94) -/
  | phase (map : Nat) (gen : Word64)
  /-- counts added at positions of the count queue (R144) -/
  | count (positions : List Nat)
  /-- a load that failed: its destination keeps its value, and its landing raises the cause (R345, R360) -/
  | fail (cause : Cause)
  deriving DecidableEq, Repr

/-- Kinds of register write on its way: of fixed latency (R54), a load with a landing-buffer entry (R108), the mask or tile
that lands with one or without an entry (R112, R114), a transform unit's result (R148). -/
inductive PendKind
  | fixed | load | landing | xfm
  deriving DecidableEq, Repr

/-- A register write on its way: it retires at core cycle `due`. A load's write waits for its data, which port item `id`
brings: `got` once the access has performed and its value is fixed, `ready` once the data has returned (R54, R107 to R109).
Data of host memory and of a load with ARR 0 returns only in a freeze: `freeze` (R107, R109). -/
structure Pend where
  due : Nat
  kind : PendKind
  id : Nat
  got : Bool
  ready : Bool
  freeze : Bool
  w : RegWrite
  deriving DecidableEq, Repr

/-- Where a byte of a load comes from: a location of memory, or a constant (R40, R112). -/
inductive ByteSrc
  | key (k : Nat)
  | const (b : Byte)
  /-- a byte of a tolerant page: its location, and what stands for it where the page holds bad data (R226, R359) -/
  | cell (k : Nat) (bad : Byte)
  /-- a byte that is not resident, of a residency-tolerant load (R112) -/
  | absent
  deriving DecidableEq, Repr

/-- A translation of a page, as a walk finds it and a cache holds it (R330): the cache (0 to 255 a core's, 256 and up a cluster's,
none for an agent without one), the space, first address, size, target, write permission, duplicate, tolerance. -/
structure Trans where
  holder : Nat
  space : Nat
  base : Nat
  size : Nat
  loc : Nat
  pa : Nat
  w : Bool
  dup : Bool
  tol : Bool
  /-- address of the other copy of a read-duplicated page, and the key of the leaf entry (R336) -/
  pa2 : Nat
  entry : Nat
  /-- the non-leaf entries that the walk read: key and value (R329, R330) -/
  path : List (Nat × Nat)
  deriving DecidableEq, Repr

/-- An access held in a core's memory port, not yet performed (R107, R111, R116, R117, R119, R87). -/
inductive PortOp
  | load (srcs : List ByteSrc)
  | store (cells : List (Nat × Byte))
  | amo (op : Nat) (bytes : Nat) (srcs : List ByteSrc) (arg cmp : Nat)
  | red (op : Nat) (bytes : Nat) (ordered : Bool) (srcs : List ByteSrc) (arg : Nat)
  | fence (classes : Nat)
  /-- an increment of a flag of a core, posted at a scope -/
  | post (core flag inc : Nat) (near : Bool)
  deriving DecidableEq, Repr

/-- One access of a context in its core's port. `bundle` numbers bundles of the context; `rank` orders the accesses of one
bundle: acquires, loads, writes, releases (R111). -/
structure PortItem where
  id : Nat
  bundle : Nat
  rank : Nat
  cls : Nat
  scope : Nat
  acq : Bool
  rel : Bool
  /-- some byte of the access lies in the issuing core's own PM or scratchpad (R259) -/
  own : Bool
  /-- count of the IOD's clock when it was issued (R345) -/
  since : Nat
  /-- effective address and translations of the access, for a record and for the copies of a page (R345, R336, R360) -/
  addr : Nat
  via : List Trans
  op : PortOp
  deriving DecidableEq, Repr

/-- One level of the loop stack (R91). -/
structure LoopLevel where
  iter : Nat
  start : Nat
  /-- the body's first word is a template of a running literal run (R92) -/
  startLit : Bool
  stop : Nat
  count : Nat
  down : Bool
  done : Nat
  /-- levels pushed by one LNEST share their body (R291) -/
  group : Nat
  deriving DecidableEq, Repr

/-- One map entry (R224). -/
structure MapEntry where
  wbase : Nat
  len : Nat
  ksrc : Nat
  wb : Bool
  carry : Nat
  kind : Nat
  target : Nat
  row0 : Nat
  col0 : Nat
  bhandle : Nat
  deriving DecidableEq, Repr

/-- What follows a bundle once all its slots have committed (R95, R215). -/
inductive After
  | none | rte | exit
  deriving DecidableEq, Repr

/-- The split point and operand capture of a parked context, or of a frame (R206, R208, R216). -/
structure Frame where
  epc : Nat
  lit : Bool
  sres : Nat
  capv : Bool
  map : Nat
  gen : Word64
  /-- bytes of the capture by frame offset -/
  bytes : Tab Byte
  /-- what a committed slot 1 of a parked bundle decided: its next word, with whether it is a template, and what follows
  the bundle (R90, R206) -/
  target : Option (Nat × Bool)
  after : After
  deriving DecidableEq, Repr

/-- What a fault of a bundle is: its cause and where the bundle splits (R206, R210). -/
structure Split where
  code : Nat
  detail : Nat
  faddr : Nat
  smask : Nat
  sres : Nat
  epc : Nat
  lit : Bool
  capv : Bool
  phase : Nat
  gen : Word64
  bytes : Tab Byte
  line : Nat
  mig : Bool
  target : Option (Nat × Bool) := none
  after : After := .none
  qid : Nat := 0xFF
  deriving DecidableEq, Repr

/-- A load that a split has to complete before the trap is taken: its place in the frame, its place in the port, and what it reads
(R208). -/
structure TrapLoad where
  base : Nat
  rank : Nat
  cls : Nat
  scope : Nat
  acq : Bool
  nr : Bool
  via : List Trans
  srcs : List ByteSrc
  deriving DecidableEq, Repr

/-- What a context is doing (R205, R216, R311, R313). -/
inductive Mode
  | unbound
  /-- bound, and able to issue when its issue checks pass -/
  | running
  /-- yielded at NEXT (R313) -/
  | yielded
  /-- EXIT has committed; the instance ends when its routines, drains and landings have (R95) -/
  | exiting
  /-- parked by a replayable fault (R216) -/
  | parked
  /-- parked without a record because its trap queue was full (R362) -/
  | parkedFull
  /-- parked without a record because its trap queue could not be written (R362) -/
  | parkedLost
  /-- parked without a record because firmware moves its page (R333) -/
  | parkedMoved
  /-- killed, until its fault domain is torn down (R209, R365) -/
  | killed
  /-- its instance has ended; it is freed with its gang (R312) -/
  | ended
  deriving DecidableEq, Repr

/-- The bundle that started work off the bundle's own path: its first word and the phase it read, and its context's domain, handle
table and hardware queue (R209, R210, R234, R361). -/
structure Origin where
  epc : Nat
  lit : Bool
  phase : Nat
  gen : Word64
  node : Nat
  htbase : Nat
  htlen : Nat
  wq : Nat
  deriving DecidableEq, Repr

/-- What became of a trap record (R333, R362): written; not written because its queue was full, or because the queue could not be
written; or none due, because firmware moves the page. -/
inductive Told
  | written | full | unwritable | moved
  deriving DecidableEq, Repr

/-- Work halted by a fault: its cause, the page-table lines watched (R332), and what became of its record (R362). -/
structure Halt where
  cause : Cause
  lines : List Nat
  told : Told
  deriving DecidableEq, Repr

/-- A preparation (R222, R230, R234). -/
structure Prep where
  map : Nat
  /-- 0 not begun, 1 begun, 2 true -/
  stage : Nat
  /-- elapsed cycle from which it may begin, and then from which it may become true -/
  due : Nat
  /-- the whole of the bundle that started it has committed (R229, R230) -/
  whole : Bool
  /-- number of the bundle that started it: its sources hold every store up to that bundle (R233) -/
  bundle : Nat
  org : Origin
  /-- entries of the current map and of the prepared map when it was started -/
  cur : List MapEntry
  next : List MapEntry
  /-- snapshot granules that are taken, and the bytes of the snapshot being taken (R230) -/
  snapped : Nat
  taken : List Byte
  /-- entries of the prepared map that are done, and granules of the one after them (R234) -/
  reached : Nat
  gran : Nat
  /-- the descriptor that the load entry under way read as it began (R250) -/
  desc : List Nat
  /-- elapsed cycle in which it began, and the accesses that its last granule made (R230) -/
  began : Nat
  spent : Nat
  /-- everything has moved: it is true from elapsed cycle `due` on (R230) -/
  moved : Bool
  halt : Option Halt
  /-- the fault whose service it has restarted from: met again, it writes no second record (R332) -/
  retry : Option Cause
  deriving DecidableEq, Repr

/-- A snapshot on its way to its backing tile (R230, R234). `advanced` is the bundle whose PHADV or PHSET left its map. -/
structure WriteBack where
  entry : Nat
  map : Nat
  org : Origin
  handle : Nat
  row0 : Nat
  col0 : Nat
  bytes : List Byte
  /-- granules that are written (R234) -/
  gran : Nat
  /-- the descriptor that it read as it began (R250) -/
  desc : List Nat
  advanced : Option Nat
  deriving DecidableEq, Repr

/-- A context (R41, R46, R91, R222, R311). -/
structure Ctx where
  mode : Mode
  /-- launch, stage, instance and node it serves (R311) -/
  launch : Nat
  stage : Nat
  inst : Nat
  node : Nat
  prio : Nat
  gang : Nat
  compat : Bool
  /-- number of its next bundle -/
  seq : Nat
  /-- cycle before which its next bundle does not issue (R212) -/
  nextAt : Nat
  /-- cycle before which a MAPLD's image has not been read, so that its next bundle is blocked (R228) -/
  imageAt : Nat
  v : Tab Vec
  s : Tab Word64
  a : Tab Word64
  m : Tab Mask
  it : Tab (BitVec 32)
  p : Tab Word64
  cq : List Nat
  loops : List LoopLevel
  lrec : Tab (Nat × Bool)
  /-- echoes on their way: iterator, value, and whether the loop runs in a handler (R91) -/
  echo : List (Nat × Nat × Bool)
  pc : Nat
  /-- the next word is a template of a running literal run (R58) -/
  inRun : Bool
  sres : Nat
  lit : Bool
  trapm : Bool
  capv : Bool
  priv : Bool
  fpsf : Nat
  fpte : Nat
  chksb : Nat
  tvec : Word64
  epc : Word64
  cause : Word64
  phase : Nat
  phgen : Word64
  waitto : Nat
  cbase : Nat
  dbase : Nat
  dictn : Nat
  tgrant : Nat
  tfb : Word64
  cmpat : Word64
  pend : List Pend
  port : List PortItem
  /-- a DRAIN holds the next bundle, at this scope (R118) -/
  drain : Option Nat
  /-- timeout of the WAIT or CBAR of the next bundle: the elapsed cycle at which it began to count, its limit and its DETAIL
  (R86, R209) -/
  waitFrom : Option (Nat × Nat × Nat)
  /-- barriers at which a CBAR of this context has been counted, and those among them that have completed, each with whether the
  CBAR stands in a handler (R89) -/
  arrived : List (Nat × Bool)
  passed : List (Nat × Bool)
  /-- the walks of the next bundle's read phase have been made (R106) -/
  walked : Bool
  /-- a trap entry or a return waits for the landings on their way (R214) -/
  settling : Bool
  /-- a split whose trap waits for loads that other agents hold (R208) -/
  trapping : Option (Split × List TrapLoad)
  /-- banks held by BANKLK and bundles left (R88) -/
  bank : Option (Nat × Nat × Nat)
  /-- handle to accumulator slot (R167) -/
  handles : Tab Nat
  maps : Tab (List MapEntry)
  prep : Option Prep
  /-- preparations that were running when a bind emptied the slot: they run to their ends (R223) -/
  strays : List Prep
  wbacks : List WriteBack
  /-- its write-backs are halted; the fault they have restarted from (R234, R332) -/
  wbHalt : Option Halt
  wbRetry : Option Cause
  /-- age ordinal, matrix copy, line limits, ended, wounding ordinal (R278, R284) -/
  txn : Option Nat
  txnPat : Word64
  txnLlim : Nat
  wound : Option Nat
  boundary : List Cause
  /-- the split point of a fault or return that the next bundle takes up (R215) -/
  resume : Option Frame
  park : Option (Frame × Cause)
  /-- page-table lines a parked context waits on (R332) -/
  monitor : List Nat
  /-- stream words fetched, whole lines of 64 bytes (R56, R61) -/
  icWords : Tab Nat
  /-- queue slot that the last NEXT delivered (R313) -/
  held : Option Nat
  /-- elapsed cycle of the first check of a waiting NEXT (R314) -/
  nextFrom : Option Nat
  /-- work word chosen at the issue check, consumed when slot 1 commits (R313) -/
  chosen : Option Nat
  /-- the fault whose park has ended: met again, it writes no second record (R332) -/
  retry : Option Cause
  /-- the stage to which a NEXT rebinds it once its instance is quiet (R313) -/
  goal : Option Nat
  deriving DecidableEq, Repr

/-- A context before its first bind (log entry 1). -/
def Ctx.init : Ctx :=
  { mode := .unbound, launch := 0, stage := 0, inst := 0, node := 0, prio := 0, gang := 0, compat := false, seq := 0, nextAt := 0, imageAt := 0
    v := [], s := [], a := [], m := [], it := [], p := [], cq := [], loops := [], lrec := [], echo := []
    pc := 0, inRun := false, sres := 0, lit := false, trapm := false, capv := false, priv := false
    fpsf := 0, fpte := 0, chksb := 0, tvec := 0, epc := 0, cause := 0, phase := 0, phgen := 0, waitto := 0
    cbase := 0, dbase := 0, dictn := 0, tgrant := 0, tfb := 0, cmpat := 0x014903134F0F3FFF
    pend := [], port := [], drain := none, waitFrom := none, arrived := [], passed := [], walked := false, settling := false, trapping := none, bank := none
    handles := [], maps := [], prep := none, strays := [], wbacks := [], wbHalt := none, wbRetry := none, txn := none, txnPat := 0, txnLlim := 0, wound := none
    boundary := [], resume := none, park := none, monitor := [], icWords := []
    held := none, nextFrom := none, chosen := none, retry := none, goal := none }

/-- An entry of the matrix queue (R154). -/
inductive MatrixOp
  /-- a call with the kinds of its parameters as its commit found them (R155, R156) -/
  | call (entry kinds : Nat) (params : List Word64) (shapes : Tab (BitVec 32))
  | acz (handle : Nat)
  | acrel (handle : Nat)
  | mpsld (entry base kinds : Nat) (words : List Nat)
  | drain (handle grp : Nat) (toRegs adjoint : Bool) (desc : List Word64)
  deriving DecidableEq, Repr

structure MatrixEntry where
  ctx : Nat
  /-- issue cycle -/
  at' : Nat
  op : MatrixOp
  /-- number that its commit drew: own-PM accesses of the core with a smaller one stand before it (R264) -/
  mark : Nat
  begun : Bool
  deriving DecidableEq, Repr

/-- An operand copy of a routine (R160): the copied rows from `row0` on as numbers, the rows of the window, the captured
shape, KOFF and kc0. -/
structure OpCopy where
  rows : List Nat
  row0 : Nat
  nrow : Nat
  shape : BitVec 32
  koff : Nat
  kc0 : Nat
  deriving DecidableEq, Repr

/-- A row that a program wrote into a bank while a micro-instruction of the running routine was changing it: the chunk under way, the key of
its first word, its 1,024 bits, and the number of the first of the free choices of its 32 races (R168). -/
structure BankPut where
  chunk : Nat
  key : Nat
  value : Nat
  choice : Nat
  deriving DecidableEq, Repr

/-- A routine in flight (R158). -/
structure Routine where
  ctx : Nat
  /-- first word and words of the entry; ROM words stand after the store, 64 for each entry -/
  base : Nat
  len : Nat
  mpc : Nat
  /-- cycle in which the next micro-instruction begins -/
  begins : Nat
  params : List Word64
  shapes : Tab (BitVec 32)
  afmt : Nat
  bfmt : Nat
  k : Nat
  kc : Nat
  opA : Option OpCopy
  opB : Option OpCopy
  opB2 : Option OpCopy
  rowb : Nat
  scaleA : Bool
  scaleB : Bool
  zpA : Option OpCopy
  zpB : Option OpCopy
  skip : Bool
  /-- target handle and the INT bit of MACC -/
  target : Option Nat
  int : Bool
  loops : List (Nat × Nat)
  flags : Nat
  /-- chunks of the running MSTEP that leave the target unchanged (R358) -/
  bad : List Nat
  /-- chunks of the running MSTEP that the array repeats, and the cycles by which earlier repeats have delayed the routine (R358) -/
  reps : List Nat
  late : Nat
  /-- rows that programs wrote into its target's bank during the running MSTEP or MCLR (R168) -/
  puts : List BankPut
  /-- issue cycles of SCL instructions of each side since the begin, in commit order, not yet consumed (R164) -/
  sclA : List Nat
  sclB : List Nat
  /-- slots written, for the row pointers of R168 -/
  wrote : List Nat
  deriving DecidableEq, Repr

/-- A drain in flight (R171, R193, R203): its descriptor, handles and physical slots, the next row with its cycle and the
cycles per row, the cycle of its last write, and the writes that rows have formed and not yet made. -/
structure DrainRun where
  ctx : Nat
  adjoint : Bool
  toRegs : Bool
  desc : List Word64
  /-- first handle of its group -/
  handle : Nat
  /-- slot of each handle; none for an unmapped handle -/
  slots : List (Option Nat)
  row : Nat
  next : Nat
  pace : Nat
  ends : Nat
  cells : List (Nat × Byte)
  regs : List (Nat × Vec)
  flags : Nat
  /-- what the next row's parameter, record and accumulator words were when its cycle began (R168, R204) -/
  peek : Option (List (Nat × Byte) × List (BitVec 32))
  deriving DecidableEq, Repr

/-- A change of scale latches: effective cycle, side, first row and codes (R164). -/
structure LatchWrite where
  at' : Nat
  side : Nat
  row : Nat
  codes : List Nat
  deriving DecidableEq, Repr

/-- One engine command (R122). -/
structure Cmd where
  op : Nat
  ctx : Nat
  /-- fault domain, launch, stage and instance of the issuing context when it enqueued the command -/
  node : Nat
  launch : Nat
  stage : Nat
  inst : Nat
  /-- completion flag and its core (R123) -/
  flag : Nat
  fcore : Nat
  /-- address of the operand block -/
  baddr : Nat
  /-- operand block words 0 to 5 -/
  block : List Nat
  pos : Nat
  /-- number that its enqueuing drew: accesses of the core's contexts with a smaller one stand before it (R264), and one
  QFENCE has the same in all its queues -/
  mark : Nat
  org : Origin
  begun : Bool
  /-- count of the IOD's clock when it last began (R345) -/
  since : Nat
  /-- a lock request that a wound has cancelled (R284) -/
  void : Bool
  /-- the fault whose service it has restarted from (R332) -/
  retry : Option Cause
  /-- bytes moved so far (R126) -/
  moved : Nat
  /-- last pointer value written (R126) -/
  pointer : Nat
  /-- what the command keeps while it runs: its tensor's descriptor, CAP of its list, an operation's number and rank, packets
  acknowledged, pages waited for -/
  data : List Nat
  deriving DecidableEq, Repr

/-- An engine queue of a core (R122, R129, R363). -/
structure Queue where
  cmds : List Cmd
  next : Nat
  /-- position of the last completed command, and its length for a copy channel (R363, R364) -/
  last : Option Nat
  lastLen : Nat
  halted : Option Halt
  deriving DecidableEq, Repr

def Queue.init : Queue := { cmds := [], next := 0, last := none, lastLen := 0, halted := none }

/-- A flag increment on its way: the elapsed cycle from which it counts, flag, amount, and the fault domain, context and
instance that an overflow is charged to, with whether the context is killed (R84). -/
structure Inc where
  at' : Nat
  flag : Nat
  n : Nat
  node : Nat
  ctx : Nat
  inst : Nat
  kills : Bool
  deriving DecidableEq, Repr

/-- A core (R11, R41, R42). -/
structure Core where
  cyc : Nat
  el : Nat
  fcnt : Nat
  fcyc : Nat
  /-- first cycle at which it may issue (R53) -/
  nextAt : Nat
  cur : Nat
  /-- the current context has given way and none has taken its place (R318) -/
  switched : Bool
  flags : Tab Nat
  /-- dictionary cache: space, address and bytes of an entry, at most 2,048 (R12, R61) -/
  dict : List (Nat × Nat × Nat)
  /-- flag increments on their way (R84, R87) -/
  incs : List Inc
  tiles : Tab Byte
  tctl : Tab (BitVec 32)
  nw : Nat
  /-- copies of lines in L1: first key of the line and its bytes (R266, R121) -/
  l1 : Tab (List Byte)
  mq : List MatrixEntry
  routine : Option Routine
  drainRun : Option DrainRun
  /-- the cycle in which the running ACZ, ACREL or MPSLD ends -/
  arrayEnds : Option Nat
  /-- first cycle in which a further entry may begin, after the last end (R154) -/
  mtxFrom : Nat
  free : List Nat
  acm : Tab (BitVec 32)
  bankPtr : Tab Nat
  slotInt : Tab Bool
  mps : Tab Nat
  /-- loadable entries: first word, words, kinds (R169) -/
  entries : Tab (Nat × Nat × Nat)
  latches : Tab Nat
  latchIn : List LatchWrite
  /-- issue cycles of the three transform units' last instructions and their intervals (R148) -/
  xfmNext : Tab Nat
  queues : Tab Queue
  oven : Nat
  /-- 0 running, 1 clock-gated, 2 power-gated (R325) -/
  gate : Nat
  hang : Bool
  /-- PM marks of R238: torn down (zeroed and not bound since), and frozen by a kill, of a context of a domain -/
  tornDown : Bool
  frozen : Bool
  frozenBy : Nat
  /-- granules of held banks that renewals have served for the engine accesses of this core that wait (R88, R237) -/
  through : List Nat
  removed : Bool
  deriving DecidableEq, Repr

/-- A core after reset (R42) (DESIGN CHOICE, log entry 2). -/
def Core.init : Core :=
  { cyc := 0, el := 0, fcnt := 0, fcyc := 0, nextAt := 0, cur := 0, switched := false, flags := [], dict := [], incs := [], tiles := [], tctl := []
    nw := 0, l1 := [], mq := [], routine := none, drainRun := none, arrayEnds := none, mtxFrom := 0, free := List.range 16, acm := []
    bankPtr := [], slotInt := [], mps := [], entries := [], latches := [], latchIn := [], xfmNext := []
    queues := [], oven := 0, gate := 0, hang := false, tornDown := false, frozen := false, frozenBy := 0, through := [], removed := false }

/-- The bundle in flight: between two steps it holds the slots still to commit (R50; log entry 5). -/
structure Flight where
  live : Bool
  ctx : Nat
  pc : Nat
  lit : Bool
  /-- next sequential word, and whether it is a template -/
  seqPc : Nat
  seqRun : Bool
  stall : Nat
  /-- issue cycle -/
  t : Nat
  /-- slot that executes now -/
  slot : Nat
  /-- slots still to execute, the present one included -/
  rest : List (Nat × Instr)
  /-- memory as the read phase found it -/
  mem : Tab Byte
  /-- scratchpad ways of the issuing core at the read phase -/
  nw : Nat
  /-- map through which W-space translates (R226, R215) -/
  map : Nat
  phase : Nat
  gen : Word64
  cap : Option (Tab Byte)
  target : Option (Nat × Bool)
  after : After
  deriving DecidableEq, Repr

def Flight.init : Flight :=
  { live := false, ctx := 0, pc := 0, lit := false, seqPc := 0, seqRun := false, stall := 0, t := 0, slot := 0, rest := []
    mem := [], nw := 0, map := 0, phase := 0, gen := 0, cap := none, target := none, after := .none }

/-- One request of a transaction on a lock: a hold, a wait or both a hold and a pending upgrade (R280, R281). -/
structure LockEntry where
  node : Nat
  handle : Nat
  lvl : Nat
  tile : Nat
  line : Nat
  ctx : Nat
  ord : Nat
  /-- mode held, 0 while it only waits -/
  mode : Nat
  /-- mode asked for, 0 when nothing is asked -/
  want : Nat
  /-- flag core and flag of the grant; flag 32 for an upgrade that an escalation queued, which raises none of its own -/
  fcore : Nat
  flag : Nat
  pat : Word64
  /-- what is asked for includes an escalation (R286) -/
  esc : Bool
  deriving DecidableEq, Repr

/-- A line request that an escalation will grant as covered (R286). -/
structure LockLate where
  node : Nat
  handle : Nat
  tile : Nat
  line : Nat
  ord : Nat
  fcore : Nat
  flag : Nat
  ctx : Nat
  deriving DecidableEq, Repr

/-- A lock home (R272, R277). -/
structure LockHome where
  age : Nat
  entries : List LockEntry
  late : List LockLate
  /-- age counts on their way to this home: home that sent it and count -/
  ages : List (Nat × Nat)
  /-- cancellations of wounded transactions on their way: context and ordinal (R284) -/
  cancels : List (Nat × Nat)
  deriving DecidableEq, Repr

/-- A barrier: participants and arrivals (R89). -/
structure Barrier where
  parts : Nat
  count : Nat
  waiting : List Nat
  deriving DecidableEq, Repr

/-- A cluster (R11). -/
structure Cluster where
  bars : Tab Barrier
  fused : Bool
  home : LockHome
  removed : Bool
  deriving DecidableEq, Repr

/-- A cluster at reset (R42; DESIGN CHOICE, log entry 2). -/
def Cluster.init : Cluster :=
  { bars := [], fused := false, home := { age := 0, entries := [], late := [], ages := [], cancels := [] }
    removed := false }

/-- A pending RED entry at the port that owns its word (R117). `acc` is the sum or combination, or with `ordered` the
contributions by source core and issue order. -/
structure RedEntry where
  key : Nat
  keys : List Nat
  op : Nat
  bytes : Nat
  ordered : Bool
  acc : Nat
  /-- 16-bit lanes of the word that some contribution reaches (R117, R300) -/
  lanes : Nat
  parts : List (Nat × Nat × Nat)
  ctxs : List Nat
  /-- the domain whose tolerant page holds the word (R359) -/
  soft : Option Nat
  /-- RO of what leaves for the host: no release of system scope is among its contributions (R344) -/
  relaxed : Bool
  /-- cores' cycle in which it was begun (R266; log entry 91) -/
  born : Nat
  deriving DecidableEq, Repr

/-- A fault domain (R326). -/
structure Domain where
  node : Nat
  root : Nat
  loc : Nat
  pasid : Nat
  live : Bool
  /-- substitution counter (R359) -/
  subst : Nat
  /-- PIDX, ROVF and FOVF of its trap queue: software writes none of them (R361; log entry 67) -/
  pidx : Nat
  rovf : Nat
  fovf : Nat
  deriving DecidableEq, Repr

/-- A stage record (R309). -/
structure Stage where
  cbase : Nat
  dbase : Nat
  dictn : Nat
  maps : List Nat
  qbase : Nat
  qlen : Nat
  prod : Nat
  tgrant : Nat
  gang : Nat
  barb : Nat
  barc : Nat
  imax : Nat
  deriving DecidableEq, Repr

/-- A tail record: context number, instance, record and captured carries (R319). -/
structure TailRec where
  ctx : Nat
  inst : Nat
  record : List Byte
  carries : Option (List Word64)
  deriving DecidableEq, Repr

/-- A stage queue of one cluster: slots deliverable in order, slots delivered and not returned, the next slot to fill
(R309, R313 to R316). -/
structure StageQueue where
  ready : List Nat
  out : List Nat
  tail : Nat
  /-- cycle in which each slot became deliverable, and the core that pushed it (R314) -/
  tags : Tab (Nat × Nat)
  deriving DecidableEq, Repr

def StageQueue.init : StageQueue := { ready := [], out := [], tail := 0, tags := [] }

/-- A launch in flight with the values its node resolved to (R306, R308). -/
structure Launch where
  queue : Nat
  /-- nodes of the path from its own to the root, each with the contexts that its subtree may hold -/
  path : List (Nat × Nat)
  prio : Nat
  cmpat : Word64
  llim : Nat
  node : Nat
  priv : Bool
  wdlim : Nat
  clumask : Nat
  ctxmax : Nat
  tqbase : Nat
  htbase : Nat
  htlen : Nat
  stages : List Stage
  grid : Nat
  fuse : Bool
  compat : Bool
  carries : List Word64
  tag : Nat
  doneVa : Nat
  nextIdx : Nat
  back : List Nat
  clusters : List Nat
  tails : List TailRec
  /-- contexts that ran an instance -/
  ran : List Nat
  stageQ : Tab StageQueue
  deriving DecidableEq, Repr

/-- A hardware work queue (R307). -/
structure HwQueue where
  ring : Nat
  rsz : Nat
  head : Nat
  ptail : Nat
  node : Nat
  save : Nat
  state : Nat
  err : Nat
  tovf : Bool
  preq : Bool
  prog : Nat
  launch : Option Nat
  children : List TailRec
  lastTag : Nat
  /-- watchdog: cycle of the IOD's clock from which it counts, and a first expiry (R324) -/
  wdFrom : Nat
  wdOnce : Bool
  deriving DecidableEq, Repr

/-- A request held or routed at the inbound ordering point (R341). -/
structure Inbound where
  seq : Nat
  /-- 0 aperture write, 1 aperture read, 2 doorbell or other BAR0 write, 3 BAR0 read -/
  kind : Nat
  /-- offset in its BAR -/
  addr : Nat
  data : List Byte
  len : Nat
  ro : Nat
  ido : Nat
  rid : Nat
  /-- what a write that was sent on has still to write, and its routes not yet acknowledged -/
  cells : List (Nat × Byte)
  routes : List Nat
  sent : Bool
  deriving DecidableEq, Repr

/-- A posted receive buffer, and the message that fills it: its sender, number and length, and offset and length of each packet
that has landed (R350). -/
structure RxBuf where
  core : Nat
  port : Nat
  node : Nat
  buf : Nat
  len : Nat
  fcore : Nat
  flag : Nat
  ctx : Nat
  inst : Nat
  launch : Nat
  msg : Option (Nat × Nat × Nat)
  got : List (Nat × Nat)
  deriving DecidableEq, Repr

/-- A Read command in a submission queue of a drive's controller (R346, R347): the STGRD that it serves, its blocks, its PRP list as
first key and length of each part, and the count of the IOD's clock when it was sent. -/
structure NvmeRead where
  core : Nat
  pos : Nat
  nsid : Nat
  lba : Nat
  blocks : Nat
  prps : List (Nat × Nat)
  /-- the translations from which the list was built (R347) -/
  via : List Trans
  since : Nat
  deriving DecidableEq, Repr

/-- An entry of a completion queue that the storage engine has not yet taken, with the bytes that the drive sent (R346, R347). -/
structure NvmeEnd where
  read : NvmeRead
  status : Nat
  data : List Byte
  deriving DecidableEq, Repr

/-- A direction of a die link (R355): number of its next flit, the flits not yet acknowledged, each with the words that it writes,
failed replays in a row, the flit from which it replays and the count of the IOD's clock until which it does, and whether it
retrains. -/
structure Link where
  next : Nat
  kept : List (Nat × List Nat)
  fails : Nat
  replayFrom : Nat
  replayUntil : Nat
  retrain : Bool
  deriving DecidableEq, Repr

def Link.init : Link := { next := 0, kept := [], fails := 0, replayFrom := 0, replayUntil := 0, retrain := false }

/-- A member's share of a collective operation (R351). -/
structure CollPart where
  group : Nat
  op : Nat
  rank : Nat
  cop : Nat
  fmt : Nat
  len : Nat
  data : List Byte
  deriving DecidableEq, Repr

/-- Ordering attributes of a request that the device sends: Relaxed Ordering and ID-Based Ordering (R338, R344). -/
structure HostAttr where
  relaxed : Bool
  ido : Bool
  deriving DecidableEq, Repr

/-- What the device sends out: MSI-X messages, network packets, page requests, responses (DESIGN CHOICE, log entry 79). -/
inductive Out
  | msi (vector : Nat)
  /-- one packet of a NETTX: of its message's length, the bytes from an offset on (R349) -/
  | packet (port ep raddr rcore rflag len off : Nat) (data : List Byte)
  | collective (group op rank : Nat) (data : List Byte)
  | pageRequest (pasid page : Nat)
  /-- an ATS translation request for a page that the device's cache does not hold (R344) -/
  | translationRequest (pasid page : Nat)
  | readData (seq : Nat) (data : List Byte)
  | readAbort (seq : Nat)
  /-- a Read command in a queue pair of a port's controller, with its PRP list (R346, R347) -/
  | nvmeRead (port pair nsid lba blocks : Nat) (prps : List (Nat × Nat))
  /-- answer to a packet: landed, or refused and to be sent again (R349) -/
  | packetAnswer (ep raddr : Nat) (landed : Bool)
  /-- a write to host memory with its ordering attributes, as a translated request (R338, R344) -/
  | hostWrite (attr : HostAttr) (cells : List (Nat × Byte))
  /-- a read of host memory with its tag and ordering attributes, as a translated request (R338, R344) -/
  | hostRead (tag : Nat) (attr : HostAttr) (keys : List Nat)
  /-- answer to a read of BAR0 (R339) -/
  | barData (off : Nat) (data : List Byte)
  deriving DecidableEq, Repr

/-- A unit's error record (R356, R357). -/
structure UnitErr where
  correctable : Nat
  uncorrectable : Nat
  /-- 0 none, 1 transient, 2 lasting -/
  cls : Nat
  spares : Nat
  testing : Bool
  /-- chunks of the running MSTEP whose residue check failed (R358) -/
  chunks : List Nat
  /-- what failed since the test began: keys of bytes, columns or lanes (R357) -/
  parts : List Nat
  /-- spare rows used in each bank of an HBM pseudo-channel (R356) -/
  rows : Tab Nat
  deriving DecidableEq, Repr

/-- The starter record's fields (R368): for each step its status, consecutive failures and failure code; the removal masks, those of
die links among them; and the spare assignments: unit, spare, and the row, bank, column or lane that it replaces. -/
structure StartRec where
  seq : Nat
  steps : List (Nat × Nat × Nat)
  cores : Nat
  clusters : Nat
  hbms : Nat
  channels : Nat
  links : Nat
  spareLog : List (Nat × Nat × Nat)
  deriving DecidableEq, Repr

/-- The record of a module whose steps are all normal (log entry 4). -/
def StartRec.init : StartRec :=
  { seq := 1, steps := List.replicate 8 (0, 0, 0), cores := 0, clusters := 0, hbms := 0, channels := 0, links := 0, spareLog := [] }

/-- The IOD, its ports and its firmware (R10, R338 to R372) (DESIGN CHOICE, log entry 79). -/
structure Dev where
  /-- cycles of the IOD's clock (R324) -/
  clock : Nat
  mgmt : Option (Nat × Nat × Nat)
  domains : List Domain
  hwq : Tab HwQueue
  launches : Tab Launch
  nextLaunch : Nat
  nextInst : Nat
  lastAt : Tab Nat
  apbind : Option (Nat × Nat)
  aperr : Nat
  aperrAddr : Nat
  inSeq : Nat
  inbound : List Inbound
  vectors : List (Nat × Nat × Nat)
  out : List Out
  /-- device address translation cache: PASID, first address and bytes (R338, R344) -/
  atc : List (Nat × Nat × Nat)
  nsids : List (Nat × Nat × Nat × Nat)
  endpoints : List (Nat × Nat × Nat)
  groups : Tab (List (Nat × Nat))
  rx : List RxBuf
  collParts : List CollPart
  collSeq : Tab Nat
  /-- Read commands outstanding in the 32 queue pairs of each port's controller, by 32 times the port plus the pair (R346) -/
  nvme : Tab (List NvmeRead)
  /-- completion queues of those pairs: entries that the engine has not yet taken (R346) -/
  nvmeDone : Tab (List NvmeEnd)
  links : Tab Link
  errs : Tab UnitErr
  /-- 64-bit words that hold the poison code, and of those that an L1 or L2 bank has lost the DETAIL of their MEMERR (R357, R360) -/
  poison : List Nat
  badIn : Tab Nat
  /-- trap records that wait for CIDX are those of parked agents; TQLOST and the last TQBASE (R369) -/
  tqlost : Nat
  tqlostBase : Nat
  mbCmd : Tab Byte
  mbResp : Tab Byte
  mbStatus : Nat
  mbBusy : Bool
  /-- kind and unit whose test the SELFTEST under way has begun (R370) -/
  testCmd : Option (Nat × Nat)
  hanglog : Nat
  ststep : Nat
  pwr : Nat
  /-- the MSI-X table as written, and the pending bits of its vectors (R339) -/
  bar0 : Tab Byte
  pba : Nat
  /-- uncorrectable errors that the port has logged for Advanced Error Reporting (R338) -/
  aer : Nat
  /-- the page of a MIGRATE that has made its first step and not its last (R337) -/
  moving : Option Trans
  start : StartRec
  /-- the other of the two copies in flash (R368) -/
  startOther : StartRec
  /-- stacks and STM channels that this start left out (R367) -/
  stacksGone : Nat
  channelsGone : Nat
  /-- the primary image that FWSTAGE wrote, the image that runs (1 primary, 2 second) and what was staged when it started
  (R366, R370, R371) -/
  staged : Option (List Byte)
  runImage : Nat
  runStaged : Option (List Byte)
  limit : Nat
  duty : Nat
  /-- number of the last period of the IOD's clock at which the power controller compared (R372) -/
  period : Nat
  powered : Bool
  /-- the host port has been trained (R366) -/
  hostUp : Bool
  timeout : Nat
  deriving DecidableEq, Repr

/-- A module at work, as a start with no failure leaves it (log entry 4) (DESIGN CHOICE, log entry 2). -/
def Dev.init : Dev :=
  { clock := 0, mgmt := none, domains := [], hwq := [], launches := [], nextLaunch := 1, nextInst := 1, lastAt := [], apbind := none, aperr := 0, aperrAddr := 0
    inSeq := 0, inbound := [], vectors := [], out := [], atc := [], nsids := [], endpoints := [], groups := [], rx := []
    collParts := [], collSeq := [], nvme := [], nvmeDone := [], links := [], errs := [], poison := [], badIn := [], tqlost := 0, tqlostBase := 0
    mbCmd := [], mbResp := [], mbStatus := 0, mbBusy := false, testCmd := none, hanglog := 0, ststep := 8, pwr := 0, bar0 := [], pba := 0, aer := 0, moving := none
    start := StartRec.init, startOther := { StartRec.init with seq := 0 }, stacksGone := 0, channelsGone := 0
    staged := none, runImage := 1, runStaged := none, limit := 2800, duty := 16, period := 0
    powered := true, hostUp := true, timeout := 50 }

/-- What the model does next: an event that is put in from outside or chosen among those that no rule orders, or a core
that issues (log entry 6). -/
inductive Turn
  | event (i : Instr)
  | core (c : Nat)
  deriving DecidableEq, Repr

/-- The whole machine. -/
structure State where
  ctxs : Tab Ctx
  cores : Tab Core
  clusters : Tab Cluster
  dev : Dev
  /-- every byte of PM, scratchpad, CSM, HBM, STM and host memory by its key; an unlisted byte reads 0 (R42, log entry 3) -/
  mem : Tab Byte
  /-- bytes written by the step under way, latest first; empty between steps (log entry 5) -/
  wlog : List (Nat × Byte)
  red : List RedEntry
  /-- the translation caches of cores and clusters, latest first, and the dies' walk caches: die, key and value of a non-leaf
  entry (R330) -/
  tlb : List Trans
  walks : List (Nat × Nat × Nat)
  fl : Flight
  agenda : List Turn
  /-- bundles since `step` last took an event that no rule orders, and how many such events it has taken (log entry 6) -/
  pace : Nat
  turns : Nat
  /-- free values drawn so far (log entry 7) -/
  fresh : Nat
  portId : Nat
  /-- cycles that have elapsed for the cores, which every core's elapsed count follows (log entry 6) -/
  now : Nat
  deriving DecidableEq, Repr

/-- Why the machine stops. -/
inductive Fault
  /-- Raised by `step` when the module has no power or is halted by its start (R366, R367, R372). Safe: the spec gives a
  module that is halted no further step. -/
  | halted
  deriving DecidableEq, Repr

/-- Why the model gives no meaning. -/
inductive Refusal
  /-- Raised by `exec` for a row of the opcode table that the model does not give a meaning. Safe: nothing is claimed of
  it. -/
  | notModelled (mnemonic : String)
  deriving DecidableEq, Repr

/-- An outcome of one step. -/
abbrev Result := Host.Outcome State Fault Refusal

/-- The machine after reset and start (R41, R42, R366; log entries 1 to 7). -/
def State.reset : State :=
  { ctxs := [], cores := [], clusters := [], dev := Dev.init, mem := [], wlog := [], red := [], tlb := [], walks := []
    fl := Flight.init, agenda := [], pace := 0, turns := 0, fresh := 0, portId := 1, now := 0 }

end Sys2Proof.Machine
end

