-- ==== Sys2Proof/Machine/Store.lean ====
section
/-! DEFINITION. Memory and its addresses: locations, reading and writing bytes, page-table walks, tensor descriptors and
the translation of the four spaces (R5, R42, R105, R124, R226, R250, R251, R326 to R330, R336). -/

namespace Sys2Proof.Machine

/-! ### Units -/

def State.ctx (s : State) (c : Nat) : Ctx := tabGet Ctx.init s.ctxs c
def State.setCtx (s : State) (c : Nat) (x : Ctx) : State := { s with ctxs := tabPut s.ctxs c x }
def State.core (s : State) (k : Nat) : Core := tabGet Core.init s.cores k
def State.setCore (s : State) (k : Nat) (x : Core) : State := { s with cores := tabPut s.cores k x }
def State.cluster (s : State) (k : Nat) : Cluster := tabGet Cluster.init s.clusters k
def State.setCluster (s : State) (k : Nat) (x : Cluster) : State := { s with clusters := tabPut s.clusters k x }

/-- Core of a context (R11). -/
def coreOf (ctx : Nat) : Nat := ctx / 4
/-- Cluster of a core (R11). -/
def clusterOf (core : Nat) : Nat := core / 8
/-- Compute die of a core (R11). -/
def dieOf (core : Nat) : Nat := core / 128

/-! ### Locations -/

/-- A byte location of the package or of the host (R10, R105, R328) (DESIGN CHOICE, log entry 21). -/
inductive Loc
  | hbm (pa : Nat)
  | stm (pa : Nat)
  | host (pasid pa : Nat)
  | pm (core off : Nat)
  | scratch (core off : Nat)
  | csm (cluster off : Nat)
  deriving DecidableEq, Repr

/-- The key of a location in memory; consecutive bytes of one space have keys 8 apart (DESIGN CHOICE, log entry 21). -/
def keyOf : Loc → Nat
  | .hbm pa => pa * 8
  | .stm pa => pa * 8 + 1
  | .pm core off => (core * 2 ^ 20 + off % 2 ^ 20) * 8 + 2
  | .csm cl off => (cl * 2 ^ 23 + off % 2 ^ 23) * 8 + 3
  | .scratch core off => (core * 2 ^ 18 + off % 2 ^ 18) * 8 + 4
  | .host pasid pa => (pasid * 2 ^ 64 + pa % 2 ^ 64) * 8 + 5

/-- The aligned 4-byte word of a key (R258). -/
def wordOf (k : Nat) : Nat := k / 32 * 8 + k % 8
/-- The 128-byte line of a key. -/
def lineOf (k : Nat) : Nat := k / 1024 * 8 + k % 8
/-- The core whose PM a key lies in. -/
def pmCoreOf (k : Nat) : Option Nat := if k % 8 = 2 then some (k / 8 / 2 ^ 20) else none
/-- The core whose PM or scratchpad a key lies in. -/
def ownCoreOf (k : Nat) : Option Nat :=
  if k % 8 = 2 then some (k / 8 / 2 ^ 20) else if k % 8 = 4 then some (k / 8 / 2 ^ 18) else none

/-! ### Bytes -/

/-- The latest logged write of a byte. -/
def logGet : List (Nat × Byte) → Nat → Option Byte
  | [], _ => none
  | (k, b) :: t, n => if k = n then some b else logGet t n

/-- A byte of memory, with the writes of the step under way (DESIGN CHOICE, log entry 3). -/
def State.byte (s : State) (k : Nat) : Byte := (logGet s.wlog k).getD (tabGet 0 s.mem k)

/-- A byte of memory as the read phase of the bundle in flight found it (R50) (DESIGN CHOICE, log entry 3). -/
def State.byte0 (s : State) (k : Nat) : Byte := tabGet 0 s.fl.mem k

/-- PM of a core drops writes: a kill has frozen it, or its domain's teardown has zeroed it and no context of the core has been bound
since, so that it reads 0 (R238) (DEDUCED, log entry 64). -/
def Core.sealed (k : Core) : Bool := k.frozen || k.tornDown

/-- Writes one byte; PM that a kill has frozen or a teardown has zeroed drops writes (R238). -/
def State.poke (s : State) (k : Nat) (b : Byte) : State :=
  match pmCoreOf k with
  | some c => if (s.core c).sealed then s else { s with wlog := (k, b) :: s.wlog }
  | none => { s with wlog := (k, b) :: s.wlog }

def State.pokes (s : State) (cells : List (Nat × Byte)) : State := cells.foldl (fun s c => s.poke c.1 c.2) s

/-- Memory with the logged writes made, the earliest first (DESIGN CHOICE, log entries 3, 5). -/
def commitLog (m : Tab Byte) : List (Nat × Byte) → Tab Byte
  | [] => m
  | (k, b) :: t => tabSet 0 (commitLog m t) k b

/-- Page-table lines that stopped agents of a die wait on (R332). -/
def State.watched (s : State) (die : Nat) : List Nat :=
  (s.ctxs.filter fun p => dieOf (coreOf p.1) == die).flatMap (fun p =>
      p.2.monitor ++ ((p.2.prep.toList ++ p.2.strays).flatMap fun q => match q.halt with | some h => h.lines | none => [])
        ++ match p.2.wbHalt with | some h => h.lines | none => [])
    ++ (s.cores.filter fun p => dieOf p.1 == die).flatMap fun p => p.2.queues.flatMap fun (q : Nat × Queue) =>
      match q.2.halted with | some h => h.lines | none => []

/-- A die has 1,024 monitors, and waiters on one line share one; with none free an agent stops unwatched (R330, R332). `line` is 1
more than the line's number, and 0 where no entry was read. -/
def State.arm (s : State) (die line : Nat) : List Nat :=
  let w := (s.watched die).eraseDups
  if line = 0 then [] else if w.contains (line - 1) || w.length < 1024 then [line - 1] else []

/-- The wakes that the logged writes cause: those on watched lines (R332). -/
def State.wakes (s : State) : List Turn :=
  if s.wlog.isEmpty then []
  else
    let w := s.watched 0 ++ s.watched 1
    if w.isEmpty then []
    else ((s.wlog.map fun c => lineOf c.1).eraseDups.filter w.contains).map fun l => .event (.monitorWake l)

/-- The end of every meaning: the writes it logged are made on the memory it began with, and wake who waits for them
(DESIGN CHOICE, log entry 5). -/
def done (s r : State) : Result :=
  .next { r with mem := commitLog s.mem r.wlog, wlog := [], agenda := r.wakes ++ r.agenda }

/-- Bytes `[8i + 7 : 8i]` of a number, lowest first (R5). -/
def leBytes : Nat → Nat → List Byte
  | 0, _ => []
  | n + 1, x => BitVec.ofNat 8 x :: leBytes n (x / 256)

/-- The keys of `n` consecutive bytes from a key. -/
def keysFrom (k n : Nat) : List Nat := (List.range n).map fun i => k + 8 * i

/-- `n` bytes from a key, as a number. -/
def readLe (rd : Nat → Byte) (k n : Nat) : Nat := leNat ((keysFrom k n).map rd)

/-- Cells that store a number at keys. -/
def cellsAt (keys : List Nat) (x : Nat) : List (Nat × Byte) := keys.zip (leBytes keys.length x)

/-! ### Errors in data -/

/-- The 64-bit word of a key, the unit of detection (R356). -/
def checkWord (k : Nat) : Nat := k / 64 * 8 + k % 8
/-- The 32-byte granule of a key. -/
def granuleOf (k : Nat) : Nat := k / 256 * 8 + k % 8

/-- UNIT of a MEMERR by location (R360) (DESIGN CHOICE, log entry 10; DEDUCED, log entry 77). -/
def unitOf (k : Nat) : Nat :=
  if k % 8 = 0 then k / 8 / (48 * 2 ^ 30) * 32 + Config.pseudoChannel (k / 8) % 32 else if k % 8 = 2 then k / 8 / 2 ^ 20
  else if k % 8 = 1 then Config.stmChannel (k / 8) % 32 else if k % 8 = 3 then k / 8 / 2 ^ 23 else if k % 8 = 4 then k / 8 / 2 ^ 18 else 0

/-- A byte lies in the range of a removed stack or of a removed STM channel (R367). -/
def State.rangeGone (s : State) (k : Nat) : Bool :=
  (k % 8 == 0 && bitOf s.dev.stacksGone (k / 8 / (48 * 2 ^ 30))) || (k % 8 == 1 && bitOf s.dev.channelsGone (Config.stmChannel (k / 8) % 32))

/-- DETAIL of the MEMERR that a read of a byte meets: KIND 5 in the range of a removed unit; else a word with the poison code, which an
L1 or L2 bank lost, or the unit where it lies (R357, R360, R367) (DESIGN CHOICE, log entry 10; DEDUCED, log entry 77). -/
def State.badDetail (s : State) (k : Nat) : Option Nat :=
  if s.rangeGone k then some (5 + unitOf k * 256)
  else if s.dev.poison.contains (checkWord k) then
    some (tabGet ((if k % 8 = 0 then 2 else if k % 8 = 1 then 3 else 0) + unitOf k * 256) s.dev.badIn (checkWord k))
  else none

def causeMemErr : Nat := 0x35

/-- Some byte of the package holds bad data or is left out. -/
def State.anyBad (s : State) : Bool := s.dev.poison != [] || s.dev.stacksGone != 0 || s.dev.channelsGone != 0

/-- A read of a byte meets an error. -/
def State.isBad (s : State) (k : Nat) : Bool := s.anyBad && (s.badDetail k).isSome

/-- DETAIL of the error in the 64-bit word at a key, if it holds one (R360). -/
def State.wordBad (s : State) (k : Nat) : Option Nat := if s.anyBad then s.badDetail k else none

/-- The location that a byte comes from. -/
def ByteSrc.place : ByteSrc → Option Nat
  | .key k => some k
  | .cell k _ => some k
  | .const _ => none
  | .absent => none

def srcByte (rd : Nat → Byte) : ByteSrc → Byte
  | .key k => rd k
  | .cell k _ => rd k
  | .const b => b
  | .absent => 0

/-- The first byte of a read whose error no tolerant page covers, with the error's DETAIL (R359, R360). -/
def State.firstHard (s : State) (srcs : List ByteSrc) : Option (Nat × Nat) :=
  if s.anyBad then srcs.findSome? fun b => match b with
    | .key k => (s.badDetail k).map fun detail => (k, detail)
    | _ => none
  else none

/-- Granules of tolerant pages in which a read finds bad data, each a substitution (R359) (DEDUCED, log entry 61). -/
def State.softGranules (s : State) (srcs : List ByteSrc) : List Nat :=
  if s.anyBad then (srcs.filterMap fun b => match b with
    | .cell k _ => if s.isBad k then some (granuleOf k) else none
    | _ => none).eraseDups
  else []

/-- The bytes of a read by a reader of single bytes, with what stands for those of a bad granule of a tolerant page (R359). -/
def State.goodBytes (s : State) (rd : Nat → Byte) (srcs : List ByteSrc) : List Byte :=
  let soft := s.softGranules srcs
  srcs.map fun b => match b with
    | .cell k sub => if soft.contains (granuleOf k) then sub else rd k
    | b => srcByte rd b

/-! ### Page tables -/

/-- A root of an address space: location and address of its table, PASID of its host leaves, its number among the
translation caches, and the agent that translates: a core, or `iodAgent` (R326, R330). -/
structure Space where
  id : Nat
  root : Nat
  loc : Nat
  pasid : Nat
  agent : Nat
  deriving DecidableEq, Repr

/-- The IOD as an agent: no translation cache of R330 is its own (DESIGN CHOICE, log entry 19). -/
def iodAgent : Nat := 288

/-- The cluster translation cache of a core, as a holder of translations (R330). -/
def clusterHolder (core : Nat) : Nat := 256 + clusterOf core

/-- The die whose walkers and walk cache an agent uses (R330). -/
def agentDie (agent : Nat) : Nat := if agent < 256 then dieOf agent else 0

/-- Kinds of access of R329. -/
inductive Acc
  | read | write | fetch
  deriving DecidableEq, Repr

/-- The end of a walk (R329). `line` is 1 more than the number of the stopping entry's line, 0 where none was read. -/
inductive Walked
  | ok (t : Trans)
  | stop (line : Nat) (nonResident mig : Bool)
  | prot
  /-- an entry holds bad data: DETAIL of the MEMERR (R360) -/
  | bad (detail : Nat)
  deriving DecidableEq, Repr

/-- Key of a physical address of HBM, STM or the host by LOC (R328; DESIGN CHOICE, log entry 21). -/
def physKey (loc pasid pa : Nat) : Nat :=
  if loc = 0 then keyOf (.hbm pa) else if loc = 1 then keyOf (.stm pa) else keyOf (.host pasid pa)

/-- First address bit of the index of a level (R327). -/
def levelLow : Nat → Nat
  | 4 => 48 | 3 => 39 | 2 => 30 | 1 => 21 | _ => 16

/-- Index bits of a level (R327). -/
def levelBits : Nat → Nat
  | 0 => 5
  | _ => 9

/-- A physical range lies in its space: HBM has 576 GiB and STM 2 TiB (R328) (DESIGN CHOICE, log entry 20). -/
def inSpace (loc pa n : Nat) : Bool :=
  match loc with
  | 0 => pa + n ≤ 576 * 2 ^ 30
  | 1 => pa + n ≤ 2 ^ 41
  | _ => true

/-- Whether an entry's bits are well formed at its level (R327, R328). A leaf whose page lies outside HBM or STM counts as
malformed (DESIGN CHOICE, log entry 20). -/
def entryOk (e lvl : Nat) : Bool :=
  let leaf := bitOf e 1
  let loc := bits e 4 2
  if leaf then
    lvl ≤ 2 && bits e 52 12 == 0 && bits e 9 7 == 0 && loc != 3 && bits e 0 52 / 2 ^ 16 * 2 ^ 16 % 2 ^ levelLow lvl == 0
      && (!bitOf e 6 || loc == 0) && inSpace loc (bits e 16 36 * 2 ^ 16) (2 ^ levelLow lvl)
  else lvl ≠ 0 && bits e 52 12 == 0 && bits e 2 2 == 0 && bits e 6 3 == 0 && loc < 2

/-- The walk of R329 from a table, `lvl` counting down: `kept` gives the non-leaf entries that a walk cache holds, and `path` those
read so far (DESIGN CHOICE, log entry 20). `bad` gives DETAIL of an error in the word at a key: an entry read from memory that has one ends
the walk (R360). -/
def walkFrom (rd : Nat → Byte) (kept bad : Nat → Option Nat) (sp : Space) (va : Nat) (acc : Acc) :
    Nat → Nat → Nat → List (Nat × Nat) → Walked
  | lvl, table, loc, path =>
    let k := physKey loc 0 (table + 8 * bits va (levelLow lvl) (levelBits lvl))
    let e := (kept k).getD (readLe rd k 8)
    let error := if (kept k).isSome then none else bad k
    if error.isSome then .bad (error.getD 0)
    else if !bitOf e 0 || !entryOk e lvl then .stop (lineOf k + 1) false false
    else if bitOf e 1 then
      let dup := bitOf e 6
      let shadowKey := physKey loc 0 (table + 8 * 2 ^ levelBits lvl + 8 * bits va (levelLow lvl) (levelBits lvl))
      let shadow := readLe rd shadowKey 8
      if dup && (bad shadowKey).isSome then .bad ((bad shadowKey).getD 0)
      else if dup && (bits shadow 16 36 * 2 ^ 16 != shadow || !inSpace 0 shadow (2 ^ levelLow lvl)) then .stop (lineOf k + 1) false false
      else if !bitOf e 2 then .stop (lineOf k + 1) true (bitOf e 7)
      else if acc = .write && !bitOf e 3 then .prot
      else .ok { holder := sp.agent, space := sp.id, base := va / 2 ^ levelLow lvl * 2 ^ levelLow lvl, size := 2 ^ levelLow lvl, loc := bits e 4 2
                 pa := bits e 16 36 * 2 ^ 16, w := bitOf e 3, dup := dup, tol := bitOf e 8, pa2 := shadow, entry := k, path := path }
    else match lvl with
      | 0 => .stop (lineOf k + 1) false false
      | l + 1 => walkFrom rd kept bad sp va acc l (bits e 8 44 * 2 ^ 8) (bits e 4 2) (path ++ [(k, e)])

/-- The walk of R329 from the root, with what a walk cache holds. -/
def walkWith (rd : Nat → Byte) (kept bad : Nat → Option Nat) (sp : Space) (va : Nat) (acc : Acc) : Walked :=
  if va / 2 ^ 57 ≠ 0 then .stop 0 false false else walkFrom rd kept bad sp va acc 4 sp.root sp.loc []

/-- The walk of R329 from the root that reads every entry from memory, where memory holds no bad data. -/
def walk (rd : Nat → Byte) (sp : Space) (va : Nat) (acc : Acc) : Walked := walkWith rd (fun _ => none) (fun _ => none) sp va acc

/-- A non-leaf entry in a die's walk cache (R330). -/
def State.keptEntry (s : State) (die k : Nat) : Option Nat :=
  (s.walks.find? fun w => w.1 == die && w.2.1 == k).map (·.2.2)

/-- A translation of an address that a core's cache or its cluster's holds (R330). -/
def cached (tlb : List Trans) (agent sp va : Nat) (acc : Acc) : Option Trans :=
  tlb.find? fun t => agent < 256 && (t.holder == agent || t.holder == clusterHolder agent)
    && t.space == sp && t.base ≤ va && va < t.base + t.size && (acc ≠ .write || t.w)

/-- A translation by the agent's caches, and else by a walk: a fault is raised only on the result of a walk (R329, R330)
(DESIGN CHOICE, log entry 19). -/
def lookup (s : State) (rd : Nat → Byte) (sp : Space) (va : Nat) (acc : Acc) : Walked :=
  match cached s.tlb sp.agent sp.id va acc with
  | some t => .ok { t with holder := sp.agent }
  | none => walkWith rd (s.keptEntry (agentDie sp.agent)) s.wordBad sp va acc

/-- Key of a virtual address under a translation, for a reader on a die: a read-duplicated page is read from the copy of
that die (R336, R249). -/
def transKey (sp : Space) (t : Trans) (va die : Nat) (acc : Acc) : Nat :=
  let home := if t.pa / (48 * 2 ^ 30) < 6 then 0 else 1
  let pa := if t.dup && acc ≠ .write && home ≠ die then t.pa2 else t.pa
  physKey t.loc sp.pasid (pa + (va - t.base))

/-- PASID of the host leaves of a space; translations carry the node's address plus 1, or 0 for the management space (R326). -/
def State.pasidOf (s : State) (space : Nat) : Nat :=
  if space = 0 then (s.dev.mgmt.map (·.2.2)).getD 0 else ((s.dev.domains.find? fun d => d.node + 1 == space && d.live).map (·.pasid)).getD 0

/-- The element of a non-empty list that an open choice picks. -/
def pickOf {α : Type} (fresh : Nat) (xs : List α) : Option α := xs[Config.freeNat fresh % max 1 xs.length]?

/-- A host leaf is translated through the device's address translation cache of 4,096 translations: on a miss the device sends a
translation request, and the answer takes a place, which one being open (R338, R344) (DESIGN CHOICE, log entry 19). -/
def State.cacheHost (s : State) (t : Trans) : State :=
  let e := (s.pasidOf t.space, t.pa, t.size)
  if t.loc ≠ 2 ∨ s.dev.atc.contains e then s
  else if s.dev.atc.length < 4096 then
    { s with dev := { s.dev with atc := e :: s.dev.atc, out := s.dev.out ++ [.translationRequest e.1 e.2.1] } }
  else
    { s with fresh := s.fresh + 1
             dev := { s.dev with atc := e :: s.dev.atc.filter fun x => some x ≠ pickOf s.fresh s.dev.atc
                                 out := s.dev.out ++ [.translationRequest e.1 e.2.1] } }

/-- A translation takes a place in its holder's cache, which holds `cap` of those that share its set; which one goes is open
(R330) (DESIGN CHOICE, log entry 19). -/
def State.hold (s : State) (t : Trans) (cap : Nat) (rivals : Trans → Bool) : State :=
  if s.tlb.contains t then s
  else
    let mine := s.tlb.filter fun u => u.holder == t.holder && rivals u
    if mine.length < cap then { s with tlb := t :: s.tlb }
    else { s with tlb := t :: s.tlb.filter fun u => some u ≠ pickOf s.fresh mine, fresh := s.fresh + 1 }

/-- The non-leaf entries of a walk take places in a die's walk cache of 256 (R330) (DESIGN CHOICE, log entry 19). -/
def State.keepPath (s : State) (die : Nat) (path : List (Nat × Nat)) : State :=
  path.foldl (fun s p =>
    let w := (die, p.1, p.2)
    let mine := s.walks.filter fun x => x.1 == die
    if s.walks.contains w then s
    else if mine.length < 256 then { s with walks := w :: s.walks }
    else { s with walks := w :: s.walks.filter fun x => some x ≠ pickOf s.fresh mine, fresh := s.fresh + 1 }) s

/-! ### Domains -/

def State.domain (s : State) (node : Nat) : Option Domain := s.dev.domains.find? fun d => d.node == node && d.live

/-- The address space of the fault domain on a node, as the IOD translates it; translations carry the node's address plus 1
(R326). -/
def State.space (s : State) (node : Nat) : Space :=
  match s.domain node with
  | some d => { id := node + 1, root := d.root, loc := d.loc, pasid := d.pasid, agent := iodAgent }
  | none => { id := node + 1, root := 0, loc := 0, pasid := 0, agent := iodAgent }

/-- The same space as a core translates it, with its caches (R330). -/
def State.spaceOf (s : State) (core node : Nat) : Space := { s.space node with agent := core }

/-- The management space (R326). -/
def State.mgmtSpace (s : State) : Space :=
  match s.dev.mgmt with
  | some (root, loc, pasid) => { id := 0, root := root, loc := loc, pasid := pasid, agent := iodAgent }
  | none => { id := 0, root := 0, loc := 0, pasid := 0, agent := iodAgent }

/-! ### Faults of an access -/

/-- A fault that an access meets: cause code, DETAIL and FADDR of R209 and R210, the lines of a Stop to watch, and whether
the leaf is one that firmware is moving, so that no record is written (R332, R333). -/
structure AFault where
  code : Nat
  detail : Nat
  faddr : Nat
  line : Nat
  mig : Bool
  deriving DecidableEq, Repr

def causeXlate : Nat := 0x11
def causeAlign : Nat := 0x21
def causePmAddr : Nat := 0x22
def causeCsmAddr : Nat := 0x23
def causeWMiss : Nat := 0x24
def causeProt : Nat := 0x25

def accDetail (sp : Nat) (acc : Acc) : Nat := sp + if acc = .write then 4 else 0

/-- A range of bytes translated: the bytes, and translations to enter into the caches. -/
abbrev Placed := Except AFault (List ByteSrc × List Trans)

/-- Pieces of a range that lie in one aligned block of `unit` bytes, in order. -/
def pieces (unit : Nat) : Nat → Nat → Nat → List (Nat × Nat)
  | 0, _, _ => []
  | fuel + 1, a, n =>
    if n = 0 then []
    else
      let len := min n (unit - a % unit)
      (a, len) :: pieces unit fuel (a + len) (n - len)

def appendPlaced (x y : Placed) : Placed :=
  match x with
  | .error e => .error e
  | .ok (a, t) => match y with
    | .error e => .error e
    | .ok (b, u) => .ok (a ++ b, t ++ u)

/-- One piece of a virtual range inside a 64 KiB block. `tolerant`: bytes of a valid page that is not resident read as
absent (R112). A byte of a tolerant page stands for zero where its data is bad (R359). -/
def placePiece (s : State) (rd : Nat → Byte) (sp : Space) (die spc : Nat) (acc : Acc) (tolerant : Bool) (faddr : Nat)
    (va len : Nat) : Placed :=
  match lookup s rd sp va acc with
  | .ok t => .ok ((keysFrom (transKey sp t va die acc) len).map fun k => if t.tol && t.loc != 2 then .cell k 0 else .key k, [t])
  | .stop line nonRes mig =>
    if tolerant && nonRes then .ok (List.replicate len .absent, [])
    else .error { code := causeXlate, detail := accDetail spc acc, faddr := faddr, line := line, mig := mig }
  | .prot => .error { code := causeProt, detail := accDetail spc acc, faddr := faddr, line := 0, mig := false }
  | .bad detail => .error { code := causeMemErr, detail := detail, faddr := faddr, line := 0, mig := false }

/-- A virtual range of `n` bytes (R105, R106): every part is translated (DEDUCED, log entry 85). -/
def placeVirtual (s : State) (rd : Nat → Byte) (sp : Space) (die spc : Nat) (acc : Acc) (tolerant : Bool) (va n : Nat) :
    Placed :=
  (pieces 65536 (n / 65536 + 2) va n).foldl
    (fun r p => appendPlaced r (placePiece s rd sp die spc acc tolerant p.1 p.1 p.2)) (.ok ([], []))

/-! ### Tensors -/

/-- A tensor descriptor (R251). -/
structure Tensor where
  base : Nat
  trows : Nat
  tcols : Nat
  rpitch : Nat
  fmt : Nat
  pad : Nat
  deriving DecidableEq, Repr

/-- A descriptor from its eight words; none where it breaks R251. -/
def tensorOf (w : List Nat) : Option Tensor :=
  let w0 := w.getD 0 0
  let w1 := w.getD 1 0
  let w2 := w.getD 2 0
  let w3 := w.getD 3 0
  let t : Tensor := { base := w0, trows := bits w1 0 32, tcols := bits w1 32 32, rpitch := bits w2 0 32, fmt := bits w2 32 5
                      pad := bits w3 0 32 }
  let width := fmtWidth t.fmt
  if w0 / 2 ^ 57 = 0 ∧ w0 % 128 = 0 ∧ t.trows ≠ 0 ∧ t.tcols ≠ 0 ∧ t.rpitch % 128 = 0 ∧ (t.tcols * width + 7) / 8 ≤ t.rpitch
      ∧ isFmt t.fmt ∧ bitOf w2 37 ∧ w2 / 2 ^ 38 = 0 ∧ w3 / 2 ^ min width 32 = 0
      ∧ (width ≠ 4 ∨ t.tcols % 2 = 0) ∧ (width ≠ 6 ∨ t.tcols % 4 = 0)
      ∧ (w.drop 4).all (· == 0) then some t
  else none

/-- Bytes of one row that hold elements. -/
def Tensor.rowBytes (t : Tensor) : Nat := t.tcols * fmtWidth t.fmt / 8

/-- Byte `j` of a row of pad elements (R40). -/
def Tensor.padByte (t : Tensor) (j : Nat) : Byte :=
  let w := fmtWidth t.fmt
  -- eight elements hold whole bytes at every width
  BitVec.ofNat 8 (packElems w (List.replicate 8 t.pad) / 2 ^ (8 * (j % w)))

/-- Byte `j` of a row whose elements all have one code (R40, R359). -/
def patternByte (width code j : Nat) : Byte :=
  BitVec.ofNat 8 (packElems width (List.replicate 8 code) / 2 ^ (8 * (j % width)))

/-- What stands for a byte of bad data in a tolerant page: for the layout unit the canonical NaN of a format, where it has
one, by the byte's place in its row; else zero (R359). -/
def substitute (layout : Option Nat) (j : Nat) : Byte :=
  match layout with
  | some f => (match fmtNan f with
    | some c => patternByte (fmtWidth f) c j
    | none => 0)
  | none => 0

/-- Where a descriptor stands: keys of its 64 bytes in the domain's space (R250). -/
def placeDescriptor (s : State) (rd : Nat → Byte) (sp : Space) (die htbase h : Nat) : Placed :=
  placeVirtual s rd sp die 3 .read false (htbase + 64 * h) 64

def srcsNat (rd : Nat → Byte) (srcs : List ByteSrc) : Nat := leNat (srcs.map (srcByte rd))

/-- The descriptor of a handle, with the translations it took: none where the handle is invalid (R250, R251). Bad data of it is MEMERR,
or zero in a tolerant page (R359, R360). -/
def readTensor (s : State) (rd : Nat → Byte) (sp : Space) (die htbase htlen h : Nat) :
    Except AFault (Option Tensor × List Trans) :=
  if h = 0 ∨ htlen ≤ h then .ok (none, [])
  else match placeDescriptor s rd sp die htbase h with
    | .error e => .error e
    | .ok (srcs, ts) => match s.firstHard srcs with
      | some (k, detail) =>
        .error { code := causeMemErr, detail := detail, faddr := htbase + 64 * h + (srcs.findIdx? fun b => b.place == some k).getD 0
                 line := 0, mig := false }
      | none =>
        let n := leNat (s.goodBytes rd srcs)
        .ok (tensorOf ((List.range 8).map fun i => bits n (64 * i) 64), ts)

/-- Substitutions that reading the descriptor of a handle makes (R359). -/
def descriptorSofts (s : State) (rd : Nat → Byte) (sp : Space) (die htbase htlen h : Nat) : Nat :=
  if h = 0 ∨ htlen ≤ h then 0
  else match placeDescriptor s rd sp die htbase h with
    | .error _ => 0
    | .ok (srcs, _) => (s.softGranules srcs).length

/-- TileByte of R226 for `len` bytes of one row: bytes outside the tensor are pad bytes. A fault names `faddr`, or else the
byte of the tensor that failed. -/
def placeTileRow (s : State) (rd : Nat → Byte) (sp : Space) (die spc : Nat) (acc : Acc) (faddr : Option Nat) (t : Tensor)
    (row c0 b len : Nat) : Placed :=
  let j0 := c0 * fmtWidth t.fmt / 8 + b
  let inside := if row < t.trows then min len (t.rowBytes - j0) else 0
  let real := (pieces 65536 3 (t.base + row * t.rpitch + j0) inside).foldl
    (fun r p => appendPlaced r (placePiece s rd sp die spc acc false (faddr.getD p.1) p.1 p.2)) (.ok ([], []))
  let cells : Placed := real.map fun r => ((r.1.zipIdx).map fun p => match p.1 with
    | .cell k _ => .cell k (substitute (some t.fmt) (j0 + p.2))
    | b => b, r.2)
  appendPlaced cells (.ok ((List.range (len - inside)).map fun i => .const (t.padByte (j0 + inside + i)), []))

/-! ### The four spaces of the MEM slots -/

/-- A PM or scratchpad range of R105. `ways` gives a core's converted ways. -/
def placePm (cluster : Nat) (ways : Nat → Nat) (acc : Acc) (ea n : Nat) : Placed :=
  (List.range n).foldl (fun r i =>
    let a := ea + i
    let core := cluster * 8 + bits a 21 3
    let bad : Placed := .error { code := causePmAddr, detail := accDetail 0 acc, faddr := a, line := 0, mig := false }
    appendPlaced r (
      if a / 2 ^ 24 ≠ 0 then bad
      else if bitOf a 20 then
        if bits a 18 2 ≠ 0 ∨ 16384 * ways core ≤ bits a 0 18 then bad
        else .ok ([.key (keyOf (.scratch core (bits a 0 18)))], [])
      else .ok ([.key (keyOf (.pm core (bits a 0 20)))], []))) (.ok ([], []))

/-- A CSM range of R105. -/
def placeCsm (cluster : Nat) (acc : Acc) (ea n : Nat) : Placed :=
  if ea + n ≤ 2 ^ 23 then .ok ((keysFrom (keyOf (.csm cluster ea)) n).map .key, [])
  else .error { code := causeCsmAddr, detail := accDetail 2 acc, faddr := max ea (2 ^ 23), line := 0, mig := false }

/-- What the translation of a context's access needs: its core, its space, handle table and current map. -/
structure View where
  core : Nat
  space : Space
  htbase : Nat
  htlen : Nat
  map : List MapEntry
  deriving DecidableEq, Repr

def State.launchOf (s : State) (c : Nat) : Option Launch :=
  (s.dev.launches.find? fun p => p.1 == (s.ctx c).launch).map (·.2)

def State.htOf (s : State) (c : Nat) : Nat × Nat :=
  match s.launchOf c with
  | some l => (l.htbase, l.htlen)
  | none => (0, 0)

def State.view (s : State) (c map : Nat) : View :=
  let x := s.ctx c
  { core := coreOf c, space := s.spaceOf (coreOf c) x.node, htbase := (s.htOf c).1, htlen := (s.htOf c).2, map := tabGet [] x.maps map }

/-- The bytes of a granule of W-space through its entry (R226) (DEDUCED, log entry 42). -/
def placeWPiece (s : State) (rd : Nat → Byte) (v : View) (acc : Acc) (tolerant : Bool) (a len : Nat) : Placed :=
  let cl := clusterOf v.core
  let miss : Placed := .error { code := causeWMiss, detail := accDetail 1 acc, faddr := a, line := 0, mig := false }
  match v.map.find? fun e => e.wbase ≤ a && a < e.wbase + 128 * (e.len + 1) with
  | none => miss
  | some e =>
    let o := a - e.wbase
    match e.kind with
    | 0 =>
      let pm := e.target + o
      let core := cl * 8 + bits pm 21 3
      if tolerant && (s.core core).tornDown then .ok (List.replicate len .absent, [])
      else .ok ((keysFrom (keyOf (.pm core (bits pm 0 20))) len).map .key, [])
    | 1 => .ok ((keysFrom (keyOf (.csm cl (e.target + o))) len).map .key, [])
    | 2 => match readTensor s rd v.space (dieOf v.core) v.htbase v.htlen e.target with
      | .error f => .error (if f.code = causeMemErr then f else { f with detail := accDetail 1 acc, faddr := a })
      | .ok (none, _) => miss
      | .ok (some t, ts) => appendPlaced (.ok ([], ts)) <| placeTileRow s rd v.space (dieOf v.core) 1 acc (some a) t (e.row0 + o / 128) e.col0 (o % 128) len
    | _ => match placeVirtual s rd v.space (dieOf v.core) 1 acc tolerant (e.target + o) len with
      | .error f => .error { f with faddr := a }
      | r => r

/-- Substitutions in the descriptors of the tile windows that a W-space range reaches (R226, R359). -/
def tileSofts (s : State) (rd : Nat → Byte) (v : View) (ea n : Nat) : Nat :=
  ((pieces 128 (n / 128 + 2) ea n).map fun p => match v.map.find? fun e => e.wbase ≤ p.1 && p.1 < e.wbase + 128 * (e.len + 1) with
    | some e => if e.kind = 2 then descriptorSofts s rd v.space (dieOf v.core) v.htbase v.htlen e.target else 0
    | none => 0).sum

/-- A W-space range (R221, R226). -/
def placeW (s : State) (rd : Nat → Byte) (v : View) (acc : Acc) (tolerant : Bool) (ea n : Nat) : Placed :=
  (pieces 128 (n / 128 + 2) ea n).foldl (fun r p => appendPlaced r (
    if p.1 / 2 ^ 32 ≠ 0 then
      .error { code := causeWMiss, detail := accDetail 1 acc, faddr := p.1, line := 0, mig := false }
    else placeWPiece s rd v acc tolerant p.1 p.2)) (.ok ([], []))

/-- A range of a space named by SP (R105). -/
def place (s : State) (rd : Nat → Byte) (v : View) (ways : Nat → Nat) (sp : Nat) (acc : Acc) (tolerant : Bool) (ea n : Nat) :
    Placed :=
  match sp with
  | 0 => placePm (clusterOf v.core) ways acc ea n
  | 1 => placeW s rd v acc tolerant ea n
  | 2 => placeCsm (clusterOf v.core) acc ea n
  | _ => placeVirtual s rd v.space (dieOf v.core) 3 acc tolerant ea n

/-- A range `d` bytes after an engine address (R124); a CSM range stays in the cluster that the address names. -/
def placeEngine (s : State) (rd : Nat → Byte) (sp : Space) (core : Nat) (acc : Acc) (ea d n : Nat) : Placed :=
  let a := bits ea 0 57
  match bits ea 62 2 with
  | 0 => placePm (clusterOf core) (fun c => (s.core c).nw) acc (a + d) n
  | 2 => placeCsm (bits a 23 5) acc (bits a 0 23 + d) n
  | _ => placeVirtual s rd sp (dieOf core) 3 acc false (a + d) n

/-- Fields of an engine address that must be zero (R124). -/
def engineAddrOk (ea : Nat) : Bool :=
  let a := bits ea 0 57
  bits ea 57 5 == 0 && match bits ea 62 2 with
    | 0 => a / 2 ^ 24 == 0
    | 2 => a / 2 ^ 28 == 0
    | 3 => true
    | _ => false

/-- Cells of a write of bytes to translated places; constants are dropped (R226). -/
def cellsOf (srcs : List ByteSrc) (bytes : List Byte) : List (Nat × Byte) :=
  (srcs.zip bytes).filterMap fun p => p.1.place.map fun k => (k, p.2)

end Sys2Proof.Machine
end

