-- ==== Sys2Proof/Machine/Operands.lean ====
section
/-! DEFINITION. The operands of a slot: which registers it reads and writes, where the trap frame holds each operand, and
reading an operand from the registers or from a captured frame (R44, R50, R54, R104, R131, R132, R208, R215). -/

namespace Sys2Proof.Machine

/-- The context of the bundle in flight. -/
def State.me (s : State) : Ctx := s.ctx s.fl.ctx
/-- Its core's number. -/
def State.myCore (s : State) : Nat := coreOf s.fl.ctx
/-- Its core. -/
def State.mine (s : State) : Core := s.core s.myCore
def State.setMe (s : State) (x : Ctx) : State := s.setCtx s.fl.ctx x
def State.setMine (s : State) (x : Core) : State := s.setCore s.myCore x

/-! ### Register files -/

def Ctx.sreg (x : Ctx) (n : Nat) : Word64 := tabGet 0 x.s n
def Ctx.areg (x : Ctx) (n : Nat) : Word64 := tabGet 0 x.a n
def Ctx.vreg (x : Ctx) (n : Nat) : Vec := tabGet 0 x.v n
def Ctx.mreg (x : Ctx) (n : Nat) : Mask := tabGet 0 x.m n
def Ctx.preg (x : Ctx) (n : Nat) : Word64 := tabGet 0 x.p n
def Core.tctlOf (k : Core) (t : Nat) : BitVec 32 := tabGet 0 k.tctl t
def Core.flagOf (k : Core) (f : Nat) : Nat := tabGet 0 k.flags f

/-- Byte `o` of a tile (R45). -/
def Core.tileByte (k : Core) (t o : Nat) : Byte := tabGet 0 k.tiles (16384 * t + o)

/-- Fields of a tile control register (R45). -/
def tcFmt (x : BitVec 32) : Nat := bits x.toNat 0 5
def tcRows (x : BitVec 32) : Nat := bits x.toNat 8 8
def tcBpr (x : BitVec 32) : Nat := bits x.toNat 16 8
def tcGsz (x : BitVec 32) : Nat := bits x.toNat 24 2
def tcOf (fmt rows bpr gsz : Nat) : BitVec 32 := BitVec.ofNat 32 (fmt + rows * 2 ^ 8 + bpr * 2 ^ 16 + gsz * 2 ^ 24)

/-! ### Places of the trap frame (R208) -/

/-- First byte of a slot's capture area. -/
def slotBase : Nat → Nat
  | 1 => 0x080 | 2 => 0x090 | 3 => 0x0B0 | 4 => 0x100 | 5 => 0x300 | 6 => 0x500 | 7 => 0x700 | 9 => 0x900 | 10 => 0x980
  | 11 => 0xA80 | _ => 0

/-- `n` captured bytes at a frame offset. -/
def frameNat (f : Tab Byte) (off n : Nat) : Nat := leNat ((List.range n).map fun i => tabGet 0 f (off + i))

/-- Operand of the slot in flight, from the capture where the slot resumes with one (R215). -/
def State.opS (s : State) (off n : Nat) : Nat :=
  match s.fl.cap with
  | some f => frameNat f (slotBase s.fl.slot + off) 8
  | none => (s.me.sreg n).toNat
def State.opA (s : State) (off n : Nat) : Nat :=
  match s.fl.cap with
  | some f => frameNat f (slotBase s.fl.slot + off) 8
  | none => (s.me.areg n).toNat
def State.opV (s : State) (off n : Nat) : Nat :=
  match s.fl.cap with
  | some f => frameNat f (slotBase s.fl.slot + off) 128
  | none => (s.me.vreg n).toNat
def State.opM (s : State) (off n : Nat) : Nat :=
  match s.fl.cap with
  | some f => frameNat f (slotBase s.fl.slot + off) 16
  | none => (s.me.mreg n).toNat
def State.opP (s : State) (n : Nat) : Word64 :=
  match s.fl.cap with
  | some f => BitVec.ofNat 64 (frameNat f (slotBase s.fl.slot + 8 * n) 8)
  | none => s.me.preg n
/-- A tile control register, as the MTX slot read it (R103, R155, R208). -/
def State.opTctl (s : State) (t : Nat) : BitVec 32 :=
  match s.fl.cap with
  | some f => BitVec.ofNat 32 (frameNat f (slotBase s.fl.slot + 0x40 + 4 * t) 4)
  | none => s.mine.tctlOf t

/-! ### Registers read and written -/

def rs (n : BitVec 6) : Reg := ⟨.s, n.toNat⟩
def ra (n : BitVec 5) : Reg := ⟨.a, n.toNat⟩
def rv (n : BitVec 9) : Reg := ⟨.v, n.toNat⟩
def rm (n : BitVec 4) : Reg := ⟨.m, n.toNat⟩
def rt (n : BitVec 4) : Reg := ⟨.t, n.toNat⟩
def rtc (n : BitVec 4) : Reg := ⟨.tctl, n.toNat⟩

/-- The mask operand of a masked instruction. -/
def maskUse (m : BitVec 4) (men : BitVec 1) : List (Nat × Reg) := if men = 1 then [(0x180, rm m)] else []
/-- Mask and old destination of a masked vector instruction (R131). -/
def mergeUse (vd : BitVec 9) (m : BitVec 4) (men : BitVec 1) : List (Nat × Reg) :=
  if men = 1 then [(0x100, rv vd), (0x180, rm m)] else []

/-- The registers that an instruction's operand fields read, each with its place in the slot's capture area (R44, R208);
tile and tile control registers have no place and stand at 0. MPAR's S stands where the S of the address forms does, at offset 8, though
MPAR has no field A to D: the frame's table gives it no place of its own (DESIGN CHOICE, log entry 105). ACBWR with ONE 0 reads the pair V and V + 1 and so takes two read
ports (DEDUCED, log entry 92). -/
def uses : Instr → List (Nat × Reg)
  | .brc s _ _ => [(0, rs s)] | .bri s => [(0, rs s)] | .ret a => [(0, ra a)]
  | .loop _ imm cnt _ | .lrev _ imm cnt _ => if imm = 0 then [(0, ⟨.s, cnt.toNat % 64⟩)] else []
  | .mapld _ a => [(0, ra a)] | .tail a => [(0, ra a)] | .dictsw a => [(0, ra a)]
  | .swr s _ => [(0, rs s)] | .srd _ n => [(0, ⟨.sys, n.toNat⟩)]
  | .add _ a b | .sub _ a b | .mul _ a b | .mulh _ a b | .divq _ a b | .remq _ a b | .and _ a b | .or _ a b | .xor _ a b
  | .shl _ a b | .shr _ a b | .sra _ a b | .min _ a b | .max _ a b | .minn _ a b | .maxn _ a b | .cmpeq _ a b
  | .cmplt _ a b | .cmpltn _ a b | .fadd _ a b | .fmul _ a b => [(0, rs a), (8, rs b)]
  | .sel _ a b c | .fma _ a b c => [(0, rs a), (8, rs b), (16, rs c)]
  | .addi _ a _ | .andi _ a _ | .ori _ a _ | .xori _ a _ | .shli _ a _ | .shri _ a _ | .srai _ a _ | .clz _ a | .popc _ a
  | .bfx _ a _ _ _ | .fcvt _ a _ _ _ => [(0, rs a)]
  | .movhi d _ _ => [(24, rs d)]
  | .bfi d a _ _ => [(0, rs a), (24, rs d)]
  | .aadd _ aa s | .alea _ aa s _ => [(0, ra aa), (8, rs s)]
  | .amov a dir s => if dir = 0 then [(8, rs s)] else [(0, ra a)]
  | .mpar _ s => [(8, rs s)]
  | .ld _ _ _ a _ _ _ _ | .ldv _ _ _ a _ _ _ _ _ => [(0, ra a)]
  | .st _ _ s a _ _ _ => [(0, ra a), (8, rs s)]
  | .stv _ _ v a _ _ _ => [(0, ra a), (0x80, rv v)]
  | .ldvs _ _ _ a _ s _ => [(0, ra a), (8, rs s)]
  | .stvs _ _ v a s _ => [(0, ra a), (8, rs s), (0x80, rv v)]
  | .ldvg _ _ _ a _ x _ => [(0, ra a), (0x100, rv x)]
  | .stvg _ _ v a x _ => [(0, ra a), (0x80, rv v), (0x100, rv x)]
  | .ldt _ _ t a _ _ _ => [(0, ra a), (0, rtc t)]
  | .stt _ _ t a _ _ | .stt2 _ _ t a _ _ => [(0, ra a), (0, rt t), (0, rtc t)]
  | .amo _ _ d s a _ aop _ _ _ => [(0, ra a), (8, rs s)] ++ if aop = 11 then [(0x10, rs d)] else []
  | .red _ _ s a _ _ _ _ _ => [(0, ra a), (8, rs s)]
  | .cinv _ _ a _ | .cwb _ _ a _ | .pref _ _ a _ => [(0, ra a)]
  | .vadd vd va vb _ m men | .vsub vd va vb _ m men | .vmul vd va vb _ m men | .vmin vd va vb _ m men
  | .vmax vd va vb _ m men | .vand vd va vb _ m men | .vor vd va vb _ m men | .vxor vd va vb _ m men
  | .vshl vd va vb _ m men | .vshr vd va vb _ m men | .vsra vd va vb _ m men | .vperm vd va vb _ m men =>
    [(0, rv va), (0x80, rv vb)] ++ mergeUse vd m men
  | .vfma vd va vb _ m men | .scacc vd va vb m men =>
    [(0, rv va), (0x80, rv vb), (0x100, rv vd)] ++ maskUse m men
  | .vabs vd va _ m men | .vneg vd va _ m men | .vnot vd va _ m men | .vmov vd va _ m men | .vrcp vd va _ m men
  | .vrsq vd va _ m men | .vexp2 vd va _ m men | .vscan vd va _ m men _ | .vcvt vd va _ _ m men _ =>
    [(0, rv va)] ++ mergeUse vd m men
  | .vcmp _ va vb _ m men _ => [(0, rv va), (0x80, rv vb)] ++ maskUse m men
  | .vsel _ va vb _ m => [(0, rv va), (0x80, rv vb), (0x180, rm m)]
  | .vbcast vd s _ m men => [(0, rs s)] ++ mergeUse vd m men
  | .vext _ va sl _ m men => [(0, rv va), (0x80, rs sl)] ++ maskUse m men
  | .vins vd s sl _ m men => [(0, rs s), (0x80, rs sl), (0x100, rv vd)] ++ maskUse m men
  | .vred _ va _ m men _ => [(0, rv va)] ++ maskUse m men
  | .vthr _ va s _ m men | .vtopk _ va s _ m men | .vhist va s _ m men => [(0, rv va), (0x80, rs s)] ++ maskUse m men
  | .vefq _ va vb => [(0, rv va), (0x80, rv vb)]
  | .mand _ ma mb m men | .mor _ ma mb m men | .mxor _ ma mb m men => [(0, rm ma), (0x80, rm mb)] ++ maskUse m men
  | .mnot _ ma m men | .mpopc _ ma m men => [(0, rm ma)] ++ maskUse m men
  | .xexp _ ta fmt => [(0, rt ta), (0, rtc ta)] ++
      if isBlockFmt fmt.toNat then [(0, ⟨.t, ta.toNat + 1⟩)] else []
  | .xtrn _ ta | .xcvt _ ta _ | .xreblk _ ta _ => [(0, rt ta), (0, rtc ta)]
  | .slatch _ v _ => [(0, rv v)]
  | .acwb _ _ p _ | .acadj _ _ p _ => [(0, ⟨.p, p.toNat⟩)] | .mpsld p => [(0, ⟨.p, p.toNat⟩)]
  | .acbwr _ _ v one => [(0, rv v)] ++ if one = 0 then [(0x80, ⟨.v, v.toNat + 1⟩)] else []
  | .cpy a _ | .mcast a _ | .bte a _ | .tld a _ | .tst a _ | .cmpx a _ | .cmpw a _ | .tgath a _ | .tscat a _ | .qfence a _
  | .qpush a _ | .lkbegin a _ | .lkreq a _ | .lkupg a _ | .lkrel a _ | .lkrelall a _ | .coll a _ | .nettx a _ | .netrxp a _
  | .stgrd a _ | .vdec a _ | .pgreq a _ => [(0, ra a)]
  | _ => []

/-- Latency of an element-wise operation by class (R132). -/
def latFI (fmt : BitVec 5) (f i : Nat) : Nat := if fmt.toNat < 3 then f else i

/-- Arrival count of an AMO (R116). -/
def amoArrival (sp : BitVec 2) : Nat := if sp = 0 then 12 else if sp = 2 then 64 else 640

def postInc (pi : BitVec 1) (a : BitVec 5) : List (Reg × Nat) := if pi = 1 then [(ra a, 1)] else []

/-- A tile that a transform unit writes, with its control register and companion (R148, R149). -/
def xfmDefs (td : BitVec 4) (block : Bool) (l : Nat) : List (Reg × Nat) :=
  [(rt td, l), (rtc td, l)] ++ if block then [(⟨.t, td.toNat + 1⟩, l), (⟨.tctl, td.toNat + 1⟩, l)] else []

/-- The registers an instruction writes, each with the cycles from issue to retirement (R51, R54, R132, R148). -/
def defs : Instr → List (Reg × Nat)
  | .call a _ => [(ra a, 1)] | .next s => [(rs s, 4)] | .srd s _ => [(rs s, 2)] | .swr _ n => [(⟨.sys, n.toNat⟩, 1)]
  | .add d _ _ | .sub d _ _ | .and d _ _ | .or d _ _ | .xor d _ _ | .shl d _ _ | .shr d _ _ | .sra d _ _ | .min d _ _
  | .max d _ _ | .minn d _ _ | .maxn d _ _ | .cmpeq d _ _ | .cmplt d _ _ | .cmpltn d _ _ | .addi d _ _ | .andi d _ _
  | .ori d _ _ | .xori d _ _ | .shli d _ _ | .shri d _ _ | .srai d _ _ | .movhi d _ _ => [(rs d, 1)]
  | .sel d _ _ _ => [(rs d, 1)] | .clz d _ | .popc d _ | .movi d _ => [(rs d, 1)]
  | .bfx d _ _ _ _ => [(rs d, 1)] | .bfi d _ _ _ => [(rs d, 1)]
  | .mul d _ _ | .mulh d _ _ => [(rs d, 3)] | .divq d _ _ | .remq d _ _ => [(rs d, 18)]
  | .fadd d _ _ | .fmul d _ _ => [(rs d, 4)] | .fma d _ _ _ => [(rs d, 4)] | .fcvt d _ _ _ _ => [(rs d, 3)]
  | .aadd ad _ _ => [(ra ad, 1)] | .alea ad _ _ _ => [(ra ad, 1)]
  | .amov a dir s => if dir = 0 then [(ra a, 1)] else [(rs s, 1)]
  | .tshape t _ _ _ _ => [(rtc t, 1)] | .mpar p _ => [(⟨.p, p.toNat⟩, 1)]
  | .ld _ _ d a arr _ pi _ => [(rs d, arr.toNat)] ++ postInc pi a
  | .st _ _ _ a _ pi _ => postInc pi a
  | .ldv _ _ v a arr nr _ pi addr =>
    [(rv v, arr.toNat)] ++ (if nr = 1 then [(⟨.m, addr.toNat / 64⟩, arr.toNat)] else []) ++ postInc pi a
  | .stv _ _ _ a _ pi _ => postInc pi a
  | .ldvs _ _ v _ arr _ _ => [(rv v, arr.toNat)] | .ldvg _ _ v _ arr _ _ => [(rv v, arr.toNat)]
  | .ldt _ _ t a arr pi _ => [(rt t, arr.toNat)] ++ postInc pi a
  | .stt _ _ _ a pi _ | .stt2 _ _ _ a pi _ => postInc pi a
  | .amo sp _ d _ _ _ _ _ _ _ => [(rs d, amoArrival sp)]
  | .vadd vd _ _ fmt _ _ | .vsub vd _ _ fmt _ _ => [(rv vd, latFI fmt 4 2)]
  | .vmul vd _ _ fmt _ _ => [(rv vd, latFI fmt 4 3)] | .vfma vd _ _ _ _ _ => [(rv vd, 4)]
  | .vmin vd _ _ _ _ _ | .vmax vd _ _ _ _ _ => [(rv vd, 2)]
  | .vabs vd _ _ _ _ | .vneg vd _ _ _ _ => [(rv vd, 2)]
  | .vand vd _ _ _ _ _ | .vor vd _ _ _ _ _ | .vxor vd _ _ _ _ _ => [(rv vd, 1)] | .vsel vd _ _ _ _ => [(rv vd, 1)]
  | .vnot vd _ _ _ _ | .vmov vd _ _ _ _ => [(rv vd, 1)]
  | .vshl vd _ _ _ _ _ | .vshr vd _ _ _ _ _ | .vsra vd _ _ _ _ _ => [(rv vd, 2)]
  | .vcmp md _ _ _ _ _ _ => [(rm md, 2)]
  | .vbcast vd _ _ _ _ => [(rv vd, 2)] | .vins vd _ _ _ _ _ => [(rv vd, 2)]
  | .vext s _ _ _ _ _ => [(rs s, 3)] | .vperm vd _ _ _ _ _ => [(rv vd, 3)]
  | .vred s _ fmt _ _ fn => [(rs s, if fmt.toNat < 3 ∧ fn = 0 then 10 else 6)]
  | .vscan vd _ _ _ _ _ => [(rv vd, 12)] | .vcvt vd _ _ _ _ _ _ => [(rv vd, 4)]
  | .vrcp vd _ _ _ _ | .vrsq vd _ _ _ _ | .vexp2 vd _ _ _ _ => [(rv vd, 8)]
  | .vthr md _ _ _ _ _ => [(rm md, 3)] | .vtopk md _ _ _ _ _ => [(rm md, 12)]
  | .scacc vd _ _ _ _ => [(rv vd, 4)] | .vefq vd _ vb => [(rv vd, 6), (rv vb, 6)]
  | .mand md _ _ _ _ | .mor md _ _ _ _ | .mxor md _ _ _ _ => [(rm md, 1)] | .mnot md _ _ _ => [(rm md, 1)]
  | .mpopc s _ _ _ => [(rs s, 2)]
  | .xexp td _ fmt => xfmDefs td (isBlockFmt fmt.toNat) 10
  | .xtrn td _ => xfmDefs td false 20
  | .xcvt td _ fmt => xfmDefs td (isBlockFmt fmt.toNat) 12
  | .xreblk td _ _ => xfmDefs td true 28
  | .acbrd _ _ v one => [(rv v, 4)] ++ if one = 0 then [(⟨.v, v.toNat + 1⟩, 4)] else []
  | _ => []

/-- Timed loads and the tile loads, whose destinations SYS.CHKSB.TIMED checks before their arrival (R55, R114). -/
def isLoad : Instr → Bool
  | .ld .. | .ldv .. | .ldvs .. | .ldvg .. | .ldt .. | .amo .. => true
  | _ => false

/-- Landing-buffer entries that an instruction takes (R108). -/
def landingEntries : Instr → Nat
  | .ld .. | .ldv .. | .ldvs .. | .ldvg .. | .amo .. => 1
  | _ => 0

/-- Bytes of a register in the capture area; tiles and their control registers, and system registers, have no place in it (R208). -/
def regBytes (f : RegFile) : Nat :=
  match f with
  | .v => 128 | .m => 16 | .tctl => 0 | .t => 0 | .sys => 0 | _ => 8

/-- The value of a register of the context in flight, as bytes of the capture (R208). -/
def State.regNat (s : State) (r : Reg) : Nat :=
  match r.file with
  | .s => (s.me.sreg r.num).toNat
  | .a => (s.me.areg r.num).toNat
  | .v => (s.me.vreg r.num).toNat
  | .m => (s.me.mreg r.num).toNat
  | .p => (s.me.preg r.num).toNat
  | .tctl => (s.mine.tctlOf r.num).toNat
  | _ => 0

/-- A number's bytes put into a frame. -/
def framePut (f : Tab Byte) (off n x : Nat) : Tab Byte :=
  ((leBytes n x).zipIdx).foldl (fun f p => tabSet 0 f (off + p.2) p.1) f

/-- Whether an instruction captures every parameter register and every tile control register (R208). -/
def capturesParams : Instr → Bool
  | .mcall .. | .acwb .. | .acadj .. | .mpsld .. => true
  | _ => false

/-- The capture of one slot's register operands: from the registers, or, in a slot that was resumed with a capture, the
same captured bytes again (R208, R215). -/
def State.captureSlot (s : State) (f : Tab Byte) (slot : Nat) (i : Instr) : Tab Byte :=
  let places : List (Nat × Nat × Nat) :=
    if capturesParams i then
      ((List.range 8).map fun n => (8 * n, 8, s.regNat ⟨.p, n⟩)) ++
        ((List.range 16).map fun n => (0x40 + 4 * n, 4, s.regNat ⟨.tctl, n⟩))
    else (uses i).map fun u => (u.1, regBytes u.2.file, s.regNat u.2)
  places.foldl (fun f p =>
    let off := slotBase slot + p.1
    if p.2.1 = 0 then f
    else match s.fl.cap with
      | some g => framePut f off p.2.1 (frameNat g off p.2.1)
      | none => framePut f off p.2.1 p.2.2) f

end Sys2Proof.Machine
end

