-- ==== Sys2Proof/Machine/Flags.lean ====
section
/-! DEFINITION. Flags: the sticky flags of SYS.FPSF and the ARITH cause they raise, and the counting flags of a core with
their overflow (R32, R33, R48, R84, R213). -/

namespace Sys2Proof.Machine

def causeArith : Nat := 0x2
def causeFlagOvf : Nat := 0x31

/-- A boundary cause added; ARITH causes pending together are one, with their flags and slots ORed (R213)
(DEDUCED, log entry 84). -/
def addCause (cs : List Cause) (c : Cause) : List Cause :=
  if c.code = causeArith then
    match cs.find? fun d => d.code == causeArith with
    | some _ => cs.map fun d =>
        if d.code = causeArith then { d with detail := d.detail ||| c.detail, smask := d.smask ||| c.smask } else d
    | none => cs ++ [c]
  else cs ++ [c]

/-- Flags ORed into SYS.FPSF of a context, with the ARITH that an enabled one raises; `smask` names the slot (R33, R213). -/
def Ctx.merge (x : Ctx) (flags smask : Nat) : Ctx :=
  let x := { x with fpsf := x.fpsf ||| flags }
  let on := flags &&& x.fpte
  if on = 0 then x else { x with boundary := addCause x.boundary { code := causeArith, detail := on, faddr := 0, smask := smask } }

/-- Flags of the slot in flight merged at its commit (R33). -/
def State.mergeSlot (s : State) (flags : Nat) : State :=
  if flags = 0 then s else s.setMe (s.me.merge flags (2 ^ s.fl.slot))

/-- The commit of a WAIT: one decrement of its flag (R84, R85). -/
def Core.takeFlag (k : Core) (f n : Nat) : Core := { k with flags := tabPut k.flags f (k.flagOf f - n) }

/-- An increment put on its way to a core; it counts from elapsed cycle `at'` on (R84, R87). -/
def State.sendInc (s : State) (core : Nat) (i : Inc) : State :=
  let k := s.core core
  s.setCore core { k with incs := k.incs ++ [i] }

/-- An increment applied: the flag saturates at 65,535 (R84). -/
def Core.giveFlag (k : Core) (f n : Nat) : Core := { k with flags := tabPut k.flags f (min (k.flagOf f + n) 65535) }

/-- Whether an increment passes 65,535 (R84). -/
def Core.overflows (k : Core) (f n : Nat) : Bool := 65535 < k.flagOf f + n

/-- DETAIL of FLAGOVF (R209) (DEDUCED, log entry 25). -/
def flagOvfDetail (core flag : Nat) (kills : Bool) : Nat := core + flag * 2 ^ 8 + if kills then 0 else 2 ^ 13

end Sys2Proof.Machine
end

