-- ==== Sys2Proof/Machine/Port.lean ====
section
/-! DEFINITION. The memory port of a context: which held access may perform, and performing one (R107, R111, R116, R117,
R119, R258, R259, R265, R266, R268, R336, R345, R359, R360). -/

namespace Sys2Proof.Machine

/-- Keys that an access reaches. -/
def opKeys : PortOp → List Nat
  | .load srcs => srcs.filterMap ByteSrc.place
  | .store cells => cells.map (·.1)
  | .amo _ _ srcs _ _ => srcs.filterMap ByteSrc.place
  | .red _ _ _ srcs _ => srcs.filterMap ByteSrc.place
  | .fence _ => []
  | .post .. => []

/-- Two accesses touch a common aligned 4-byte word (R258). -/
def sharesWord (a b : PortOp) : Bool := (opKeys a).any fun k => (opKeys b).any fun j => wordOf k == wordOf j

/-- Whether a pending earlier access keeps a later one from performing (R259, R111, R119); within a bundle a load precedes
a write of its word in every class (R50). -/
def mustPrecede (x y : PortItem) : Bool :=
  x.acq || y.rel || (x.own && y.own)
    || ((x.cls == y.cls || (x.bundle == y.bundle && x.rank < y.rank)) && sharesWord x.op y.op)

/-- The alias classes of a pending FENCE hold an access. -/
def fenceMask (x : PortItem) : Nat :=
  match x.op with
  | .fence m => m
  | _ => 0

def isFence (x : PortItem) : Bool :=
  match x.op with
  | .fence _ => true
  | _ => false

/-- An access is held by a FENCE before it while an access that the FENCE puts first is pending (R119, R259). -/
def heldByFence : List PortItem → List PortItem → PortItem → Bool
  | _, [], _ => false
  | before, x :: t, y =>
    (isFence x && bitOf (fenceMask x) y.cls && before.any fun w => !isFence w && bitOf (fenceMask x) w.cls)
      || heldByFence (before ++ [x]) t y

/-- A FENCE or a post, which is no access itself. -/
def isMark (i : PortItem) : Bool :=
  match i.op with
  | .fence _ => true
  | .post .. => true
  | _ => false

/-- The item at a place of the port may perform; a FENCE goes once no access that it puts first is pending (R119, R293)
(DEDUCED, log entry 18). -/
def canPerform (port : List PortItem) (idx : Nat) : Bool :=
  match port[idx]? with
  | none => false
  | some y =>
    let before := port.take idx
    if isFence y then !before.any fun x => !isMark x && bitOf (fenceMask y) x.cls
    else !(before.any fun x => !isFence x && mustPrecede x y) && !heldByFence [] before y

/-- Where a new access joins the port: after every access of earlier bundles, and within its bundle by rank (R111). -/
def portInsert (y : PortItem) : List PortItem → List PortItem
  | [] => [y]
  | x :: t => if x.bundle = y.bundle ∧ y.rank < x.rank then y :: x :: t else x :: portInsert y t

/-! ### Atomic operations -/

/-- A number read as signed with `n` bytes. -/
def signedOf (n x : Nat) : Int := signExt x (8 * n)

/-- Two BF16 halves of each 32-bit word added, each rounded once (R74, R116). -/
def addHalves : Nat → Nat → Nat → Nat
  | 0, _, _ => 0
  | n + 1, a, b =>
    (narrow (addVal (decodeFloat (a % 65536) 1) (decodeFloat (b % 65536) 1)).val 1 false).val
      + 65536 * addHalves n (a / 65536) (b / 65536)

/-- The new word of an atomic operation on `n` bytes (R116); `cmp` is the value that .cas compares with. -/
def atomicNew (op n m x cmp : Nat) : Nat :=
  let w := 2 ^ (8 * n)
  let m := m % w
  let x := x % w
  match op with
  | 0 => (m + x) % w
  | 1 => m &&& x
  | 2 => m ||| x
  | 3 => m ^^^ x
  | 4 => if signedOf n x < signedOf n m then x else m
  | 5 => if signedOf n m < signedOf n x then x else m
  | 6 => min m x
  | 7 => max m x
  | 8 => (narrow (addVal (decodeFloat m 0) (decodeFloat x 0)).val 0 false).val
  | 9 => addHalves (n / 2) m x
  | 10 => x
  | _ => if m = cmp % w then x else m

/-! ### Errors in data -/

/-- Substitutions counted in a domain (R359) (DEDUCED, log entry 61). -/
def State.countSubst (s : State) (node n : Nat) : State :=
  if n = 0 then s
  else { s with dev := { s.dev with domains := s.dev.domains.map fun (d : Domain) =>
      if d.node = node then { d with subst := min (d.subst + n) (2 ^ 64 - 1) } else d } }

/-- PM that drops writes: a kill has frozen it, or a teardown zeroed it (R238). -/
def State.dropsKey (s : State) (k : Nat) : Bool :=
  match pmCoreOf k with
  | some o => (s.core o).sealed
  | none => false

/-- A 64-bit word all of whose bytes are written holds new data; a write of a part leaves it bad, and one that is dropped changes nothing
(R238, R357) (DEDUCED, log entry 13). -/
def State.unpoison (s : State) (keys : List Nat) : State :=
  if s.dev.poison = [] then s
  else
    let keys := keys.filter fun k => !s.dropsKey k
    { s with dev := { s.dev with poison := s.dev.poison.filter fun w =>
      !((keysFrom (w / 8 * 64 + w % 8) 8).all fun k => keys.contains k) } }

/-! ### L1 copies -/

/-- Locations that L1 caches (R239). -/
def cacheable (k : Nat) : Bool := k % 8 == 0 || k % 8 == 1 || k % 8 == 5

/-- Keys of the bytes of a line. -/
def lineKeys (line : Nat) : List Nat := keysFrom (line / 8 * 1024 + line % 8) 128

/-- The cluster of a core has a fused L1 (R240). -/
def State.fusedAt (s : State) (core : Nat) : Bool := (s.cluster (clusterOf core)).fused

/-- The core whose L1 a line of an access lies in: its own, or in a fused L1 the one whose rank is A[9:7] (R239, R240). -/
def State.l1Core (s : State) (core line : Nat) : Nat := if s.fusedAt core then clusterOf core * 8 + line / 8 % 8 else core

/-- The copy of a line that a core's access meets. -/
def State.copyOf (s : State) (core line : Nat) : List Byte := tabGet [] (s.core (s.l1Core core line)).l1 line

/-- A plain load's byte: the line's copy in L1 may be older than memory, and either may be returned (R266). -/
def State.cachedByte (s : State) (core k : Nat) (old : Bool) : Byte :=
  if !old then s.byte k
  else match s.copyOf core (lineOf k) with
    | [] => s.byte k
    | copy => copy.getD (k / 8 % 128) 0

/-- Whether a plain load meets a copy that differs from memory. -/
def State.stale (s : State) (core : Nat) (keys : List Nat) : Bool :=
  keys.any fun k => cacheable k && match s.copyOf core (lineOf k) with
    | [] => false
    | copy => copy.getD (k / 8 % 128) 0 != s.byte k

/-- Ways of an L1 that cache: those not converted to scratchpad, and all of a fused L1 (R120, R239, R240). -/
def State.cacheWays (s : State) (core : Nat) : Nat := if s.fusedAt core then 16 else 16 - (s.core core).nw

/-- The set of a line in an L1: address bits [13:7]; in a slice of a fused L1, whose lines agree in [9:7], bits [16:10], so that the
eight slices make one cache of 2 MiB (R239, R240) (DESIGN CHOICE, log entry 112). -/
def State.setOf (s : State) (core line : Nat) : Nat := (if s.fusedAt core then line / 64 else line / 8) % 128

/-- A line filled as memory holds it; a full set gives up a line, which one being open (R239) (DESIGN CHOICE, log entry 112). -/
def State.fillLine (s : State) (core line : Nat) : State :=
  let o := s.l1Core core line
  let k := s.core o
  let copy := (lineKeys line).map s.byte
  let rivals := (k.l1.map (·.1)).filter fun l => l != line && s.setOf core l == s.setOf core line
  if s.cacheWays core = 0 then s
  else if rivals.length < s.cacheWays core then s.setCore o { k with l1 := tabPut k.l1 line copy }
  else
    let l1 := match pickOf s.fresh rivals with
      | some l => tabErase k.l1 l
      | none => k.l1
    ({ s with fresh := s.fresh + 1 }).setCore o { k with l1 := tabPut l1 line copy }

/-- Lines of keys filled into L1. -/
def State.fillLines (s : State) (core : Nat) (keys : List Nat) : State :=
  (((keys.filter cacheable).map lineOf).eraseDups).foldl (fun s l => s.fillLine core l) s

/-- The cores whose L1s a core's accesses use (R240). -/
def State.l1Cores (s : State) (core : Nat) : List Nat :=
  if s.fusedAt core then (List.range 8).map (clusterOf core * 8 + ·) else [core]

/-- A copy of a line in which the 64-bit words of keys are as memory holds them. -/
def State.freshCopy (s : State) (keys : List Nat) (p : Nat × List Byte) : Nat × List Byte :=
  (p.1, (p.2.zip (lineKeys p.1)).map fun b => if (keys.map checkWord).contains (checkWord b.2) then s.byte b.2 else b.1)

/-- The 64-bit words of keys in the copies that a core's accesses use become what memory holds: a write of its contexts stands in them, and
never beside an older value of its word (R258, R262). -/
def State.refreshCopies (s : State) (core : Nat) (keys : List Nat) : State :=
  (s.l1Cores core).foldl (fun s o =>
    let k := s.core o
    if k.l1 = [] then s
    else s.setCore o { k with l1 := k.l1.map fun p => if (keys.map lineOf).contains p.1 then s.freshCopy keys p else p }) s

/-- Copies that a test names leave the L1s that a core uses. -/
def State.dropCopies (s : State) (core : Nat) (p : Nat → Bool) : State :=
  (s.l1Cores core).foldl (fun s o =>
    let k := s.core o
    if k.l1 = [] then s else s.setCore o { k with l1 := k.l1.filter fun l => !p l.1 }) s

/-- An acquire at .clu or wider drops the copies (R266) (DEDUCED, log entry 36). -/
def State.dropLines (s : State) (core : Nat) : State := s.dropCopies core fun _ => true

/-! ### Requests to host memory -/

/-- Ordering attributes of the next request: Relaxed Ordering, and ID-Based Ordering, which no rule gives (R338, R344)
(DESIGN CHOICE, log entry 79). -/
def Dev.attr (d : Dev) (relaxed : Bool) : HostAttr := { relaxed := relaxed, ido := Config.sentIdo d.out.length }

/-- The bytes of a write that go to host memory leave the port as a write of their own, with its Relaxed Ordering bit (R344). -/
def State.sendHost (s : State) (relaxed : Bool) (cells : List (Nat × Byte)) : State :=
  let host := cells.filter fun c => c.1 % 8 == 5
  if host = [] then s else { s with dev := { s.dev with out := s.dev.out ++ [.hostWrite (s.dev.attr relaxed) host] } }

/-- The bytes of a read that stand in host memory are asked for by a translated request; its tag and its ordering attributes are open
(R338, R344) (DESIGN CHOICE, log entry 79). -/
def State.askHost (s : State) (keys : List Nat) : State :=
  let host := keys.filter fun k => k % 8 == 5
  let n := s.dev.out.length
  if host = [] then s
  else { s with dev := { s.dev with out := s.dev.out ++ [.hostRead (Config.sentTag n % 1024) (s.dev.attr (Config.sentRo n)) host] } }

/-! ### Reductions at their owning port -/

/-- The lanes of `n` 16-bit halves merged: those of both added, those of one taken (R117, R300). -/
def mergeHalves : Nat → Nat → Nat → Nat → Nat → Nat
  | 0, _, _, _, _ => 0
  | n + 1, la, lb, a, b =>
    (if la % 2 = 0 then b % 65536 else if lb % 2 = 0 then a % 65536 else addHalves 1 (a % 65536) (b % 65536))
      + 65536 * mergeHalves n (la / 2) (lb / 2) (a / 65536) (b / 65536)

/-- A word with a pending entry applied; `m` is what it holds (R117). -/
def RedEntry.applied (e : RedEntry) (m : Nat) : Nat :=
  if e.ordered then e.parts.foldl (fun m p => atomicNew e.op e.bytes m p.2.2 0) m
  else if e.op = 9 then mergeHalves (e.bytes / 2) (2 ^ (e.bytes / 2) - 1) e.lanes m e.acc
  else atomicNew e.op e.bytes m e.acc 0

/-- A pending RED entry put into the array with what its word then holds: the copies of the contributing contexts' cores follow, and a word
of host memory leaves the port (R117, R262, R344). -/
def RedEntry.putIn (e : RedEntry) (x : Nat) (s : State) : State :=
  let t := (e.ctxs.map coreOf).eraseDups.foldl (fun s k => s.refreshCopies k e.keys) (s.pokes (cellsAt e.keys x))
  t.sendHost e.relaxed (cellsAt e.keys x)

/-- A pending RED entry applied to the array (R117). A word of a tolerant page whose data is bad counts as zero (R359); a bad
word of another page stays bad (DEDUCED, log entry 13). -/
def drainEntry (s : State) (e : RedEntry) : State :=
  let bad := e.keys.any s.isBad
  match bad, e.soft with
  | false, _ => e.putIn (e.applied (leNat (e.keys.map s.byte))) s
  | true, some node => (e.putIn (e.applied 0) (s.countSubst node 1)).unpoison e.keys
  | true, none => s

/-- Entries that a test names are drained, in the order in which they were begun. -/
def State.drainRed (s : State) (p : RedEntry → Bool) : State :=
  if s.red = [] then s
  else
    let s' := (s.red.filter p).foldl drainEntry s
    { s' with red := s.red.filter fun e => !p e }

/-- Any access other than a RED to a line drains the line's entries first (R117). -/
def State.touch (s : State) (keys : List Nat) : State :=
  if s.red = [] then s else s.drainRed fun e => keys.any fun k => lineOf k == lineOf e.key

/-- Entries stand on the lines of keys. -/
def State.redOn (s : State) (keys : List Nat) : Bool := s.red.any fun e => keys.any fun k => lineOf k == lineOf e.key

/-- A byte as a read of its line finds it: the entries of the line have drained into it (R117, R265). -/
def State.seen (s : State) (k : Nat) : Byte :=
  if s.red = [] then s.byte k else (s.touch [k]).byte k

/-- Memory as reads find it: with the logged writes and every pending entry applied (R50, R265). -/
def State.readMem (s : State) : Tab Byte :=
  if s.red = [] then commitLog s.mem s.wlog
  else
    let t := s.drainRed fun _ => true
    commitLog t.mem t.wlog

/-- Ordered contributions in ascending source core and issue order (R117). -/
def insertPart (p : Nat × Nat × Nat) : List (Nat × Nat × Nat) → List (Nat × Nat × Nat)
  | [] => [p]
  | q :: t => if p.1 < q.1 ∨ (p.1 = q.1 ∧ p.2.1 < q.2.1) then p :: q :: t else q :: insertPart p t

/-- PM that drops writes drops contributions among them (R238). -/
def State.dropsRed (s : State) (keys : List Nat) : Bool := keys.any s.dropsKey

/-- A contribution as an entry of its own: a BF16 half names the lane it adds to in its 4-byte word (R117, R300). `soft` is the domain
whose tolerant page holds the word, `relaxed` RO of its write to host memory (R344). -/
def State.redEntry (s : State) (c op bytes : Nat) (ordered : Bool) (keys : List Nat) (arg seq : Nat) (soft : Option Nat) (relaxed : Bool) :
    RedEntry :=
  let at0 := keys.headD 0
  let half := bytes = 2
  let lane := if half then at0 / 8 % 4 / 2 else 0
  let key := if half then at0 - 8 * (at0 / 8 % 4) else at0
  let n := if half then 4 else bytes
  let arg := if half then arg % 65536 * 65536 ^ lane else arg
  { key := key, keys := if half then keysFrom key 4 else keys, op := op, bytes := n, ordered := ordered, acc := arg
    lanes := if half then 2 ^ lane else 2 ^ (n / 2) - 1, parts := [(coreOf c, seq, arg)], ctxs := [c], soft := soft, relaxed := relaxed
    born := s.now }

/-- Two entries of which the second merges into the first (R117). -/
def RedEntry.merges (e n : RedEntry) : Bool :=
  e.key == n.key && e.op == n.op && e.bytes == n.bytes && e.ordered == n.ordered && !(n.ordered && 64 ≤ e.parts.length)

/-- An entry with another merged into it (R117). -/
def RedEntry.merge (e n : RedEntry) : RedEntry :=
  { e with acc := if n.op = 9 then mergeHalves (n.bytes / 2) e.lanes n.lanes e.acc n.acc else atomicNew n.op n.bytes e.acc n.acc 0
           lanes := e.lanes ||| n.lanes, parts := n.parts.foldr insertPart e.parts, ctxs := (e.ctxs ++ n.ctxs).eraseDups
           relaxed := e.relaxed && n.relaxed }

/-- An entry stands at the port that owns its word, merged into the word's entry; an entry it cannot merge into drains first (R117). -/
def State.joinRed (s : State) (n : RedEntry) : State :=
  let meets (e : RedEntry) : Bool := n.keys.any fun k => e.keys.any fun j => wordOf k == wordOf j
  match s.red.find? meets with
  | none => { s with red := s.red ++ [n] }
  | some e =>
    if e.merges n then { s with red := s.red.map fun d => if d = e then e.merge n else d }
    else
      let s := s.drainRed meets
      { s with red := s.red ++ [n] }

/-- A contribution of a context, or of a command of it, reaches the port that owns its word (R117, R300). -/
def State.addRed (s : State) (c op bytes : Nat) (ordered : Bool) (keys : List Nat) (arg seq : Nat) (soft : Option Nat)
    (relaxed : Bool := true) : State :=
  let n := s.redEntry c op bytes ordered keys arg seq soft relaxed
  if s.dropsRed n.keys then s else s.joinRed n

/-- Entries that hold a contribution of a context drain: it counts as performed from then on (R117, R118, R262, R265). -/
def State.drainOf (s : State) (c : Nat) : State := s.drainRed fun e => e.ctxs.contains c

/-- Die of a line's home (R249) (DESIGN CHOICE, log entry 10). -/
def homeDie (k : Nat) : Nat :=
  if k % 8 = 0 then (if k / 8 / (48 * 2 ^ 30) < 6 then 0 else 1)
  else if k % 8 = 2 then k / 8 / 2 ^ 20 / 128 else if k % 8 = 4 then k / 8 / 2 ^ 18 / 128
  else if k % 8 = 3 then k / 8 / 2 ^ 23 / 16 else if Config.lineHome (lineOf k) then 1 else 0

/-! ### Units under test and die links -/

/-- Key of a repairable unit among the error records: 0 an SRAM bank, 1 a core's matrix arrays, 2 an HBM pseudo-channel, 3 an STM
channel, 4 a direction of a die link (R356). An SRAM bank is numbered by its core or cluster plus 2^16 times 64 times its structure
plus its place in it: 0 PM, 1 L1, 2 ACM, 3 register files, 4 tile files, 5 MPS, 6 landing buffer, 7 dictionary cache, 8 CSM, 9 L2
(DESIGN CHOICE, log entry 10). -/
def errKey (kind unit : Nat) : Nat := 8 * unit + kind

def sramUnit (owner structure' bank : Nat) : Nat := owner + 2 ^ 16 * (64 * structure' + bank)

/-- A unit is under its targeted self-test (R357). -/
def State.testing (s : State) (kind unit : Nat) : Bool := s.dev.errs.any fun p => p.1 == errKey kind unit && p.2.testing

/-- A unit that stands in a core is under test: the core's clock stops (R357). -/
def State.underTest (s : State) (core : Nat) : Bool :=
  s.dev.errs.any fun p => p.2.testing && (p.1 == errKey 1 core || (p.1 % 8 == 0 && p.1 / 8 % 2 ^ 16 == core && p.1 / 8 / 2 ^ 22 < 8))

/-- The core in whose clock domain a unit stands (R357). -/
def unitCore (kind unit : Nat) : Option Nat :=
  if kind = 1 then some unit else if kind = 0 ∧ unit / 2 ^ 22 < 8 then some (unit % 2 ^ 16) else none

/-- A core's clock domain runs in the present cycle: in as many of every 16 as its duty says (R357, R372). -/
def State.clockRuns (s : State) (core : Nat) : Bool :=
  !s.underTest core && (16 ≤ s.dev.duty || (s.core core).el % 16 < s.dev.duty)

/-- Cycles among the first `n` in which a clock domain of a duty runs (R372). -/
def ranBy (duty n : Nat) : Nat := n / 16 * duty + min (n % 16) duty

/-- A core that had nothing to do has counted on: its elapsed count follows, and its own count grows by the cycles in which its clock
ran (R46, R357, R372; log entry 6). -/
def State.catchUp (s : State) (core : Nat) : State :=
  let k := s.core core
  if s.now ≤ k.el then s
  else
    let n := if k.gate ≠ 0 ∨ s.underTest core then 0
      else if 16 ≤ s.dev.duty then s.now - k.el else ranBy s.dev.duty s.now - ranBy s.dev.duty k.el
    s.setCore core { k with el := s.now, cyc := k.cyc + n }

/-- The counts of a unit's core, and of every core, as they stand before their clocks change. -/
def State.catchUpUnit (s : State) (kind unit : Nat) : State :=
  match unitCore kind unit with
  | some core => s.catchUp core
  | none => s
def State.catchUpAll (s : State) : State := if s.now = 0 then s else (List.range Config.cores).foldl State.catchUp s

/-- The unit that holds a byte is under test, so that an access to it waits (R357). -/
def State.unitBusy (s : State) (k : Nat) : Bool :=
  s.dev.errs != [] &&
    match k % 8 with
    | 2 => s.underTest (k / 8 / 2 ^ 20)
    | 4 => s.underTest (k / 8 / 2 ^ 18)
    | 3 => s.testing 0 (sramUnit (k / 8 / 2 ^ 23) 8 (k / 8 / 128 % 64))
    | n => (n == 0 && s.testing 2 (unitOf k)) || s.testing 0 (sramUnit (Config.l2Bank (lineOf k)).1 9 (Config.l2Bank (lineOf k)).2)

def State.link (s : State) (l : Nat) : Link := tabGet Link.init s.dev.links l
def State.setLink (s : State) (l : Nat) (x : Link) : State := { s with dev := { s.dev with links := tabPut s.dev.links l x } }

/-- Directions of die links that an access from a die crosses: to its line's home on the other die, 0 from CD0 and 1 from CD1, and of
host memory from the home die to the IOD, 2 and 4; 3 and 5 lead from the IOD (R249, R355) (DESIGN CHOICE, log entry 97). -/
def crossing (die k : Nat) : List Nat :=
  (if homeDie k ≠ die then [die] else []) ++ if k % 8 = 5 then [2 + 2 * homeDie k] else []

def crossings (die : Nat) (keys : List Nat) : List Nat := (keys.flatMap (crossing die)).eraseDups

/-- A write of one of the words of keys is being replayed on some link: a read of it waits where the write arrives (R355). -/
def State.replaying (s : State) (keys : List Nat) : Bool :=
  s.dev.links.any fun (p : Nat × Link) => s.dev.clock < p.2.replayUntil
    && p.2.kept.any fun f => p.2.replayFrom ≤ f.1 && keys.any fun k => f.2.contains (wordOf k)

/-- A link that retrains holds what would cross it, and a read of a word whose write is being replayed waits (R355). -/
def State.linkHeld (s : State) (die : Nat) (keys : List Nat) (read : Bool) : Bool :=
  s.dev.links != [] && ((keys.any fun k => (crossing die k).any fun l => (s.link l).retrain) || (read && s.replaying keys))

/-- An access crosses a direction of a link in a flit of its own, kept for a replay; how many flits before it are not yet
acknowledged is open (R355) (DESIGN CHOICE, log entry 97). -/
def State.crossOne (s : State) (l : Nat) (words : List Nat) : State :=
  let x := s.link l
  ({ s with fresh := s.fresh + 1 }).setLink l
    { x with next := x.next + 1, kept := x.kept.drop (x.kept.length - Config.freeNat s.fresh % 512) ++ [(x.next, words)] }

def State.cross (s : State) (die : Nat) (keys : List Nat) (write : Bool) : State :=
  (crossings die keys).foldl (fun s l =>
    s.crossOne l (if write then ((keys.filter fun k => (crossing die k).contains l).map wordOf).eraseDups else [])) s

/-- An access of a core waits on its way: for a die link, or for a unit under test (R355, R357). -/
def State.pathHeld (s : State) (core : Nat) (keys : List Nat) (read : Bool) : Bool :=
  s.linkHeld (dieOf core) keys read || keys.any s.unitBusy

/-! ### Performing -/

/-- The value a load's bytes give its destination. -/
def loadValue (w : RegWrite) (bytes : List Byte) (marks : List ByteSrc) : RegWrite :=
  match w with
  | .s n x =>
    -- the destination's old content holds the size in bytes and the sign of the load
    let size := x.toNat % 16
    let v := leNat (bytes.take size)
    .s n (if x.toNat / 16 = 1 then BitVec.ofInt 64 (signExt v (8 * size)) else BitVec.ofNat 64 v)
  | .v n _ => .v n (BitVec.ofNat 1024 (leNat bytes))
  | .m n _ => .m n (BitVec.ofNat 128 (((marks.zipIdx).map fun p => if p.1 = .absent then 2 ^ p.2 else 0).sum))
  | .tile n runs => .tile n ((runs.foldl (fun (r : List (Nat × List Byte) × List Byte) run =>
      (r.1 ++ [(run.1, r.2.take run.2.length)], r.2.drop run.2.length)) ([], bytes)).1)
  | w => w

/-- An access has performed and its value is fixed; its data has returned with it, but for what returns only in a freeze (R107,
R109, R271). -/
def Ctx.deliver (x : Ctx) (id : Nat) (bytes : List Byte) (srcs : List ByteSrc) : Ctx :=
  { x with pend := x.pend.map fun p =>
      if p.id = id ∧ !p.got then { p with got := true, ready := !p.freeze, w := loadValue p.w bytes srcs } else p }

/-- A load that fails takes no data: its destination keeps its old value, and its landing raises the cause (R345, R360). -/
def Ctx.failLoad (x : Ctx) (id : Nat) (c : Cause) : Ctx :=
  { x with pend := x.pend.map fun p => if p.id = id ∧ !p.got then { p with got := true, ready := !p.freeze, w := .fail c } else p }

/-- The address of a failing byte: in PM, scratchpad or CSM its address of R105, and else its virtual address, found from the
access's translations (R345, R360) (DEDUCED, log entry 93). -/
def failAddr (via : List Trans) (addr k : Nat) : Nat :=
  match k % 8 with
  | 2 => k / 8 / 2 ^ 20 % 8 * 2 ^ 21 + k / 8 % 2 ^ 20
  | 4 => k / 8 / 2 ^ 18 % 8 * 2 ^ 21 + 2 ^ 20 + k / 8 % 2 ^ 18
  | 3 => k / 8 % 2 ^ 23
  | loc =>
    let pa := if loc = 5 then k / 8 % 2 ^ 64 else k / 8
    match via.find? fun t => (if t.loc = 2 then 5 else t.loc) == loc && t.pa ≤ pa && pa < t.pa + t.size,
        via.find? fun t => t.dup && loc == 0 && t.pa2 ≤ pa && pa < t.pa2 + t.size with
    | some t, _ => t.base + (pa - t.pa)
    | none, some t => t.base + (pa - t.pa2)
    | none, none => addr

/-- The cause of an uncorrectable error at a byte, with its DETAIL (R360). -/
def memErr (via : List Trans) (addr k detail : Nat) : Cause :=
  { code := causeMemErr, detail := detail, faddr := failAddr via addr k, smask := 0 }

/-- A byte of a page's other copy as the page's own (R268, R336). -/
def homeKey (t : Trans) (k : Nat) : Nat :=
  if k % 8 = 0 ∧ t.pa2 ≤ k / 8 ∧ k / 8 < t.pa2 + t.size then keyOf (.hbm (t.pa + (k / 8 - t.pa2))) else k

def ByteSrc.home (t : Trans) : ByteSrc → ByteSrc
  | .key k => .key (homeKey t k)
  | .cell k b => .cell (homeKey t k) b
  | b => b

/-- A pending load of a page's other copy reads the page itself from now on (R268). -/
def PortItem.home (t : Trans) (i : PortItem) : PortItem :=
  match i.op with
  | .load srcs => if i.via.any fun u => u.entry == t.entry then { i with op := .load (srcs.map (ByteSrc.home t)) } else i
  | _ => i

def Ctx.home (t : Trans) (x : Ctx) : Ctx := { x with port := x.port.map (PortItem.home t) }

/-- A read-duplicated page is demoted: its entry loses DUP, its translations go, and loads that have not performed read the one
copy left (R268, R336). -/
def State.demotePage (s : State) (t : Trans) : State :=
  let b := s.byte t.entry
  let s := s.poke t.entry (b &&& ~~~(0x40 : Byte))
  { s with tlb := s.tlb.filter fun u => u.entry ≠ t.entry
           ctxs := s.ctxs.map fun p => (p.1, p.2.home t) }

/-- The leaf of a translation still maps its page as read-duplicated. -/
def State.stillDup (s : State) (t : Trans) : Bool :=
  let e := readLe s.byte t.entry 8
  t.dup && t.loc == 0 && bitOf e 0 && bitOf e 6 && bits e 16 36 * 2 ^ 16 == t.pa

/-- A write through translations demotes the read-duplicated pages that it reaches (R336, R268). -/
def State.demote (s : State) (via : List Trans) (keys : List Nat) : State :=
  (via.filter fun t => t.dup && keys.any fun k => k % 8 == 0 && t.pa ≤ k / 8 && k / 8 < t.pa + t.size).foldl
    (fun s t => if s.stillDup t then s.demotePage t else s) s

/-- Cells written: pending reductions of their lines drain first. Scratchpad bytes outside the converted ways drop writes, as for a
drain whose ways have left (R117, R170) (DEDUCED, log entry 13). -/
def State.storeCells (s : State) (cells : List (Nat × Byte)) : State :=
  let keys := cells.map (·.1)
  ((s.touch keys).unpoison keys).pokes cells

/-- Cells written through translations (R336); `relaxed` is RO of what leaves for the host (R344). -/
def State.storeVia (s : State) (via : List Trans) (cells : List (Nat × Byte)) (relaxed : Bool := true) : State :=
  ((s.demote via (cells.map (·.1))).storeCells cells).sendHost relaxed cells

/-- The first byte of an access that lies in the range of a removed stack or STM channel (R367). -/
def State.firstGone (s : State) (keys : List Nat) : Option Nat :=
  if s.dev.stacksGone = 0 ∧ s.dev.channelsGone = 0 then none else keys.find? s.rangeGone

/-- A write to the range of a removed unit is dropped, and its context takes MEMERR at its next boundary (R367)
(DEDUCED, log entry 77). -/
def State.failWrite (s : State) (c : Nat) (i : PortItem) (k : Nat) : State :=
  let x := s.ctx c
  s.setCtx c { x with boundary := addCause x.boundary (memErr i.via i.addr k (5 + unitOf k * 256)) }

/-- Increments posted by one context to one flag are applied in issue order: a later one counts no earlier (R87). -/
def State.postAt (s : State) (core flag ctx at' : Nat) : Nat :=
  (s.core core).incs.foldl (fun m i => if i.flag = flag ∧ i.ctx = ctx ∧ i.kills then max m i.at' else m) at'

/-- A read asks for what stands in host memory (R344) and counts its substitutions (R359), and an acquire at .clu or wider drops the copies
in L1 (R266). -/
def State.meet (s : State) (c : Nat) (i : PortItem) (srcs : List ByteSrc) : State :=
  let s := (s.askHost (opKeys i.op)).countSubst (s.ctx c).node (s.softGranules srcs).length
  if i.acq ∧ 2 ≤ i.scope then s.dropLines (coreOf c) else s

/-- A load finds its bytes, where L1 has an older copy in it or in memory, and leaves the lines in L1 (R266). -/
def State.landLoad (s : State) (c : Nat) (i : PortItem) (srcs : List ByteSrc) (choice : Bool) : State :=
  let core := coreOf c
  let old := choice && Config.freeBool s.fresh
  let bytes := s.goodBytes (fun k => s.cachedByte core k old) srcs
  let s := if choice then { s with fresh := s.fresh + 1 } else s
  let s := if old then s else s.fillLines core (opKeys i.op)
  s.setCtx c ((s.ctx c).deliver i.id bytes srcs)

/-- A store's bytes are stored; a store for the host is sent on, but for a release of system scope (R341). -/
def State.landStore (s : State) (c : Nat) (i : PortItem) (cells : List (Nat × Byte)) : State :=
  (s.storeVia i.via cells !(i.rel && i.scope == 5)).refreshCopies (coreOf c) (cells.map (·.1))

/-- One access of context `c` performs (R258). A release follows the context's reductions, which drain first, and so does what a FENCE
holds (R119, R262, R265); a plain load that drains its line follows what drained (R265) (DEDUCED, log entries 18, 36). -/
def State.perform (s : State) (c : Nat) (i : PortItem) : State :=
  let s := if i.rel then s.drainOf c else s
  match i.op with
  | .load srcs =>
    let drains := s.redOn (opKeys i.op)
    let s := s.touch (opKeys i.op)
    match s.firstHard srcs with
    | some (k, detail) => s.setCtx c ((s.ctx c).failLoad i.id (memErr i.via i.addr k detail))
    | none =>
      let s := s.meet c i srcs
      s.landLoad c i srcs (!i.acq && !drains && s.stale (coreOf c) (opKeys i.op))
  | .store cells => match s.firstGone (opKeys i.op) with
    | some k => s.failWrite c i k
    | none => s.landStore c i cells
  | .amo op n srcs arg cmp =>
    let keys := opKeys i.op
    let s := s.touch keys
    match s.firstHard srcs with
    | some (k, detail) => s.setCtx c ((s.ctx c).failLoad i.id (memErr i.via i.addr k detail))
    | none =>
      let s := s.meet c i srcs
      let m := leNat (s.goodBytes s.byte srcs)
      let s := s.landStore c i (cellsAt keys (atomicNew op n m arg cmp))
      s.setCtx c ((s.ctx c).deliver i.id (leBytes n m) (keys.map .key))
  | .red op n ordered srcs arg =>
    let soft := srcs.any fun b => match b with
      | .cell _ _ => true
      | _ => false
    match s.firstGone (opKeys i.op) with
    | some k => s.failWrite c i k
    | none => (s.demote i.via (opKeys i.op)).addRed c op n ordered (opKeys i.op) arg i.id (if soft then some (s.ctx c).node else none)
        !(i.rel && i.scope == 5)
  | .fence _ => s.drainOf c
  | .post k f n near =>
    let x := s.ctx c
    let t := (s.core k).el
    let d := if near then 1 else 1 + Config.freeNat s.fresh % 24
    let s := if near then s else { s with fresh := s.fresh + 1 }
    s.sendInc k { at' := s.postAt k f c (t + d), flag := f, n := n, node := x.node, ctx := c, inst := x.inst, kills := true }

/-- An access to the core's own PM or scratchpad by another context of the core stands before this one: they perform in
the core's issue order (R259). -/
def State.ownWaits (s : State) (c : Nat) (i : PortItem) : Bool :=
  i.own && (List.range 4).any fun j =>
    let d := c / 4 * 4 + j
    d != c && (s.ctx d).port.any fun y => y.own && y.id < i.id

/-- Banks of PM that a BANKLK holds keep every access waiting but those of the owning core's own bundles, which `own` names
(R88) (DEDUCED, log entry 38). -/
def State.bankHeld (s : State) (own : Option Nat) (keys : List Nat) : Bool :=
  keys.any fun k => match pmCoreOf k with
    | some o => own != some o && (List.range 4).any fun j => match (s.ctx (4 * o + j)).bank with
        | some (b, n, _) => (k / 8 / 32 % 32 + 32 - b) % 32 < n
        | none => false
    | none => false

/-- A release waits for the write-backs of maps that its context left in its bundle or an earlier one (R111, R233). -/
def Ctx.wbHolds (x : Ctx) (i : PortItem) : Bool :=
  i.rel && x.wbacks.any fun w => match w.advanced with
    | some b => b ≤ i.bundle
    | none => false

/-- An access that reads memory. -/
def PortOp.reads : PortOp → Bool
  | .load _ => true
  | .amo .. => true
  | _ => false

/-- An access that writes memory. -/
def PortOp.writes : PortOp → Bool
  | .store _ => true
  | .amo .. => true
  | .red .. => true
  | _ => false

/-- The access at a place of a context's port may perform now. -/
def State.portReady (s : State) (c idx : Nat) : Bool :=
  let x := s.ctx c
  match x.port[idx]? with
  | none => false
  | some i => canPerform x.port idx && !x.wbHolds i && !s.ownWaits c i && !s.bankHeld (some (coreOf c)) (opKeys i.op)
      && !s.pathHeld (coreOf c) (opKeys i.op) i.op.reads

/-- The access at a place of a context's port performs, if it may; else nothing does. -/
def State.performAt (s : State) (c idx : Nat) : State :=
  let x := s.ctx c
  match x.port[idx]? with
  | none => s
  | some i =>
    if s.portReady c idx then
      let s := s.setCtx c { x with port := x.port.eraseIdx idx }
      (s.cross (dieOf (coreOf c)) (opKeys i.op) i.op.writes).perform c i
    else s

/-- Accesses of a core's contexts to its own memory, each with its context, in issue order. -/
def State.ownItems (s : State) (core : Nat) : List (Nat × Nat) :=
  ((List.range 4).flatMap fun j =>
    ((s.ctx (4 * core + j)).port.filter (·.own)).map fun i => (i.id, 4 * core + j)).foldr insertOwn []
where
  /-- Put by number. -/
  insertOwn (p : Nat × Nat) : List (Nat × Nat) → List (Nat × Nat)
    | [] => [p]
    | q :: t => if p.1 < q.1 then p :: q :: t else q :: insertOwn p t

/-- Everything that must perform before an access with a number does, and then it does, as far as no other agent holds it
(R259). -/
def State.force : Nat → State → Nat → Nat → State
  | 0, s, _, _ => s
  | fuel + 1, s, c, id =>
    match (s.ctx c).port.findIdx? fun i => i.id == id with
    | none => s
    | some n =>
      let port := (s.ctx c).port
      let s := (port.take n).foldl (fun s i => State.force fuel s c i.id) s
      let s := if (port[n]?.map (·.own)) = some true then
          ((s.ownItems (coreOf c)).filter fun p => p.1 < id && p.2 != c).foldl (fun s p => State.force fuel s p.2 p.1) s
        else s
      match (s.ctx c).port.findIdx? fun i => i.id == id with
      | none => s
      | some m => s.performAt c m

/-- Accesses in the ports of a core. -/
def State.portCount (s : State) (core : Nat) : Nat := ((List.range 4).map fun j => (s.ctx (4 * core + j)).port.length).sum

/-- The access with a number performs, after what must precede it. -/
def State.performThrough (s : State) (c id : Nat) : State := State.force (s.portCount (coreOf c) + 1) s c id

/-- Every access of a context's port performs that no other agent holds, in an order that the rules allow
(DEDUCED, log entry 37). -/
def State.performAll (s : State) (c : Nat) : State := ((s.ctx c).port.map (·.id)).foldl (fun s id => s.performThrough c id) s

/-- The first accesses of a port perform, in order, as far as they may. -/
def State.performFirst (s : State) (c : Nat) : Nat → State
  | 0 => s
  | n + 1 => if s.portReady c 0 then State.performFirst (s.performAt c 0) c n else s

/-- A FENCE or a post at the head of the port waits for nothing (R87, R119). -/
def State.settle (s : State) (c : Nat) : State :=
  s.performFirst c ((s.ctx c).port.takeWhile isMark).length

/-- An access to own memory whose value is fixed now: its own bytes are read, and what is left no longer stands in the core's
issue order (R107, R259). -/
def PortItem.readOwn (s : State) (core : Nat) (i : PortItem) : PortItem :=
  match i.op with
  | .load srcs =>
    { i with own := false
             op := .load (srcs.map fun b => match b with
               | .key k => if ownCoreOf k = some core && !s.isBad k then .const (s.byte k) else b
               | b => b) }
  | _ => i

/-- Loads of a core's own memory that nothing holds read it before a later own access performs, in the core's issue order
(R259). -/
def State.settleOwn (s : State) (core : Nat) : State :=
  (s.ownItems core).foldl (fun s p =>
    let x := s.ctx p.2
    match x.port.findIdx? fun i => i.id == p.1 with
    | none => s
    | some n => match x.port[n]? with
      | none => s
      | some i => match i.op with
        | .load _ =>
          if s.portReady p.2 n then
            let s := s.touch (opKeys i.op)
            s.setCtx p.2 { x with port := x.port.set n (i.readOwn s core) }
          else s
        | _ => s) s

/-- Own-memory accesses of a core's contexts with a number below a bound perform, as far as nothing holds them (R264). -/
def State.ownBefore (s : State) (core mark : Nat) : State :=
  ((s.ownItems core).filter fun p => p.1 < mark).foldl (fun s p => s.performThrough p.2 p.1) s

/-- Own-memory accesses of a core's contexts with a number below a bound are left: what follows them has to wait (R204, R264). -/
def State.ownLeft (s : State) (core mark : Nat) : Bool := (s.ownItems core).any fun p => p.1 < mark

/-! ### Translations taken -/

/-- A translation entered into the caches of its core, its cluster and its die; only resident leaves are held. The entries that the walk
read have drained what stood on their lines (R265, R330) (DESIGN CHOICE, log entry 19). -/
def State.fill (s : State) (t : Trans) : State :=
  let s := (s.cacheHost t).touch (t.entry :: t.path.map (·.1))
  if 256 ≤ t.holder then s
  else
    let u := { t with holder := clusterHolder t.holder }
    ((s.hold t 64 fun _ => true).hold u 8 fun x => Config.cacheSet x.base % 128 == Config.cacheSet t.base % 128).keepPath
      (dieOf t.holder) t.path

def State.fills (s : State) (ts : List Trans) : State := ts.foldl State.fill s

/-! ### Whole reads and writes -/

/-- The cause of the error that a read of translated bytes meets, as a fault of an access (R360). -/
def State.hardFault (s : State) (via : List Trans) (addr : Nat) (srcs : List ByteSrc) : Option AFault :=
  (s.firstHard srcs).map fun e =>
    { code := causeMemErr, detail := e.2, faddr := failAddr via addr e.1, line := 0, mig := false }

/-- The fault of a write that reaches the range of a removed unit (R367). -/
def State.goneFault (s : State) (via : List Trans) (addr : Nat) (keys : List Nat) : Option AFault :=
  (s.firstGone keys).map fun k =>
    { code := causeMemErr, detail := 5 + unitOf k * 256, faddr := failAddr via addr k, line := 0, mig := false }

/-- The bytes of a read of a space, or the fault met; reductions of its lines have drained into them (R265, R359, R360). -/
def readVirtual (s : State) (sp : Space) (die va n : Nat) : Except AFault (List Byte) :=
  match placeVirtual s s.seen sp die 3 .read false va n with
  | .error e => .error e
  | .ok (srcs, ts) => match s.hardFault ts va srcs with
    | some e => .error e
    | none => .ok (s.goodBytes s.seen srcs)

/-- The state after a read of a space: translations stand in caches, the lines' reductions have drained, host memory has been asked, and
substitutions are counted (R117, R330, R344, R359). -/
def State.afterRead (s : State) (sp : Space) (die va n : Nat) : State :=
  match placeVirtual s s.seen sp die 3 .read false va n with
  | .error _ => s
  | .ok (srcs, ts) =>
    let s := ((s.fills ts).touch (srcs.filterMap ByteSrc.place)).askHost (srcs.filterMap ByteSrc.place)
    if sp.id = 0 then s else s.countSubst (sp.id - 1) (s.softGranules srcs).length

/-- Writes bytes at a virtual address; the fault where the range does not translate or is not writable. -/
def writeVirtual (s : State) (sp : Space) (die va : Nat) (bytes : List Byte) (relaxed : Bool := true) : Except AFault State :=
  match placeVirtual s s.seen sp die 3 .write false va bytes.length with
  | .error e => .error e
  | .ok (srcs, ts) =>
    let cells := cellsOf srcs bytes
    match s.goneFault ts va (cells.map (·.1)) with
    | some e => .error e
    | none =>
      let s := (s.fills ts).storeVia ts cells relaxed
      .ok (if sp.agent < 256 then s.refreshCopies sp.agent (cells.map (·.1)) else s)

end Sys2Proof.Machine
end

