-- ==== Sys2Proof/Machine/Record.lean ====
section
/-! DEFINITION. Trap records and trap queues, and the outcome record of a fault domain (R210, R361 to R364, R369). -/

namespace Sys2Proof.Machine

/-- A byte of the MSI-X table: a vector is masked until its table entry says otherwise (R339) (PRESUMED, log entry 96). -/
def Dev.tableByte (d : Dev) (i : Nat) : Byte := tabGet (if i % 16 = 12 then 1 else 0) d.bar0 i

/-- A message-signalled interrupt of a vector: one that is masked stays pending (R339) (PRESUMED, log entry 96). -/
def Dev.interrupt (d : Dev) (v : Nat) : Dev :=
  if (d.tableByte (16 * v + 12)).toNat % 2 = 1 then { d with pba := d.pba ||| 2 ^ v } else { d with out := d.out ++ [.msi v] }

/-- An interrupt for an event: 0 mailbox, 1 traps of a domain, 2 hang, 3 power (R370) (DESIGN CHOICE, log entry 57). -/
def State.signal (s : State) (event node : Nat) : State :=
  match s.dev.vectors.find? fun v => v.1 == event && (event != 1 || v.2.1 == node) with
  | some v => { s with dev := s.dev.interrupt v.2.2 }
  | none => s

/-- Class of a cause (R209): 0 program, 1 replayable, 2 fatal. -/
def classOf (code : Nat) : Nat := if code < 0x10 then 0 else if code < 0x20 then 1 else 2

/-- Word 0 of a trap record (R210). -/
def recordWord0 (phase ctx code smask sres : Nat) (lit capv : Bool) (qid : Nat) : Nat :=
  code + qid * 2 ^ 16 + (if capv then 2 ^ 26 else 0) + (if lit then 2 ^ 27 else 0) + sres * 2 ^ 28 + smask * 2 ^ 32
    + classOf code * 2 ^ 44 + ctx * 2 ^ 46 + phase * 2 ^ 56

/-- Words 0 to 4 of a trap record (R210). -/
structure Record where
  phase : Nat
  ctx : Nat
  code : Nat
  smask : Nat
  sres : Nat
  lit : Bool
  capv : Bool
  qid : Nat
  epc : Nat
  gen : Nat
  faddr : Nat
  detail : Nat
  deriving DecidableEq, Repr

def recordWords (r : Record) : List Nat :=
  [recordWord0 r.phase r.ctx r.code r.smask r.sres r.lit r.capv r.qid, r.epc, r.gen, r.faddr % 2 ^ 64, r.detail % 2 ^ 64]

def wordsBytes (ws : List Nat) : List Byte := ws.flatMap fun w => leBytes 8 w

/-- Trap-queue base of a domain: that of the launches that carry it, else the node's own word (R305, R306). -/
def State.tqBase (s : State) (node : Nat) : Nat :=
  match s.dev.launches.find? fun p => p.2.node == node with
  | some p => p.2.tqbase
  | none => match readVirtual s s.mgmtSpace 0 (node + 16) 8 with
    | .ok bs => leNat bs % 2 ^ 57
    | .error _ => 0

/-! ### The outcome record -/

def queueOf (k : Core) (q : Nat) : Queue := tabGet Queue.init k.queues q

def u32 (n : Nat) : List Byte := leBytes 4 n

/-- One engine queue of an outcome core entry (R364). -/
def outcomeQueue (q : Queue) : List Byte :=
  leBytes 8 ((q.last.getD 0) % 2 ^ 32 + (if q.last = none then 2 ^ 32 else 0) + (if q.halted.isSome then 2 ^ 33 else 0))
    ++ leBytes 8 (if q.halted.isSome then (q.cmds.head?.map (·.moved)).getD 0 else 0)

/-- Bytes delivered by a copy channel (R364). -/
def channelCount (q : Queue) : Nat :=
  match q.cmds with
  | c :: _ => c.moved
  | [] => q.lastLen

/-- A context's preparation in an outcome core entry (R364). -/
def outcomePrep (x : Ctx) : Nat :=
  (match x.prep with
    | some p => if p.stage < 2 then p.reached % 64 + p.map % 16 * 2 ^ 6 + 2 ^ 31 else 0
    | none => 0) + if x.wbacks ≠ [] then 2 ^ 10 else 0

/-- The 512 bytes of an outcome core entry (R364). -/
def outcomeCore (s : State) (k : Nat) : List Byte :=
  let c := s.core k
  leBytes 8 (k + if c.frozen then 256 else 0)
    ++ (List.range 20).flatMap (fun q => outcomeQueue (queueOf c q))
    ++ (List.range 32).flatMap (fun f => leBytes 2 (c.flagOf f))
    ++ (List.range 4).flatMap (fun q => u32 (channelCount (queueOf c q)))
    ++ (List.range 4).flatMap (fun i => u32 (outcomePrep (s.ctx (4 * k + i))))
    ++ List.replicate 88 0

/-- Cores that an outcome record covers: with a context of the domain bound, or a command of it not completed (R364). -/
def outcomeCores (s : State) (node : Nat) : List Nat :=
  (List.range Config.cores).filter fun k =>
    ((List.range 4).any fun i => let x := s.ctx (4 * k + i); x.mode ≠ .unbound && x.node == node)
      || (s.core k).queues.any fun q => q.2.cmds.any fun c => c.node == node

/-- PIDX of a domain's trap queue (R361) (DEDUCED, log entry 67). -/
def State.recordsWritten (s : State) (node : Nat) : Nat := ((s.domain node).map (·.pidx)).getD 0

/-- The IOD writes the outcome record of a domain (R364); what does not translate is not written. -/
def State.writeOutcome (s : State) (node : Nat) : State :=
  let tq := s.tqBase node
  let sp := s.space node
  let cores := outcomeCores s node
  let pidx := s.recordsWritten node
  let subst := ((s.domain node).map (·.subst)).getD 0
  let head := wordsBytes [cores.length, subst, pidx, 0, 0, 0, 0, 0]
  match writeVirtual s sp 0 (tq + 0x4040) (head ++ cores.flatMap (outcomeCore s)) with
  | .ok s => s
  | .error _ => s

/-! ### Trap queues -/

/-- Records pending, a consumer index out of range counting as 256 (R361, R362). -/
def pendingRecords (pidx cidx : Nat) : Nat := min ((pidx + 2 ^ 32 - cidx % 2 ^ 32) % 2 ^ 32) 256

/-- A counter of lost records grows, saturating at 2^32 − 1 (R361, R369). -/
def satInc32 (n : Nat) : Nat := min (n + 1) (2 ^ 32 - 1)

/-- A count of a domain's trap queue changes (R361, R362) (DEDUCED, log entry 67). -/
def State.countTrap (s : State) (node : Nat) (f : Domain → Domain) : State :=
  { s with dev := { s.dev with domains := s.dev.domains.map fun d => if d.node = node then f d else d } }

/-- A record that finds no room is counted, in ROVF or FOVF (R362). -/
def State.dropRecord (s : State) (node : Nat) (fatal : Bool) (cbs : List ByteSrc) (cts : List Trans) : State :=
  let count := satInc32 (((s.domain node).map fun d => if fatal then d.fovf else d.rovf).getD 0)
  (s.countTrap node fun d => if fatal then { d with fovf := count } else { d with rovf := count }).storeVia cts
    (cellsOf (cbs.drop (if fatal then 12 else 8)) (u32 count)) false

/-- A record written is counted in PIDX, and its vector signalled (R361). -/
def State.sayRecord (s : State) (node pidx : Nat) (cbs : List ByteSrc) (cts : List Trans) : State :=
  ((s.countTrap node fun d => { d with pidx := (pidx + 1) % 2 ^ 32 }).storeVia cts (cellsOf cbs (u32 (pidx + 1))) false).signal 1 node

/-- A trap record written to the queue of a fault domain, with what became of it; where it is not written, the counter of
R362 or R369 grows instead. -/
def State.writeTrap (s : State) (node wq prog : Nat) (r : Record) : State × Told :=
  let fatal := classOf r.code == 2
  let tq := s.tqBase node
  let sp := s.space node
  let cb := tq + 0x4000
  let lost : State × Told :=
    ({ s with dev := { s.dev with tqlost := satInc32 s.dev.tqlost, tqlostBase := tq } }, .unwritable)
  match placeVirtual s s.seen sp 0 3 .write false cb 16 with
  | .error _ => lost
  | .ok (cbs, cts) =>
    let s := s.fills cts
    let pidx := s.recordsWritten node
    let pend := pendingRecords pidx (bits (srcsNat s.seen cbs) 32 32)
    if pend ≥ (if fatal then 256 else 255) then (s.dropRecord node fatal cbs cts, .full)
    else match placeVirtual s s.seen sp 0 3 .write false (tq + 64 * (pidx % 256)) 64 with
      | .error _ => (s.dropRecord node fatal cbs cts, .unwritable)
      | .ok (slot, sts) =>
        let s := ((s.fills sts).storeVia sts (cellsOf slot (wordsBytes (recordWords r ++ [pidx + wq * 2 ^ 32, prog, 1]))) false).sayRecord
          node pidx cbs cts
        (if fatal then s.writeOutcome node else s, .written)

/-- The hardware work queue of a context's launch (R361). -/
def State.wqOf (s : State) (c : Nat) : Nat := ((s.launchOf c).map (·.queue)).getD 0

end Sys2Proof.Machine
end

