-- ==== Sys2Proof/Machine/Access.lean ====
section
/-! DEFINITION. The accesses of the MEM slots: effective address, alignment and translation of every form, made at the read
phase (R72, R104 to R106, R112 to R116). -/

namespace Sys2Proof.Machine

/-- Scratchpad ways of a core as the read phase of the bundle found them. -/
def State.waysAt (s : State) (core : Nat) : Nat := if core = s.myCore then s.fl.nw else (s.core core).nw

/-- What the context in flight translates through. -/
def State.myView (s : State) : View := s.view s.fl.ctx s.fl.map

/-- A range translated at the read phase of the bundle in flight (R106). -/
def State.placeMine (s : State) (sp : Nat) (acc : Acc) (tolerant : Bool) (ea n : Nat) : Placed :=
  place s s.byte0 s.myView s.waysAt sp acc tolerant ea n

def alignFault (sp : Nat) (acc : Acc) (ea : Nat) : Placed :=
  .error { code := causeAlign, detail := accDetail sp acc, faddr := ea, line := 0, mig := false }

/-- A range checked for alignment and then translated (R106). -/
def State.placeAligned (s : State) (sp : Nat) (acc : Acc) (tolerant : Bool) (unit ea n : Nat) : Placed :=
  if ea % unit ≠ 0 then alignFault sp acc ea else s.placeMine sp acc tolerant ea n

/-- Parts of an access, each translated, in order (DEDUCED, log entry 85). -/
def State.placeParts (s : State) (sp : Nat) (acc : Acc) (unit : Nat) (parts : List (Nat × Nat)) : Placed :=
  match parts.find? fun p => p.1 % unit ≠ 0 with
  | some p => alignFault sp acc p.1
  | none => parts.foldl (fun r p => appendPlaced r (s.placeMine sp acc false p.1 p.2)) (.ok ([], []))

/-- Bytes and sign of SZ (R72). -/
def szBytes (sz : Nat) : Nat :=
  match sz with
  | 0 => 1 | 1 => 2 | 2 => 4 | 3 => 8 | 4 => 1 | 5 => 2 | _ => 4
def szSigned (sz : Nat) : Bool := 3 ≤ sz

/-- A base plus a signed offset in units, wrapped to 64 bits (R104). -/
def addOffset (base off bitsN unit : Nat) : Nat := wrapInt ((base : Int) + signExt off bitsN * unit) 64

/-- Effective address of a contiguous form (R104): `moved` is the address with its offset. -/
def effective (ord pi : Nat) (base moved : Nat) : Nat := if ord = 1 then base else if pi = 0 then moved else base

/-- Address with its offset, of LD and ST. -/
def ldMoved (base : Nat) (addr : BitVec 10) : Nat := addOffset base (addr.toNat % 128) 7 (szBytes (addr.toNat / 128))
/-- Address with its offset, of LDV. -/
def ldvMoved (base : Nat) (nr : BitVec 1) (addr : BitVec 10) : Nat :=
  if nr = 1 then addOffset base (addr.toNat % 64) 6 128 else addOffset base addr.toNat 10 128
/-- Address with its offset, of the other forms. -/
def vecMoved (base : Nat) (off : BitVec 10) : Nat := addOffset base off.toNat 10 128

/-- Element addresses of a strided form (R113). -/
def strided (base stride esz : Nat) : List (Nat × Nat) :=
  (List.range (128 / 2 ^ esz)).map fun (j : Nat) => (wrapInt ((base : Int) + (j : Int) * signExt stride 64) 64, 2 ^ esz)

/-- Element addresses of a gathered form (R113). -/
def gathered (base index esz : Nat) : List (Nat × Nat) :=
  (List.range (min 32 (128 / 2 ^ esz))).map fun j => (wrapInt ((base : Int) + signExt (elemAt index 32 j) 32) 64, 2 ^ esz)

/-- Rows of a tile at a pitch of 128 bytes (R114). -/
def tileRows (ea : Nat) (tc : BitVec 32) : List (Nat × Nat) :=
  (List.range (tcRows tc + 1)).map fun r => ((ea + 128 * r) % 2 ^ 64, tcBpr tc + 1)

/-- Element width in bytes of the formats STT2 accepts; 0 for any other (R115). -/
def stt2Width (fmt : Nat) : Nat :=
  if fmt = 0 ∨ fmt = 19 ∨ fmt = 23 then 4 else if fmt = 1 ∨ fmt = 2 ∨ fmt = 18 ∨ fmt = 22 then 2
  else if fmt = 3 ∨ fmt = 4 ∨ fmt = 17 ∨ fmt = 21 then 1 else 0

/-- Rows of the transposed copy (R115). -/
def turnedRows (ea : Nat) (tc : BitVec 32) : List (Nat × Nat) :=
  let w := stt2Width (tcFmt tc)
  (List.range ((tcBpr tc + 1) / w)).map fun j => ((ea + 16384 + 128 * j) % 2 ^ 64, (tcRows tc + 1) * w)

/-- The shape and format that STT2 rejects (R115). -/
def stt2Bad (tc : BitVec 32) : Bool :=
  let w := stt2Width (tcFmt tc)
  w == 0 || 128 < (tcRows tc + 1) * w || (tcBpr tc + 1) % w != 0

def causeTileFmt : Nat := 0x27

/-- The bytes that a MEM instruction reaches, with the fault it meets at its read phase; none for the forms that reach no
memory (R104 to R106, R112 to R116). -/
def State.plan (s : State) : Instr → Option Placed
  | .ld sp _ _ a _ ord pi addr =>
    let b := s.opA 0 a.toNat
    let n := szBytes (addr.toNat / 128)
    some (s.placeAligned sp.toNat .read false n (effective ord.toNat pi.toNat b (ldMoved b addr)) n)
  | .st sp _ _ a ord pi addr =>
    let b := s.opA 0 a.toNat
    let n := szBytes (addr.toNat / 128)
    some (s.placeAligned sp.toNat .write false n (effective ord.toNat pi.toNat b (ldMoved b addr)) n)
  | .ldv sp _ _ a _ nr ord pi addr =>
    let b := s.opA 0 a.toNat
    some (s.placeAligned sp.toNat .read (nr == 1) 32 (effective ord.toNat pi.toNat b (ldvMoved b nr addr)) 128)
  | .stv sp _ _ a ord pi addr =>
    let b := s.opA 0 a.toNat
    some (s.placeAligned sp.toNat .write false 32 (effective ord.toNat pi.toNat b (vecMoved b addr)) 128)
  | .ldvs sp _ _ a _ r esz =>
    let b := s.opA 0 a.toNat
    some (if b % 32 ≠ 0 then alignFault sp.toNat .read b
      else s.placeParts sp.toNat .read (2 ^ esz.toNat) (strided b (s.opS 8 r.toNat) esz.toNat))
  | .stvs sp _ _ a r esz =>
    let b := s.opA 0 a.toNat
    some (if b % 32 ≠ 0 then alignFault sp.toNat .write b
      else s.placeParts sp.toNat .write (2 ^ esz.toNat) (strided b (s.opS 8 r.toNat) esz.toNat))
  | .ldvg sp _ _ a _ x esz =>
    let b := s.opA 0 a.toNat
    some (s.placeParts sp.toNat .read (2 ^ esz.toNat) (gathered b (s.opV 0x100 x.toNat) esz.toNat))
  | .stvg sp _ _ a x esz =>
    let b := s.opA 0 a.toNat
    some (s.placeParts sp.toNat .write (2 ^ esz.toNat) (gathered b (s.opV 0x100 x.toNat) esz.toNat))
  | .ldt sp _ t a _ pi off =>
    let b := s.opA 0 a.toNat
    let ea := effective 0 pi.toNat b (vecMoved b off)
    some (if ea % 128 ≠ 0 then alignFault sp.toNat .read ea
      else s.placeParts sp.toNat .read 1 (tileRows ea (s.mine.tctlOf t.toNat)))
  | .stt sp _ t a pi off =>
    let b := s.opA 0 a.toNat
    let ea := effective 0 pi.toNat b (vecMoved b off)
    some (if ea % 128 ≠ 0 then alignFault sp.toNat .write ea
      else s.placeParts sp.toNat .write 1 (tileRows ea (s.mine.tctlOf t.toNat)))
  | .stt2 sp _ t a pi off =>
    let b := s.opA 0 a.toNat
    let ea := effective 0 pi.toNat b (vecMoved b off)
    let tc := s.mine.tctlOf t.toNat
    some (if ea % 128 ≠ 0 then alignFault sp.toNat .write ea
      else if stt2Bad tc then .error { code := causeTileFmt, detail := t.toNat, faddr := 0, line := 0, mig := false }
      else s.placeParts sp.toNat .write 1 (tileRows ea tc ++ turnedRows ea tc))
  | .amo sp _ _ _ a _ _ w64 _ _ =>
    let n := if w64 = 1 then 8 else 4
    some (s.placeAligned sp.toNat .write false n (s.opA 0 a.toNat) n)
  | .red sp _ _ a _ _ w64 _ _ =>
    let n := if w64 = 1 then 8 else 4
    some (s.placeAligned sp.toNat .write false n (s.opA 0 a.toNat) n)
  | _ => none

/-- The ranges of its space that a MEM instruction reaches, as `plan` places them: first bytes and lengths. -/
def State.ranges (s : State) : Instr → List (Nat × Nat)
  | .ld _ _ _ a _ ord pi addr | .st _ _ _ a ord pi addr =>
    let b := s.opA 0 a.toNat
    [(effective ord.toNat pi.toNat b (ldMoved b addr), szBytes (addr.toNat / 128))]
  | .ldv _ _ _ a _ nr ord pi addr =>
    let b := s.opA 0 a.toNat
    [(effective ord.toNat pi.toNat b (ldvMoved b nr addr), 128)]
  | .stv _ _ _ a ord pi addr =>
    let b := s.opA 0 a.toNat
    [(effective ord.toNat pi.toNat b (vecMoved b addr), 128)]
  | .ldvs _ _ _ a _ r esz | .stvs _ _ _ a r esz => strided (s.opA 0 a.toNat) (s.opS 8 r.toNat) esz.toNat
  | .ldvg _ _ _ a _ x esz | .stvg _ _ _ a x esz => gathered (s.opA 0 a.toNat) (s.opV 0x100 x.toNat) esz.toNat
  | .ldt _ _ t a _ pi off | .stt _ _ t a pi off =>
    let b := s.opA 0 a.toNat
    tileRows (effective 0 pi.toNat b (vecMoved b off)) (s.mine.tctlOf t.toNat)
  | .stt2 _ _ t a pi off =>
    let ea := effective 0 pi.toNat (s.opA 0 a.toNat) (vecMoved (s.opA 0 a.toNat) off)
    let tc := s.mine.tctlOf t.toNat
    tileRows ea tc ++ turnedRows ea tc
  | .amo _ _ _ _ a _ _ w64 _ _ | .red _ _ _ a _ _ w64 _ _ => [(s.opA 0 a.toNat, if w64 = 1 then 8 else 4)]
  | _ => []

/-- The ranges of W space count the substitutions in the descriptors of the tile windows that they reach (R226, R359). -/
def State.countTiles (s : State) (sp : Nat) (ranges : List (Nat × Nat)) : State :=
  if sp = 1 ∧ s.anyBad then
    s.countSubst s.me.node ((ranges.map fun r => tileSofts s s.byte0 s.myView r.1 r.2).sum)
  else s

/-- SP of a MEM instruction. -/
def spOf : Instr → Nat
  | .ld sp .. | .st sp .. | .ldv sp .. | .stv sp .. | .ldvs sp .. | .stvs sp .. | .ldvg sp .. | .stvg sp .. | .ldt sp ..
  | .stt sp .. | .stt2 sp .. | .amo sp .. | .red sp .. => sp.toNat
  | _ => 0

/-- The translations of a MEM instruction stand in the caches, and what reading its descriptors substituted is counted (R330, R359). -/
def State.taken (s : State) (i : Instr) (ts : List Trans) : State := (s.fills ts).countTiles (spOf i) (s.ranges i)

/-- Keys that the bytes of a range have. -/
def placedKeys (srcs : List ByteSrc) : List Nat := srcs.filterMap ByteSrc.place

/-- Banks of the issuing core's own PM that keys touch (R52). -/
def ownBanks (core : Nat) (keys : List Nat) : List Nat :=
  keys.filterMap fun k => if pmCoreOf k = some core then some (k / 8 / 32 % 32) else none

/-! ### Accesses put in the port -/

/-- Places of a bundle's accesses among each other (R50, R111): acquires, loads, writes, releases, posts, fences. -/
def rankAcquire : Nat := 0
def rankLoad : Nat := 1
def rankWrite : Nat := 2
def rankRelease : Nat := 3
def rankFence : Nat := 5

/-- A slot whose access the others of its bundle count as earlier (R111). -/
def isAcquire : Instr → Bool
  | .ld _ _ _ _ _ ord _ _ => ord == 1
  | .ldv _ _ _ _ _ _ ord _ _ => ord == 1
  | .amo _ _ _ _ _ _ _ _ acq rel => acq == 1 && rel == 0
  | _ => false

/-- An access of the context in flight joins its port (R111). `via` are the translations that it took. -/
def State.enqueue (s : State) (rank cls scope : Nat) (acq rel own : Bool) (addr : Nat) (via : List Trans) (op : PortOp) : State :=
  let x := s.me
  let i : PortItem := { id := s.portId, bundle := x.seq, rank := rank, cls := cls, scope := scope, acq := acq, rel := rel
                        own := own, since := s.dev.clock, addr := addr, via := via, op := op }
  ({ s with portId := s.portId + 1 }).setMe { x with port := portInsert i x.port }

/-- Some byte lies in the issuing core's own PM or scratchpad (R259). -/
def anyOwn (core : Nat) (keys : List Nat) : Bool := keys.any fun k => ownCoreOf k == some core

/-- A write put among those on their way, by retire cycle and then by issue (R54). -/
def pendInsert (p : Pend) : List Pend → List Pend
  | [] => [p]
  | q :: t => if p.due < q.due then p :: q :: t else q :: pendInsert p t

/-! ### The capture of loads -/

/-- Alias class and scope of a load that a split captures; none for any other instruction (R208). -/
def loadForm : Instr → Option (Nat × Nat)
  | .ld _ ac _ _ _ _ _ addr => some (ac.toNat, bits addr.toNat 4 3)
  | .ldv _ ac _ _ _ _ _ _ addr => some (ac.toNat, addr.toNat / 128)
  | .ldvs _ ac .. => some (ac.toNat, 0)
  | .ldvg _ ac .. => some (ac.toNat, 0)
  | _ => none

/-- The capture of a load holds the bytes read and, with `nr`, the mask of those that were absent (R208). -/
def putLoad (f : Tab Byte) (base : Nat) (nr : Bool) (srcs : List ByteSrc) (data : Nat) : Tab Byte :=
  let f := framePut f (base + 0x18) 8 (if nr then 3 else 1)
  let f := if nr then framePut f (base + 0x20) 16 (((srcs.zipIdx).map fun p => if p.1 = .absent then 2 ^ p.2 else 0).sum) else f
  framePut f (base + 0x180) 128 data

/-- A load captured before is captured again as it was (R215). -/
def copyLoad (f g : Tab Byte) (base : Nat) : Tab Byte :=
  let f := framePut f (base + 0x18) 8 (frameNat g (base + 0x18) 8)
  let f := framePut f (base + 0x20) 16 (frameNat g (base + 0x20) 16)
  framePut f (base + 0x180) 128 (frameNat g (base + 0x180) 128)

/-- A load of a context reads now, in its place among the accesses of its port, where no other agent holds it (R208, R259): what it
found, which is nothing where it meets an error, or none where it has to wait (DEDUCED, log entry 37). -/
def State.readNow (s : State) (c : Nat) (l : TrapLoad) : State × Option (Option Nat) :=
  let id := s.portId
  let x := s.ctx c
  let p : Pend := { due := s.fl.t, kind := .landing, id := id, got := false, ready := false, freeze := false, w := .v 0 0 }
  let i : PortItem := { id := id, bundle := x.seq, rank := l.rank, cls := l.cls, scope := l.scope, acq := l.acq, rel := false
                        own := anyOwn (coreOf c) (placedKeys l.srcs), since := s.dev.clock, addr := 0, via := l.via, op := .load l.srcs }
  let s := ({ s with portId := s.portId + 1 }).setCtx c { x with port := portInsert i x.port, pend := p :: x.pend }
  let s := s.performThrough c id
  let x := s.ctx c
  let s := s.setCtx c { x with pend := x.pend.filter fun q => q.id ≠ id, port := x.port.filter fun i => i.id ≠ id }
  (s, if x.port.any fun i => i.id == id then none
    else match x.pend.find? fun q => q.id == id with
      | some { got := true, w := .v _ v, .. } => some (some v.toNat)
      | _ => some none)

/-- Loads that a split completes, each at its place of the frame, with those that other agents hold (R208). -/
def State.takeLoads (c : Nat) : List TrapLoad → State × Tab Byte → State × Tab Byte × List TrapLoad
  | [], r => (r.1, r.2, [])
  | l :: t, r =>
    match r.1.readNow c l with
    | (s, none) =>
      let q := State.takeLoads c t (s, r.2)
      (q.1, q.2.1, l :: q.2.2)
    | (s, some none) => State.takeLoads c t (s, r.2)
    | (s, some (some data)) => State.takeLoads c t (s, putLoad r.2 l.base l.nr l.srcs data)

/-- What the split has to read for a slot: the load of the instruction, at its place of the frame; one captured before is captured again
as it was (R208, R215). -/
def State.captureLoad (s : State) (f : Tab Byte) (slot : Nat) (i : Instr) : Tab Byte × List TrapLoad :=
  let base := slotBase slot
  match loadForm i with
  | none => (f, [])
  | some (cls, scope) =>
    let had : Option (Tab Byte) := s.fl.cap.filter fun g => frameNat g (base + 0x18) 8 % 2 = 1
    match had, (State.plan { s with fl := { s.fl with slot := slot } } i) with
    | some g, _ => (copyLoad f g base, [])
    | none, some (.ok (srcs, ts)) =>
      let nr := match i with
        | .ldv _ _ _ _ _ nr _ _ _ => nr == 1
        | _ => false
      (f, [{ base := base, rank := if isAcquire i then rankAcquire else rankLoad, cls := cls, scope := scope, acq := isAcquire i, nr := nr
             via := ts, srcs := srcs }])
    | none, _ => (f, [])

/-- The operand capture of the slots from the present one on, with the loads that other agents hold (R208). -/
def State.capture (s : State) : State × Tab Byte × List TrapLoad :=
  let r := s.fl.rest.foldl (fun (r : Tab Byte × List TrapLoad) p =>
    let f := s.captureSlot r.1 p.1 p.2
    if p.1 > s.fl.slot then
      let q := s.captureLoad f p.1 p.2
      (q.1, r.2 ++ q.2)
    else (f, r.2)) ([], [])
  State.takeLoads s.fl.ctx r.2 (s, r.1)

end Sys2Proof.Machine
end

