-- ==== Sys2Proof/Machine/Ops.lean ====
section
/-! DEFINITION. Shared operations: writes that retire later, taking an exception and returning from one (R54, R205 to
R216, R209, R238, R288). -/

namespace Sys2Proof.Machine

/-! ### Fixed-latency writes and landings -/

/-- Write of R62: register `w` takes its value for bundles that issue `lat` cycles after this one. -/
def State.write (s : State) (w : RegWrite) (lat : Nat) : State :=
  let x := s.me
  s.setMe { x with pend := pendInsert { due := s.fl.t + lat, kind := .fixed, id := 0, got := true, ready := true, freeze := false, w := w } x.pend }

def State.writeS (s : State) (n : Nat) (v : Nat) (lat : Nat) : State := s.write (.s n (BitVec.ofNat 64 v)) lat
def State.writeA (s : State) (n : Nat) (v : Nat) (lat : Nat) : State := s.write (.a n (BitVec.ofNat 64 v)) lat
def State.writeV (s : State) (n : Nat) (v : Nat) (lat : Nat) : State := s.write (.v n (BitVec.ofNat 1024 v)) lat
def State.writeM (s : State) (n : Nat) (v : Nat) (lat : Nat) : State := s.write (.m n (BitVec.ofNat 128 v)) lat

/-- Counts added at positions of the count queue (R144): the queue grows with zeros, and a count saturates. -/
def addCount (q : List Nat) (p : Nat) : List Nat :=
  let q := if q.length ≤ p then q ++ List.replicate (p + 1 - q.length) 0 else q
  q.set p (min (q.getD p 0 + 1) (2 ^ 32 - 1))

/-- A register takes its value (R54) (DEDUCED, log entry 84). -/
def State.apply (s : State) (c : Nat) (w : RegWrite) : State :=
  let x := s.ctx c
  match w with
  | .s n v => s.setCtx c { x with s := tabPut x.s n v }
  | .a n v => s.setCtx c { x with a := tabPut x.a n v }
  | .v n v => s.setCtx c { x with v := tabPut x.v n v }
  | .m n v => s.setCtx c { x with m := tabPut x.m n v }
  | .p n v => s.setCtx c { x with p := tabPut x.p n v }
  | .phase map gen => s.setCtx c { x with phase := map, phgen := gen }
  | .count ps => s.setCtx c { x with cq := ps.foldl addCount x.cq }
  | .fail e => s.setCtx c { x with boundary := if x.boundary.contains e then x.boundary else addCause x.boundary e }
  | .tctl n v =>
    let k := s.core (coreOf c)
    s.setCore (coreOf c) { k with tctl := tabPut k.tctl n v }
  | .tile n runs =>
    let k := s.core (coreOf c)
    s.setCore (coreOf c) { k with tiles := runs.foldl (fun t r =>
      (r.2.zipIdx).foldl (fun t b => tabPut t (16384 * n + r.1 + b.2) b.1) t) k.tiles }

/-- The first write on its way retires, if it is of a kind, its cycle has come and its data is there. -/
def State.retireHead (s : State) (c : Nat) (ok : PendKind → Bool) : State :=
  let x := s.ctx c
  match x.pend with
  | [] => s
  | p :: rest =>
    if ok p.kind && p.ready && p.due ≤ (s.core (coreOf c)).cyc then
      (s.setCtx c { x with pend := rest }).apply c p.w
    else s

/-- Echoes of loop iterators take their registers in the cycle in which their iteration's first bundle issues: those of loops of a
handler with the handler's bundles, and those of the interrupted program with its own (R91) (DEDUCED, log entry 39). -/
def State.echoes (s : State) (c : Nat) : State :=
  let x := s.ctx c
  s.setCtx c { x with
    echo := x.echo.filter fun e => e.2.2 != x.trapm
    s := (x.echo.filter fun e => e.2.2 == x.trapm).foldl (fun t e => tabPut t (56 + e.1) (BitVec.ofNat 64 e.2.1)) x.s }

/-- A trap entry, a park or a return: the accesses of the context perform, and its next bundle waits until every write on its way has
retired (R212, R214, R215) (DEDUCED, log entries 37, 39). -/
def State.retireAll (s : State) (c : Nat) : State :=
  let s := s.performAll c
  s.setCtx c { s.ctx c with settling := true, walked := false }

/-- A read that a slot makes at its commit, after every store of the context from earlier bundles: the accesses of the context perform,
and reductions of the lines drain into them (R96, R117, R259); the bytes, or the error that they hold (R359, R360)
(DEDUCED, log entry 37). -/
def State.commitRead (s : State) (c addr : Nat) (srcs : List ByteSrc) (ts : List Trans) : State × Except AFault (List Byte) :=
  let s := ((s.performAll c).fills ts).touch (srcs.filterMap ByteSrc.place)
  match s.hardFault ts addr srcs with
  | some e => (s, .error e)
  | none => (s.countSubst (s.ctx c).node (s.softGranules srcs).length, .ok (s.goodBytes s.byte srcs))

/-! ### Stopping a context -/

/-- A home without the waits and upgrades of a context (R288). -/
def LockHome.cancel (h : LockHome) (c : Nat) : LockHome :=
  { h with
    entries := (h.entries.filter fun e => !(e.ctx == c && e.mode == 0)).map fun e => if e.ctx = c then { e with want := 0, esc := false } else e
    late := h.late.filter fun e => e.ctx ≠ c }

/-- Waits and upgrades of a context are cancelled at every home (R288) (DEDUCED, log entry 83). -/
def State.cancelWaits (s : State) (c : Nat) : State :=
  { s with clusters := s.clusters.map fun p => (p.1, { (p.2 : Cluster) with home := p.2.home.cancel c }) }

/-- Cores whose PM a fatal fault of a domain freezes: those with a bound context, all of whose bound contexts belong to the
domain (R238). -/
def freezes (s : State) (node k : Nat) : Bool :=
  let xs := (List.range 4).map fun i => s.ctx (4 * k + i)
  let bound := xs.filter fun x => x.mode ≠ .unbound
  bound ≠ [] && bound.all fun x => x.node == node

/-- PM of the cores that a kill freezes (DEDUCED, log entry 83). -/
def State.freeze (s : State) (node : Nat) : State :=
  let ks := (s.ctxs.map fun p => coreOf p.1).eraseDups.filter fun k => freezes s node k
  ks.foldl (fun s k => s.setCore k { s.core k with frozen := true, frozenBy := node }) s

/-- The hardware work queue of a launch enters a state (R307, R321). -/
def State.queueState (s : State) (q st : Nat) : State :=
  { s with dev := { s.dev with hwq := s.dev.hwq.map fun p => if p.1 = q then (p.1, { p.2 with state := st }) else p } }

/-- The queue of a killed context's launch enters state killed (R307, R321). -/
def State.killQueue (s : State) (c : Nat) : State :=
  match s.launchOf c with
  | some l => s.queueState l.queue 5
  | none => s

/-- A context is killed (R209, R216, R238, R288, R321): its frame goes, its waits are cancelled, PM freezes, and its
launch's queue enters state killed (DEDUCED, log entry 83). -/
def State.kill (s : State) (c : Nat) : State :=
  let x := s.ctx c
  let s := s.setCtx c { x with mode := .killed, park := none, resume := none, boundary := [], bank := none, drain := none
                               waitFrom := none, chosen := none, monitor := [], nextFrom := none, trapping := none }
  ((s.cancelWaits c).freeze x.node).killQueue c

/-- Work chosen for a context that a fault keeps from committing its NEXT goes back to the head of its order (R313). -/
def State.returnWork (s : State) (c : Nat) : State :=
  let x := s.ctx c
  match x.chosen with
  | none => s
  | some w =>
    let s := s.setCtx c { x with chosen := none }
    { s with dev := { s.dev with launches := s.dev.launches.map fun p =>
        if p.1 = x.launch then
          if x.stage = 0 then (p.1, { p.2 with back := w % 2 ^ 32 :: p.2.back })
          else
            let key := clusterOf (coreOf c) * 32 + x.stage
            let q := tabGet StageQueue.init p.2.stageQ key
            let slot := w % 2 ^ 32
            let q := { q with ready := slot :: q.ready, out := q.out.erase slot }
            (p.1, { p.2 with stageQ := tabPut p.2.stageQ key q })
        else p } }

/-- No bundle is in flight. -/
def State.endFlight (s : State) : State := { s with fl := { s.fl with live := false, rest := [], cap := none } }

/-! ### Taking an exception -/

def splitRecord (c : Nat) (p : Split) : Record :=
  { phase := p.phase, ctx := c, code := p.code, smask := p.smask, sres := p.sres, lit := p.lit, capv := p.capv, qid := p.qid
    epc := p.epc, gen := p.gen.toNat, faddr := p.faddr, detail := p.detail }

/-- A fatal system fault: PM freezes, its record is written, and with it the outcome record, and the context is killed (R209, R238,
R364). -/
def State.takeFatal (s : State) (c : Nat) (p : Split) : State :=
  let s := (s.returnWork c).freeze (s.ctx c).node
  let s := (s.writeTrap (s.ctx c).node (s.wqOf c) 0 (splitRecord c { p with capv := false })).1
  s.kill c

/-- The record of a park: none where the same cause parks a retried context again, and none is due where firmware moves the page
(R216, R332, R333). -/
def State.tellPark (s : State) (c : Nat) (cause : Cause) (p : Split) : State × Told :=
  let x := s.ctx c
  if x.retry = some cause then (s, .written) else if p.mig then (s, .moved)
  else s.writeTrap x.node (s.wqOf c) 0 (splitRecord c p)

/-- A context parks with its split in the hardware frame (R216, R362). -/
def State.park (s : State) (c : Nat) (told : Told) (f : Frame) (cause : Cause) (lines : List Nat) : State :=
  let mode : Mode := match told with | .written => .parked | .full => .parkedFull | .unwritable => .parkedLost | .moved => .parkedMoved
  s.setCtx c { s.ctx c with mode := mode, bank := none, drain := none, waitFrom := none, nextFrom := none, retry := none
                            park := some (f, cause), monitor := if told = .unwritable then [] else lines }

/-- A replayable system fault: its record is written and the context is parked with the split in its hardware frame, its
monitor armed on the line of the Stop; with its trap queue full it parks without a record (R216, R332, R362)
(DEDUCED, log entries 59, 72). -/
def State.takeReplayable (s : State) (c : Nat) (p : Split) : State :=
  let s := (s.retireAll c).returnWork c
  let cause : Cause := { code := p.code, detail := p.detail, faddr := p.faddr, smask := p.smask }
  let r := s.tellPark c cause p
  r.1.park c r.2 { epc := p.epc, lit := p.lit, sres := p.sres, capv := p.capv, map := p.phase, gen := p.gen
                   bytes := p.bytes, target := p.target, after := p.after } cause (s.arm (dieOf (coreOf c)) p.line)

def causeTrapNest : Nat := 0x36
def causeTrapFrame : Nat := 0x37

/-- SYS.CAUSE of a program trap (R211). -/
def causeWord (p : Split) : Nat :=
  p.code + p.smask * 2 ^ 32 + (if p.code = 2 then p.detail % 64 * 2 ^ 16 else 0)
    + if p.code = 1 then p.detail % 65536 * 2 ^ 48 else 0

/-- The 3,072 bytes of a trap frame (R208). -/
def frameBytes (c : Nat) (p : Split) : List Byte :=
  let head := wordsBytes (recordWords (splitRecord c p))
  (List.range 3072).map fun i => if i < 40 then head.getD i 0 else tabGet 0 p.bytes i

/-- SMASK of TRAPNEST and TRAPFRAME: the bit of the slot at which the bundle splits, and zero where none of it commits (R210)
(DEDUCED, log entry 102). -/
def splitMask (sres : Nat) : Nat := if sres = 0 ∨ 12 ≤ sres then 0 else 2 ^ sres

/-- A program trap: pending writes retire, the frame is written at SYS.TFB, and the context goes on at SYS.TVEC (R212).
While a handler runs, TRAP, SCOREBD and WAITTO are TRAPNEST; a frame that cannot be written is TRAPFRAME. -/
def State.takeProgram (s : State) (c : Nat) (p : Split) : State :=
  let x := s.ctx c
  if x.trapm then
    s.takeFatal c { p with code := causeTrapNest, detail := p.code, faddr := 0, smask := splitMask p.sres }
  else
    let ready := (s.core (coreOf c)).cyc + 8
    let s := s.retireAll c
    let s := s.returnWork c
    let x := s.ctx c
    match writeVirtual s (s.spaceOf (coreOf c) x.node) (dieOf (coreOf c)) x.tfb.toNat (frameBytes c p) with
    | .error e => s.takeFatal c { p with code := causeTrapFrame, detail := 0, faddr := e.faddr, smask := splitMask p.sres }
    | .ok s =>
      let x := s.ctx c
      s.setCtx c { x with epc := BitVec.ofNat 64 p.epc, sres := p.sres, lit := p.lit, capv := p.capv, trapm := true
                          cause := BitVec.ofNat 64 (causeWord p), pc := x.tvec.toNat % 2 ^ 32, inRun := false
                          nextAt := max x.nextAt ready, nextFrom := none, bank := none, waitFrom := none, resume := none }

/-- TAKING AN EXCEPTION: by the class of its cause a context is killed, parked or sent to its handler (R209). -/
def State.takeFault (s : State) (c : Nat) (p : Split) : State :=
  match classOf p.code with
  | 0 => s.takeProgram c p
  | 1 => s.takeReplayable c p
  | _ => s.takeFatal c p

/-- A split that waits goes on with its loads; once none is left its fault is taken (R208). -/
def State.finishSplit (s : State) (c : Nat) : State :=
  match (s.ctx c).trapping with
  | none => s
  | some (p, loads) =>
    let r := State.takeLoads c loads (s, p.bytes)
    let x := r.1.ctx c
    if r.2.2 = [] then (r.1.setCtx c { x with trapping := none }).takeFault c { p with bytes := r.2.1 }
    else r.1.setCtx c { x with trapping := some ({ p with bytes := r.2.1 }, r.2.2) }

/-- The bundle in flight splits with what its capture found; loads that are left keep the fault waiting (R206, R208). -/
def State.split (r : State × Tab Byte × List TrapLoad) (c : Nat) (p : Split) : State :=
  let p := { p with bytes := r.2.1 }
  let s := r.1.endFlight
  if r.2.2 = [] then s.takeFault c p else s.setCtx c { s.ctx c with trapping := some (p, r.2.2) }

/-- The slot in flight faults: the slots before it have committed, it and the later ones do not, and the bundle splits; a load to be
captured that another agent holds keeps the fault waiting (R206 to R208) (DEDUCED, log entry 72). -/
def State.slotFault (s : State) (code detail faddr : Nat) (line : Nat := 0) (mig : Bool := false) : State :=
  let f := s.fl
  let capv := f.slot ≠ 0 && classOf code ≠ 2
  let r := if capv then s.capture else (s, [], [])
  State.split r f.ctx
    { code := code, detail := detail, faddr := faddr, smask := 2 ^ f.slot, sres := f.slot, epc := f.pc, lit := f.lit
      capv := capv, phase := f.phase, gen := f.gen, bytes := [], line := line, mig := mig
      target := f.target, after := f.after }

/-- An illegal bundle: nothing of it commits (R51, R218). -/
def State.illegal (s : State) (mask : Nat) : State :=
  let f := s.fl
  (s.endFlight).takeFault f.ctx
    { code := 0x20, detail := 0, faddr := 0, smask := mask, sres := 0, epc := f.pc, lit := f.lit
      capv := false, phase := f.phase, gen := f.gen, bytes := [], line := 0, mig := false }

def State.accessFault (s : State) (e : AFault) : State := s.slotFault e.code e.detail e.faddr e.line e.mig

/-! ### Returning -/

/-- The bundle that a return or a resume re-enters is the context's next one (R215). -/
def State.reenter (s : State) (c : Nat) (f : Frame) : State :=
  let x := s.ctx c
  s.setCtx c { x with mode := .running, pc := f.epc, inRun := f.lit, resume := some f, park := none, monitor := [] }

def causeRteState : Nat := 0x2E

/-- A frame access that fails: an error in its data is MEMERR, and anything else TRAPFRAME (R215, R360). -/
def frameCause (e : AFault) : Nat × Nat := if e.code = causeMemErr then (e.code, e.detail) else (causeTrapFrame, 0)

/-- RETURN FROM AN EXCEPTION, after the whole of the RTE's bundle has committed: TRAPM clears, and the bundle at SYS.EPC is
re-entered at slot SYS.STATUS.SRES with the capture of the frame at SYS.TFB (R215). `epc`, `lit` and `phase` are those of
the RTE's own bundle, for the faults: TRAPFRAME of the capture's read comes before RTESTATE. A resume inside a bundle translates W space through the map that
the frame names, with or without a capture. -/
def State.rteReturn (s : State) (c : Nat) (epc : Nat) (lit : Bool) : State :=
  let s := s.retireAll c
  let x := s.ctx c
  let bad (s : State) (smask code detail faddr : Nat) : State := s.takeFatal c
    { code := code, detail := detail, faddr := faddr, smask := smask, sres := 0, epc := epc, lit := lit, capv := false
      phase := x.phase, gen := x.phgen, bytes := [], line := 0, mig := false }
  let inside := 0 < x.sres && x.sres < 12
  let sp := s.spaceOf (coreOf c) x.node
  let n0 := if x.capv then 3072 else 0
  match readVirtual s sp (dieOf (coreOf c)) x.tfb.toNat n0 with
  | .error e => bad s 0 (frameCause e).1 (frameCause e).2 e.faddr
  | .ok _ =>
    if !x.trapm ∨ 12 < x.sres then bad (s.afterRead sp (dieOf (coreOf c)) x.tfb.toNat n0) 2 causeRteState x.sres 0
    else
    let n := if x.capv then 3072 else if inside then 24 else 0
    match readVirtual s sp (dieOf (coreOf c)) x.tfb.toNat n with
    | .error e => bad s 0 (frameCause e).1 (frameCause e).2 e.faddr
    | .ok bs =>
      let bytes := (bs.zipIdx).foldl (fun t p => tabSet 0 t p.2 p.1) ([] : Tab Byte)
      let s := s.afterRead sp (dieOf (coreOf c)) x.tfb.toNat n
      let s := s.setCtx c { s.ctx c with trapm := false }
      s.reenter c { epc := x.epc.toNat % 2 ^ 32, lit := x.lit, sres := x.sres, capv := x.capv && inside
                    map := if inside then bits (frameNat bytes 0 8) 56 4 else x.phase
                    gen := if inside then BitVec.ofNat 64 (frameNat bytes 16 8) else x.phgen, bytes := bytes
                    target := none, after := .none }

end Sys2Proof.Machine
end

