-- ==== Sys2Proof/Machine/Sync.lean ====
section
/-! DEFINITION. Instructions of the SYNC slot (R84 to R89). Their issue checks stand in Fetch.lean. -/

namespace Sys2Proof.Machine

def execSnop (s : State) : Result := done s s

/-- WAIT: the flag loses CNT and the slot acquires (R85); a short flag keeps the bundle from issuing (DEDUCED, log entry 36). -/
def execWait (f : BitVec 5) (cnt : BitVec 7) (s : State) : Result :=
  if s.mine.flagOf f.toNat < cnt.toNat then done s s.endFlight
  else done s ((s.setMine (s.mine.takeFlag f.toNat cnt.toNat)).dropLines s.myCore)

/-- POST: a flag of the issuing core, released at .core (R87). -/
def execPost (f : BitVec 5) (inc : BitVec 7) (s : State) : Result :=
  done s (s.enqueue 4 0 1 false true false 0 [] (.post s.myCore f.toNat (inc.toNat + 1) true))

/-- POSTP: a flag of the core of a rank of the cluster, released at .clu (R87). -/
def execPostp (rank : BitVec 3) (f : BitVec 5) (inc : BitVec 4) (s : State) : Result :=
  done s (s.enqueue 4 0 2 false true false 0 []
    (.post (clusterOf s.myCore * 8 + rank.toNat) f.toNat (inc.toNat + 1) false))

/-- BANKLK: a hold of own PM banks for CNT bundles after this one, ending a hold before it (R88). -/
def execBanklk (cnt : BitVec 4) (bank0 : BitVec 5) (nb : BitVec 3) (s : State) : Result :=
  done s (s.setMe { s.me with bank := some (bank0.toNat, nb.toNat + 1, cnt.toNat + 1) })

def causeBarrier : Nat := 0x2F

/-- The barrier that a context's CBAR names. -/
def State.barrier (s : State) (cl bid : Nat) : Barrier := tabGet { parts := 0, count := 0, waiting := [] } (s.cluster cl).bars bid

/-- CBAR: passes a completed barrier, acquiring at .clu; a barrier without participants is the fatal BARRIER (R89). -/
def execCbar (bid : BitVec 4) (s : State) : Result :=
  if (s.barrier (clusterOf s.myCore) bid.toNat).parts = 0 then done s (s.slotFault causeBarrier bid.toNat 0)
  else
    let x := s.me
    let mine := (bid.toNat, x.trapm)
    done s ((s.setMe { x with arrived := x.arrived.filter (· != mine), passed := x.passed.filter (· != mine), waitFrom := none }).dropLines
      s.myCore)

end Sys2Proof.Machine
end

