-- ==== Sys2Proof/Machine/Stream.lean ====
section
/-! DEFINITION. The code stream, the loop stack and the end of a bundle (R53, R56 to R61, R88, R91 to R93, R217, R291). -/

namespace Sys2Proof.Machine

def causeFetch : Nat := 0x10
def causeLoopStk : Nat := 0x2D

/-! ### Stream words -/

/-- What a fetch has read beside the words it wanted: lines of the stream to keep, each with its number and bytes, translations to
cache, bytes whose lines' reductions have drained, and substitutions to count (R56, R61, R265, R330, R359). -/
structure Fetched where
  lines : List (Nat × Nat)
  ts : List Trans
  keys : List Nat
  soft : Nat
  deriving DecidableEq, Repr

def Fetched.none : Fetched := { lines := [], ts := [], keys := [], soft := 0 }
def Fetched.append (x y : Fetched) : Fetched :=
  { lines := x.lines ++ y.lines, ts := x.ts ++ y.ts, keys := x.keys ++ y.keys, soft := x.soft + y.soft }

/-- `n` bytes of code at a virtual address; a part that does not translate is FETCH with the lowest address that failed (R59,
R217), and an error outside tolerant pages is MEMERR (R360). -/
def State.code (s : State) (c va n : Nat) : Except AFault (Nat × Fetched) :=
  let core := coreOf c
  match placeVirtual s s.seen (s.spaceOf core (s.ctx c).node) (dieOf core) 3 .fetch false va n with
  | .error e => .error { e with code := causeFetch, detail := 0 }
  | .ok (srcs, ts) => match s.hardFault ts va srcs with
    | some e => .error e
    | none => .ok (leNat (s.goodBytes s.seen srcs), { lines := [], ts := ts, keys := placedKeys srcs, soft := (s.softGranules srcs).length })

/-- Words of a line of the code stream. -/
def lineWords : Nat := 32

/-- The number under which a single word of a line with an error in it is kept, beside the lines. -/
def singleWord (pc : Nat) : Nat := 2 ^ 32 + pc

/-- The stream word at a PC: that of its 64-byte line as it was fetched, where one was (R56, R61) (DEDUCED, log entry 40). Of a line
with an error in it the words are fetched and kept one by one. -/
def State.streamWord (s : State) (c pc : Nat) : Except AFault (Nat × Fetched) :=
  let x := s.ctx c
  let line := pc / lineWords
  match x.icWords.find? fun p => p.1 == line, x.icWords.find? fun p => p.1 == singleWord pc with
  | some p, _ => .ok (bits p.2 (16 * (pc % lineWords)) 16, Fetched.none)
  | none, some p => .ok (p.2, Fetched.none)
  | none, none => match s.code c (x.cbase + 2 * lineWords * line) (2 * lineWords) with
    | .ok (w, f) => .ok (bits w (16 * (pc % lineWords)) 16, { f with lines := [(line, w)] })
    | .error _ => (s.code c (x.cbase + 2 * pc) 2).map fun r => (r.1, { r.2 with lines := [(singleWord pc, r.1)] })

/-- What a fetch has read stays, and the reductions of its lines have drained (R61, R117, R265, R330, R359) (DEDUCED, log entry 40). -/
def State.keep (s : State) (c : Nat) (f : Fetched) : State :=
  let s := ((s.fills f.ts).touch f.keys).countSubst (s.ctx c).node f.soft
  let x := s.ctx c
  s.setCtx c { x with icWords := f.lines.foldl (fun t w => tabPut t w.1 w.2) x.icWords }

/-- A 0xFFFF word that a context would take next begins a literal run: the next bundle's first word is the template behind it
(R57, R59) (DEDUCED, log entry 15). -/
def State.enterRun (s : State) (c : Nat) : State :=
  let x := s.ctx c
  if x.inRun then s
  else match s.streamWord c x.pc with
    | .error _ => s
    | .ok (w, f) =>
      if w = 0xFFFF then
        let s := s.keep c f
        s.setCtx c { s.ctx c with pc := (x.pc + 1) % 2 ^ 32, inRun := true }
      else s

/-- A core's clock stopped for an open number of cycles, counted once (R92, R106, R109; log entry 7) (DEDUCED, log entry 17). -/
def State.freezeOnce (s : State) (core : Nat) : State :=
  let n := 1 + Config.freeNat s.fresh
  let k := s.core core
  ({ s with fresh := s.fresh + 1 }).setCore core
    { k with el := k.el + n, oven := k.oven + n, fcyc := min (k.fcyc + n) (2 ^ 32 - 1), fcnt := min (k.fcnt + 1) (2 ^ 32 - 1) }

/-- The walk of a zero-count loop over its body (R92): the word after the body's last bundle with whether it is a template,
or nothing where no bundle's first word falls at the end. `r` is the distance walked, `d` that of the end
(DEDUCED, log entry 15). -/
def walkLoop (s : State) (c pc d : Nat) : Nat → Bool → Nat → Fetched → Except AFault (Option (Nat × Bool) × Fetched)
  | 0, _, _, got => .ok (none, got)
  | fuel + 1, lit, r, got =>
    if d < r then .ok (none, got)
    else
      let a := (pc + r) % 2 ^ 32
      match s.streamWord c a with
      | .error e => .error e
      | .ok (w, f) =>
        let got := got.append f
        if !lit && w == 0xFFFF then walkLoop s c pc d fuel true (r + 1) got
        else
          let n := if lit then 1 + literalLength w else 1
          let more := lit && !bitOf w 2
          if r = d then .ok (some ((a + n) % 2 ^ 32, more), got) else walkLoop s c pc d fuel more (r + n) got

/-- What the walk over a body reads, as far as it comes. -/
def walkReads (s : State) (c pc d : Nat) : Nat → Bool → Nat → Fetched → Fetched
  | 0, _, _, got => got
  | fuel + 1, lit, r, got =>
    if d < r then got
    else match s.streamWord c ((pc + r) % 2 ^ 32) with
      | .error _ => got
      | .ok (w, f) =>
        let got := got.append f
        if !lit && w == 0xFFFF then walkReads s c pc d fuel true (r + 1) got
        else if r = d then got
        else walkReads s c pc d fuel (lit && !bitOf w 2) (r + if lit then 1 + literalLength w else 1) got

/-- What the walk of the loop that the bundle in flight starts reads (R61, R92). -/
def State.walkFetched (s : State) (endOff : Nat) : Fetched :=
  let f := s.fl
  walkReads s f.ctx f.seqPc ((f.pc + endOff + 2 ^ 32 - f.seqPc) % 2 ^ 32) 4200 f.seqRun 0 Fetched.none

/-- The walk of the loop that the bundle in flight starts. -/
def State.walkBody (s : State) (endOff : Nat) : Except AFault (Option (Nat × Bool) × Fetched) :=
  let f := s.fl
  walkLoop s f.ctx f.seqPc ((f.pc + endOff + 2 ^ 32 - f.seqPc) % 2 ^ 32) 4200 f.seqRun 0 Fetched.none

/-! ### Loops -/

/-- The iterator's value of a level (R92). -/
def LoopLevel.value (l : LoopLevel) : Nat := if l.down then l.count - 1 - l.done else l.done

def Ctx.echoOf (x : Ctx) (l : LoopLevel) : Ctx := { x with echo := x.echo ++ [(l.iter, l.value, x.trapm)]
                                                           it := tabPut x.it l.iter (BitVec.ofNat 32 l.value) }

/-- Levels pushed, the outermost first; every push writes its record and echoes its first value (R91, R92). -/
def Ctx.pushLevels (x : Ctx) : List LoopLevel → Ctx
  | [] => x
  | l :: ls => Ctx.pushLevels ({ x with loops := l :: x.loops, lrec := tabPut x.lrec l.iter (l.count, l.down) }.echoOf l) ls

/-- Numbers the groups of a stack so that neighbours differ. -/
def Ctx.nextGroup (x : Ctx) : Nat :=
  match x.loops with
  | [] => 0
  | l :: _ => l.group + 1

/-- A taken branch out of the innermost body pops its group, and the test repeats outward (R93, R291). -/
def popOut (target : Nat) : Nat → List LoopLevel → List LoopLevel
  | _, [] => []
  | 0, ls => ls
  | n + 1, l :: ls =>
    if l.start ≤ target ∧ target ≤ l.stop then l :: ls
    else popOut target n (ls.dropWhile fun k => k.group == l.group)

/-- One group of the loop end test: levels of the group that begin anew, then the levels from the innermost one not yet
done (R291); nothing where the whole group is done. -/
def stepGroup : List LoopLevel → List LoopLevel → Option (List LoopLevel × List LoopLevel)
  | _, [] => none
  | reset, l :: ls =>
    if l.done + 1 < l.count then
      some (reset.map (fun r => { r with done := 0 }), { l with done := l.done + 1 } :: ls)
    else match ls with
      | [] => none
      | k :: _ => if k.group = l.group then stepGroup (reset ++ [l]) ls else none

/-- The loop end test of R93 and R291: the levels kept, and the levels whose iteration changed with the next word. -/
def loopEnd (pc : Nat) : Nat → List LoopLevel → List LoopLevel × Option (List LoopLevel × Nat × Bool)
  | 0, ls => (ls, none)
  | _, [] => ([], none)
  | n + 1, l :: ls =>
    if l.stop ≠ pc then (l :: ls, none)
    else match stepGroup [] (l :: ls) with
      | some (reset, k :: ks) => (reset ++ k :: ks, some (k :: reset, k.start, k.startLit))
      | _ => loopEnd pc n (ls.dropWhile fun k => k.group == l.group)

/-- The bundle's next word when no branch is taken. -/
def State.advance (s : State) (c : Nat) (f : Flight) : State :=
  let x := s.ctx c
  match loopEnd f.pc 9 x.loops with
  | (ls, some (changed, pc, lit)) =>
    s.setCtx c ({ (changed.foldl Ctx.echoOf { x with loops := ls }) with pc := pc, inRun := lit })
  | (ls, none) => s.setCtx c { x with loops := ls, pc := f.seqPc, inRun := f.seqRun }

/-- A BANKLK's count of bundles (R88). -/
def countBank : Option (Nat × Nat × Nat) → Option (Nat × Nat × Nat)
  | some (b, n, k + 2) => some (b, n, k + 1)
  | _ => none

/-- The whole of the bundle that started a preparation has committed: it begins 8 cycles later at the earliest, and every store of that
bundle comes before it (R229, R230, R233). -/
def Prep.wholeAt (el bundle : Nat) (p : Prep) : Prep := if p.whole then p else { p with whole := true, due := el + 8, bundle := bundle }

/-- THE END OF A BUNDLE all of whose slots have committed: releases with nothing before them take effect, and the context goes on,
returns (R215) or ends (R95) (DEDUCED, log entry 24). -/
def State.finish (s : State) : State :=
  let f := s.fl
  let c := f.ctx
  let s := s.settle c
  let x := s.ctx c
  let s := s.setCtx c { x with bank := countBank x.bank, retry := none, prep := x.prep.map (Prep.wholeAt (s.core (coreOf c)).el x.seq) }
  let s := s.endFlight
  match f.after with
  | .rte => s.rteReturn c f.pc f.lit
  | .exit => s.setCtx c { s.ctx c with mode := .exiting }
  | .none => match f.target with
    | some (pc, run) => s.setCtx c { s.ctx c with pc := pc, inRun := run }
    | none => s.advance c f

end Sys2Proof.Machine
end

