-- ==== Sys2Proof/Machine/Mem.lean ====
section
/-! DEFINITION. Instructions of the MEM slots (R104 to R121). Faults are those of the read phase (Access.lean); loads read
when they perform, stores write at commit or from the memory port. -/

namespace Sys2Proof.Machine

def execLnop (s : State) : Result := done s s

/-! ### Accesses that perform at once -/

/-- An access to its core's own PM or scratchpad performs at once: nothing of the core's ports stands before it (R107, R259)
(DEDUCED, log entry 22). -/
def State.ownNow (s : State) : Bool :=
  let c := s.fl.ctx
  !(s.me.port.any fun i => i.acq || isFence i || i.own)
    && !((List.range 4).any fun j => (s.ctx (c / 4 * 4 + j)).port.any fun i => i.own)
    && !(s.fl.rest.any fun p => isAcquire p.2)

/-- Every byte lies in the issuing core's own PM or scratchpad. -/
def allOwn (core : Nat) (keys : List Nat) : Bool := !keys.isEmpty && keys.all fun k => ownCoreOf k == some core

/-- An access of the bundle in flight: performed at once where it reaches only its core's own memory with nothing before
it, else held in the port. `id` is `s.portId`. -/
def State.access (s : State) (rank cls scope : Nat) (acq rel : Bool) (addr : Nat) (via : List Trans) (op : PortOp) : State :=
  let keys := opKeys op
  let all := allOwn s.myCore keys
  let s := if all then s.settleOwn s.myCore else s
  let i : PortItem := { id := s.portId, bundle := s.me.seq, rank := rank, cls := cls, scope := scope, acq := acq, rel := rel
                        own := all, since := s.dev.clock, addr := addr, via := via, op := op }
  if all && !acq && !rel && s.ownNow then ({ s with portId := s.portId + 1 }).perform s.fl.ctx i
  else s.enqueue rank cls scope acq rel (anyOwn s.myCore keys) addr via op

/-! ### Loads -/

/-- Bytes of a load from own memory as the read phase found them, pending reductions applied (R50, R117) (DEDUCED, log entry 22). -/
def State.readOwn (s : State) (keys : List Nat) : List Byte := keys.map s.byte0

/-- A byte of own memory that an earlier slot of the bundle has written is read as the read phase found it, however late the load
performs (R50): that slot performed at once only where nothing stood before it, and so nothing holds the load (R259). -/
def State.readFirst (s : State) (b : ByteSrc) : ByteSrc :=
  match b with
  | .key k =>
    if s.ownNow ∧ ownCoreOf k = some s.myCore ∧ !s.isBad k ∧ (s.byte k ≠ s.byte0 k ∨ s.redOn [k]) then .const (s.byte0 k) else b
  | b => b

/-- A write on its way that waits for the data of access `id`, or has it. Data that returns only in a freeze is not there yet
(R107, R109). -/
def State.expect (s : State) (due id : Nat) (kind : PendKind) (got freeze : Bool) (w : RegWrite) : State :=
  let x := s.me
  s.setMe { x with pend := pendInsert { due := due, kind := kind, id := id, got := got, ready := got && !freeze, freeze := freeze, w := w } x.pend }

def State.expects (s : State) (due id : Nat) (got freeze : Bool) (ws : List (PendKind × RegWrite)) : State :=
  ws.foldl (fun s w => s.expect due id w.1 got freeze w.2) s

/-- The captured data of a resumed load: bytes and mask (R208, R215). -/
def State.capturedLoad (s : State) : Option (List Byte × Nat) :=
  match s.fl.cap with
  | some g =>
    let b := slotBase s.fl.slot
    if frameNat g (b + 0x18) 8 % 2 = 1 then some (leBytes 128 (frameNat g (b + 0x180) 128), frameNat g (b + 0x20) 16) else none
  | none => none

/-- A captured write: a mask lands as it was captured. -/
def capturedWrite (w : RegWrite) (bytes : List Byte) (mask : Nat) : RegWrite :=
  match w with
  | .m n _ => .m n (BitVec.ofNat 128 mask)
  | w => loadValue w bytes []

/-- The space that a load's SP names has an arrival bound: own PM and scratchpad addressed as such (R107, R226). -/
def bounded : Instr → Bool
  | .ld sp .. | .ldv sp .. | .ldvs sp .. | .ldvg sp .. | .ldt sp .. => sp == 0
  | _ => false

/-- The data of an access returns only in a freeze: a load from host memory, or one with ARR 0 (R107, R109). -/
def freezesFor (arr : Nat) (keys : List Nat) : Bool := arr == 0 || keys.any fun k => k % 8 == 5

/-- A load of the slot in flight: it lands `arr` cycles after issue in each destination (R107, R110). `ea` is its
effective address, for a record (DEDUCED, log entry 22). -/
def State.load (s : State) (i : Instr) (ws : List (PendKind × RegWrite)) (ea arr cls scope : Nat) (acq : Bool) : State :=
  match s.capturedLoad with
  | some (bytes, mask) =>
    ({ s with portId := s.portId + 1 }).expects (s.fl.t + arr) s.portId true false
      (ws.map fun (w : PendKind × RegWrite) => (w.1, capturedWrite w.2 bytes mask))
  | none => match s.plan i with
    | none => s
    | some (.error e) => s.accessFault e
    | some (.ok (srcs, ts)) =>
      let s := s.taken i ts
      let keys := placedKeys srcs
      let bound := if keys.any fun k => k % 8 == 4 then 8 else 6
      -- data within 6 or 8 cycles: earlier landings may find it late, and one after 0 cycles does (R107, R109)
      let sure := bounded i && bound ≤ arr
      let now := sure || (arr != 0 && Config.freeBool s.fresh)
      let s := if sure then s else { s with fresh := s.fresh + 1 }
      let s := if allOwn s.myCore keys then s.settleOwn s.myCore else s
      let id := s.portId
      if allOwn s.myCore keys && keys.length == srcs.length && !acq && s.ownNow && !keys.any s.isBad && now then
        let bytes := s.readOwn keys
        (({ s with portId := id + 1 }).touch keys).expects (s.fl.t + arr) id true false
          (ws.map fun (w : PendKind × RegWrite) => (w.1, loadValue w.2 bytes srcs))
      else
        let srcs := srcs.map s.readFirst
        (s.expects (s.fl.t + arr) id false (freezesFor arr keys) ws).enqueue (if acq then rankAcquire else rankLoad) cls scope acq false
          (anyOwn s.myCore (placedKeys srcs)) ea ts (.load srcs)

/-- The post-increment of a contiguous form (R104); a faulting slot commits none. -/
def State.bump (s : State) (pi : BitVec 1) (a : BitVec 5) (moved : Nat) : State :=
  if pi = 1 ∧ s.fl.live then s.writeA a.toNat moved 1 else s

def execLd (sp : BitVec 2) (ac : BitVec 3) (d : BitVec 6) (a : BitVec 5) (arr : BitVec 10) (ord pi : BitVec 1)
    (addr : BitVec 10) (s : State) : Result :=
  let sz := addr.toNat / 128
  -- the waiting write holds the size in bytes and the sign (R72)
  let w : RegWrite := .s d.toNat (BitVec.ofNat 64 (szBytes sz + if szSigned sz then 16 else 0))
  let moved := ldMoved (s.opA 0 a.toNat) addr
  let ea := effective ord.toNat pi.toNat (s.opA 0 a.toNat) moved
  done s ((s.load (.ld sp ac d a arr ord pi addr) [(.load, w)] ea arr.toNat ac.toNat (bits addr.toNat 4 3) (ord == 1)).bump
    pi a moved)

def execLdv (sp : BitVec 2) (ac : BitVec 3) (v : BitVec 9) (a : BitVec 5) (arr : BitVec 10) (nr ord pi : BitVec 1)
    (addr : BitVec 10) (s : State) : Result :=
  let mask : List (PendKind × RegWrite) := if nr = 1 then [(.landing, .m (addr.toNat / 64) 0)] else []
  let moved := ldvMoved (s.opA 0 a.toNat) nr addr
  let ea := effective ord.toNat pi.toNat (s.opA 0 a.toNat) moved
  done s ((s.load (.ldv sp ac v a arr nr ord pi addr) ([(.load, .v v.toNat 0)] ++ mask) ea arr.toNat ac.toNat
    (addr.toNat / 128) (ord == 1)).bump pi a moved)

/-! ### Elements of a strided or gathered load -/

/-- A strided or gathered load fills the bytes it moves and writes the others as zero (R113). -/
def execLdvs (sp : BitVec 2) (ac : BitVec 3) (v : BitVec 9) (a : BitVec 5) (arr : BitVec 10) (sr : BitVec 6) (esz : BitVec 2)
    (s : State) : Result :=
  done s (s.load (.ldvs sp ac v a arr sr esz) [(.load, .v v.toNat 0)] (s.opA 0 a.toNat) arr.toNat ac.toNat 0
    false)

def execLdvg (sp : BitVec 2) (ac : BitVec 3) (v : BitVec 9) (a : BitVec 5) (arr : BitVec 10) (x : BitVec 9) (esz : BitVec 2)
    (s : State) : Result :=
  done s (s.load (.ldvg sp ac v a arr x esz) [(.load, .v v.toNat 0)] (s.opA 0 a.toNat) arr.toNat ac.toNat 0
    false)

/-- LDT: the rows go into the tile without the landing buffer (R114). -/
def execLdt (sp : BitVec 2) (ac : BitVec 3) (t : BitVec 4) (a : BitVec 5) (arr : BitVec 10) (pi : BitVec 1) (off : BitVec 10)
    (s : State) : Result :=
  let tc := s.mine.tctlOf t.toNat
  let runs := (List.range (tcRows tc + 1)).map fun r => (128 * r, List.replicate (tcBpr tc + 1) (0 : Byte))
  let moved := vecMoved (s.opA 0 a.toNat) off
  let ea := effective 0 pi.toNat (s.opA 0 a.toNat) moved
  done s ((s.load (.ldt sp ac t a arr pi off) [(.landing, .tile t.toNat runs)] ea arr.toNat ac.toNat 0 false).bump pi a
    moved)

/-! ### Stores -/

/-- A write to a read-duplicated page holds every later access of its context (R268). -/
def writesDup (ts : List Trans) : Bool := ts.any fun t => t.dup

/-- A store of the slot in flight (R110, R111): bytes at the places that its read phase found. Those of a plain store that lie in own
memory and those that lie elsewhere perform apart (R258). -/
def State.store (s : State) (i : Instr) (bytes : List Byte) (ea cls scope : Nat) (rel : Bool) : State :=
  match s.plan i with
  | none => s
  | some (.error e) => s.accessFault e
  | some (.ok (srcs, ts)) =>
    let s := s.taken i ts
    let cells := cellsOf srcs bytes
    let own := cells.filter fun p => ownCoreOf p.1 == some s.myCore
    let rest := cells.filter fun p => ownCoreOf p.1 != some s.myCore
    if rel || own == [] || rest == [] then
      s.access (if rel then rankRelease else rankWrite) cls scope (writesDup ts) rel ea ts (.store cells)
    else
      (s.access rankWrite cls scope false false ea ts (.store own)).access rankWrite cls scope (writesDup ts) false ea ts (.store rest)

def execSt (sp : BitVec 2) (ac : BitVec 3) (sr : BitVec 6) (a : BitVec 5) (ord pi : BitVec 1) (addr : BitVec 10) (s : State) :
    Result :=
  let moved := ldMoved (s.opA 0 a.toNat) addr
  let ea := effective ord.toNat pi.toNat (s.opA 0 a.toNat) moved
  done s ((s.store (.st sp ac sr a ord pi addr) (leBytes (szBytes (addr.toNat / 128)) (s.opS 8 sr.toNat)) ea ac.toNat
    (bits addr.toNat 4 3) (ord == 1)).bump pi a moved)

def execStv (sp : BitVec 2) (ac : BitVec 3) (v : BitVec 9) (a : BitVec 5) (ord pi : BitVec 1) (addr : BitVec 10) (s : State) :
    Result :=
  let moved := vecMoved (s.opA 0 a.toNat) addr
  let ea := effective ord.toNat pi.toNat (s.opA 0 a.toNat) moved
  done s ((s.store (.stv sp ac v a ord pi addr) (leBytes 128 (s.opV 0x80 v.toNat)) ea ac.toNat (addr.toNat / 128)
    (ord == 1)).bump pi a moved)

/-- STVS: elements of the vector in order, so that the higher of two elements with one address leaves its value (R113). -/
def execStvs (sp : BitVec 2) (ac : BitVec 3) (v : BitVec 9) (a : BitVec 5) (sr : BitVec 6) (esz : BitVec 2) (s : State) :
    Result :=
  done s (s.store (.stvs sp ac v a sr esz) (leBytes 128 (s.opV 0x80 v.toNat)) (s.opA 0 a.toNat) ac.toNat 0 false)

def execStvg (sp : BitVec 2) (ac : BitVec 3) (v : BitVec 9) (a : BitVec 5) (x : BitVec 9) (esz : BitVec 2) (s : State) :
    Result :=
  done s (s.store (.stvg sp ac v a x esz) (leBytes 128 (s.opV 0x80 v.toNat)) (s.opA 0 a.toNat) ac.toNat 0 false)

/-! ### Tiles -/

/-- Tile bytes that tile loads bring and have not yet put in place: each 4-byte word of a read returns the old or the new
value (R114) (DEDUCED, log entry 41). -/
def State.tileNews (s : State) (core t : Nat) : List (Nat × List Byte) :=
  (List.range 4).flatMap fun j => (s.ctx (4 * core + j)).pend.flatMap fun p =>
    match p.kind, p.w with
    | .landing, .tile n runs => if n = t ∧ p.ready then runs else []
    | _, _ => []

/-- A tile byte as a reader of this cycle may find it (R45, R114) (DEDUCED, log entry 41). -/
def State.tileRead (s : State) (core t : Nat) (news : List (Nat × List Byte)) (o : Nat) : Byte :=
  let old := (s.core core).tileByte t o
  match news.find? fun r => r.1 ≤ o && o < r.1 + r.2.length with
  | none => old
  | some r => if Config.freeBool (s.fresh + o / 4) then r.2.getD (o - r.1) 0 else old

/-- A read that races has used free choices. -/
def State.raced (s : State) (news : List (Nat × List Byte)) : State :=
  if news = [] then s else { s with fresh := s.fresh + 4096 }

/-- Bytes of a tile row by row (R114). -/
def State.tileRowBytes (s : State) (t : Nat) : List Byte :=
  let tc := s.mine.tctlOf t
  let news := s.tileNews s.myCore t
  (List.range (tcRows tc + 1)).flatMap fun r => (List.range (tcBpr tc + 1)).map fun b =>
    s.tileRead s.myCore t news (128 * r + b)

/-- Bytes of the transposed copy, column by column (R115). -/
def State.tileColumnBytes (s : State) (t : Nat) : List Byte :=
  let tc := s.mine.tctlOf t
  let w := stt2Width (tcFmt tc)
  let news := s.tileNews s.myCore t
  (List.range ((tcBpr tc + 1) / w)).flatMap fun j => (List.range (tcRows tc + 1)).flatMap fun r =>
    (List.range w).map fun b => s.tileRead s.myCore t news (128 * r + j * w + b)

def execStt (sp : BitVec 2) (ac : BitVec 3) (t : BitVec 4) (a : BitVec 5) (pi : BitVec 1) (off : BitVec 10) (s : State) :
    Result :=
  let moved := vecMoved (s.opA 0 a.toNat) off
  done s (((s.store (.stt sp ac t a pi off) (s.tileRowBytes t.toNat) (effective 0 pi.toNat (s.opA 0 a.toNat) moved) ac.toNat 0 false).raced
    (s.tileNews s.myCore t.toNat)).bump pi a moved)

def execStt2 (sp : BitVec 2) (ac : BitVec 3) (t : BitVec 4) (a : BitVec 5) (pi : BitVec 1) (off : BitVec 10) (s : State) :
    Result :=
  let moved := vecMoved (s.opA 0 a.toNat) off
  done s (((s.store (.stt2 sp ac t a pi off) (s.tileRowBytes t.toNat ++ s.tileColumnBytes t.toNat)
    (effective 0 pi.toNat (s.opA 0 a.toNat) moved) ac.toNat 0 false).raced
    (s.tileNews s.myCore t.toNat)).bump pi a moved)

/-! ### Atomics and reductions -/

/-- AMO: the old value lands in `d` after the fixed arrival of its space (R116). -/
def execAmo (sp : BitVec 2) (ac : BitVec 3) (d sr : BitVec 6) (a : BitVec 5) (scope : BitVec 3) (aop : BitVec 4)
    (w64 acq rel : BitVec 1) (s : State) : Result :=
  let n := if w64 = 1 then 8 else 4
  done s (match s.plan (.amo sp ac d sr a scope aop w64 acq rel) with
    | none => s
    | some (.error e) => s.accessFault e
    | some (.ok (srcs, ts)) =>
      let s := s.taken (.amo sp ac d sr a scope aop w64 acq rel) ts
      let cmp := if aop = 11 then s.opS 0x10 d.toNat else 0
      let w : RegWrite := .s d.toNat (BitVec.ofNat 64 n)
      let rank := if rel = 1 then rankRelease else if acq = 1 then rankAcquire else rankWrite
      (s.expect (s.fl.t + amoArrival sp) s.portId .load false (freezesFor 1 (placedKeys srcs)) w).access rank ac.toNat scope.toNat
        (acq == 1 || writesDup ts) (rel == 1) (s.opA 0 a.toNat) ts
        (.amo aop.toNat n srcs (s.opS 8 sr.toNat) cmp))

/-- RED: a contribution to the word at its owning port (R117). -/
def execRed (sp : BitVec 2) (ac : BitVec 3) (sr : BitVec 6) (a : BitVec 5) (scope : BitVec 3) (aop : BitVec 4)
    (w64 rel ord : BitVec 1) (s : State) : Result :=
  let n := if w64 = 1 then 8 else 4
  done s (match s.plan (.red sp ac sr a scope aop w64 rel ord) with
    | none => s
    | some (.error e) => s.accessFault e
    | some (.ok (srcs, ts)) =>
      let s := s.taken (.red sp ac sr a scope aop w64 rel ord) ts
      s.access (if rel = 1 then rankRelease else rankWrite) ac.toNat scope.toNat (writesDup ts) (rel == 1)
        (s.opA 0 a.toNat) ts (.red aop.toNat n (ord == 1) srcs (s.opS 8 sr.toNat)))

/-! ### Order and cache control -/

/-- A scope of an agent of a core covers the port that owns a byte (R117, R257). -/
def covers (scope core k : Nat) : Bool :=
  match scope with
  | 0 => false
  | 1 => ownCoreOf k == some core
  | 2 => (match ownCoreOf k with
      | some o => clusterOf o == clusterOf core
      | none => k % 8 == 3 && k / 8 / 2 ^ 23 == clusterOf core)
  | 3 => homeDie k == dieOf core
  | _ => true

/-- DRAIN: the next bundle waits (R118). Reductions at the ports that the scope covers drain, and so does every entry that holds a
contribution of the context, which performs only so (R117, R265). -/
def execDrain (scope : BitVec 3) (s : State) : Result :=
  let s' := s.drainRed fun e => covers scope.toNat s.myCore e.key || e.ctxs.contains s.fl.ctx
  done s (s'.setMe { s'.me with drain := some scope.toNat })

/-- FENCE: holds no issue, and stands in the port between the accesses of its classes (R119). -/
def execFence (scope : BitVec 3) (acls : BitVec 8) (s : State) : Result :=
  done s (s.enqueue rankFence 0 scope.toNat false false false 0 [] (.fence acls.toNat))

def causeCacheMode : Nat := 0x30

/-- Listed bytes of a core's scratchpad from one offset to another. -/
def State.scratchKeys (s : State) (core lo hi : Nat) : List Nat :=
  let all := s.mem.map (·.1) ++ s.wlog.map (·.1)
  all.filter fun k => k % 8 == 4 && k / 8 / 2 ^ 18 == core && lo ≤ k / 8 % 2 ^ 18 && k / 8 % 2 ^ 18 < hi

/-- Dirty data of a core that a test names reaches L2: its plain stores to those lines perform, as far as their order lets them (R120,
R121) (DEDUCED, log entry 18). -/
def State.writeBackLines (s : State) (core : Nat) (dirty : Nat → Bool) : State :=
  let cs := (List.range 4).map fun j => 4 * core + j
  cs.foldl (fun s c =>
    ((s.ctx c).port.map (·.id)).foldl (fun s id =>
      match (s.ctx c).port.findIdx? fun i => i.id == id with
      | none => s
      | some n => match (s.ctx c).port[n]? with
        | some i => (match i.op with
          | .store cells => if cells.any fun p => cacheable p.1 && dirty (lineOf p.1) then s.performAt c n else s
          | _ => s)
        | none => s) s) s

/-- CVTWAYS: ways that leave cache mode write back their dirty lines and discard the clean ones; ways that change mode lose their
contents and read as zero as scratchpad; with a fused L1 it is CACHEMODE (R120, R239). Which lines stand in those ways is open: every dirty
line of the core is written back and every copy of its L1 discarded, also where ways stay cache (DESIGN CHOICE, log entry 112). -/
def execCvtways (nw : BitVec 5) (s : State) : Result :=
  let k := s.mine
  let n := nw.toNat
  done s (if (s.cluster (clusterOf s.myCore)).fused then s.slotFault causeCacheMode 0 0
    else
      let s := if k.nw < n then (s.writeBackLines s.myCore fun _ => true).dropLines s.myCore else s
      let lo := 16384 * min n k.nw
      let hi := 16384 * max n k.nw
      let s := (s.drainRed fun e => e.key % 8 == 4 && e.key / 8 / 2 ^ 18 == s.myCore && lo ≤ e.key / 8 % 2 ^ 18 && e.key / 8 % 2 ^ 18 < hi)
      let s := s.pokes ((s.scratchKeys s.myCore lo hi).map fun k => (k, 0))
      s.setMine { s.mine with nw := n })

/-- The lines that a cache form names, each 128 bytes (R121). -/
def formLines (ea nl : Nat) : List (Nat × Nat) :=
  (List.range (nl + 1)).map fun i => ((ea / 128 * 128 + 128 * i) % 2 ^ 64, 128)

/-- The lines of cached locations among keys. -/
def cachedLines (keys : List Nat) : List Nat := ((keys.filter cacheable).map lineOf).eraseDups

/-- A store without the bytes of some lines; a release store keeps them. -/
def dropCells (lines : List Nat) (i : PortItem) : PortItem :=
  if i.rel then i
  else match i.op with
    | .store cells => { i with op := .store (cells.filter fun p => !lines.contains (lineOf p.1)) }
    | _ => i

def emptyStore (i : PortItem) : Bool :=
  match i.op with
  | .store [] => !i.acq
  | _ => false

/-- Lines invalidated in the L1s that a core uses: copies go, and with them the dirty bytes that no lower level has received (R121)
(DEDUCED, log entry 18). -/
def State.invalidate (s : State) (core : Nat) (lines : List Nat) : State :=
  (s.l1Cores core).foldl (fun s o => (List.range 4).foldl (fun s j =>
    let c := 4 * o + j
    let x := s.ctx c
    if x.port = [] then s
    else s.setCtx c { x with port := (x.port.map (dropCells lines)).filter fun i => !emptyStore i }) s)
    (s.dropCopies core lines.contains)

/-- CINV (R121). Where SP is 2 it translates and faults as a store does, and else has no effect (DEDUCED, log entry 95). -/
def execCinv (sp : BitVec 2) (_ac : BitVec 3) (a : BitVec 5) (nl : BitVec 10) (s : State) : Result :=
  done s (match s.placeParts sp.toNat .write 1 (formLines (s.opA 0 a.toNat) nl.toNat) with
    | .error e => s.accessFault e
    | .ok (srcs, ts) => ((s.fills ts).countTiles sp.toNat (formLines (s.opA 0 a.toNat) nl.toNat)).invalidate s.myCore
        (cachedLines (placedKeys srcs)))

/-- CWB (R121), faulting as CINV does (DEDUCED, log entry 95). -/
def execCwb (sp : BitVec 2) (_ac : BitVec 3) (a : BitVec 5) (nl : BitVec 10) (s : State) : Result :=
  done s (match s.placeParts sp.toNat .write 1 (formLines (s.opA 0 a.toNat) nl.toNat) with
    | .error e => s.accessFault e
    | .ok (srcs, ts) =>
      let lines := cachedLines (placedKeys srcs)
      let s := (s.fills ts).countTiles sp.toNat (formLines (s.opA 0 a.toNat) nl.toNat)
      (s.l1Cores s.myCore).foldl (fun s o => s.writeBackLines o lines.contains) s)

/-- Lines of keys that L1 does not hold are fetched, their pending reductions drained (R117, R121). -/
def State.prefetch (s : State) (core : Nat) (keys : List Nat) : State :=
  (cachedLines keys).foldl (fun s l => if s.copyOf core l = [] then (s.touch (lineKeys l)).fillLine core l else s) s

/-- PREF: lines that translate are fetched where they are absent; the others are dropped (R121). -/
def execPref (sp : BitVec 2) (_ac : BitVec 3) (a : BitVec 5) (nl : BitVec 10) (s : State) : Result :=
  done s ((formLines (s.opA 0 a.toNat) nl.toNat).foldl (fun s l =>
    match s.placeMine sp.toNat .read false l.1 l.2 with
    | .error _ => s
    | .ok (srcs, ts) => ((s.fills ts).countTiles sp.toNat [l]).prefetch s.myCore (placedKeys srcs)) s)

end Sys2Proof.Machine
end

