-- ==== Sys2Proof/Machine/Xfm.lean ====
section
/-! DEFINITION. Instructions of the XFM slot and the retirement of their results (R148 to R153). The unit's copy of its
source is taken at the read phase, so the result is formed at once and retires later. -/

namespace Sys2Proof.Machine

def execXnop (s : State) : Result := done s s

/-- A tile as a transform unit reads it: rows, elements per row, format, a row's code and a block's scale (R149). -/
structure Source where
  nrow : Nat
  ecnt : Nat
  fmt : Nat
  rows : List Nat
  scales : List Nat
  deriving DecidableEq, Repr

/-- Bytes `[0, n)` of a tile row as a number. -/
def State.rowNat (s : State) (t r n : Nat) : Nat :=
  let news := s.tileNews s.myCore t
  leNat ((List.range n).map fun b => s.tileRead s.myCore t news (128 * r + b))

/-- The source tile read as a format, with its companion where that is a block format (R148, R149) (DEDUCED, log entry 27). -/
def State.source (s : State) (t fmt : Nat) : Source :=
  let tc := s.mine.tctlOf t
  let n := tcRows tc + 1
  let e := 8 * (tcBpr tc + 1) / fmtWidth fmt
  { nrow := n, ecnt := e, fmt := fmt
    rows := (List.range n).map fun r => s.rowNat t r (tcBpr tc + 1)
    scales := if isBlockFmt fmt then (List.range n).map fun r => s.rowNat (t + 1) r ((e + 3) / 4 * 2) else [] }

def Source.code (x : Source) (r e : Nat) : Nat := elemAt (x.rows.getD r 0) (fmtWidth x.fmt) e
def Source.scale (x : Source) (r e : Nat) : Nat := elemAt (x.scales.getD r 0) 16 (e / 4) % 1024
/-- Value of R24, with the flags of its scale's product (R31). -/
def Source.value (x : Source) (r e : Nat) : Res Val := elemValue x.fmt (x.code r e) (x.scale r e) 0

/-- A source that is a block tile by its control register needs an even number and a granted companion (R149). -/
def State.blockSourceBad (s : State) (t fmt : Nat) : Bool :=
  isBlockFmt fmt && (t % 2 == 1 || !bitOf s.me.tgrant (t + 1))

/-- Rows of a destination tile, each a number of `n` bytes, as a write of the tile (R45) (DEDUCED, log entry 27). -/
def tileRuns (n : Nat) (rows : List Nat) : List (Nat × List Byte) :=
  (rows.zipIdx).map fun p => (128 * p.2, leBytes n p.1)

/-- A result on its way to a tile and its control register (R148). -/
def State.writeTile (s : State) (t lat : Nat) (rows : List Nat) (bpr : Nat) (tc : BitVec 32) : State :=
  let due := s.fl.t + lat
  (s.expect due 0 .xfm true false (.tile t (tileRuns bpr rows))).expect due 0 .xfm true false (.tctl t tc)

/-- The next cycle in which a unit takes an instruction: units 0 expand, 1 convert, 2 transpose (R148). -/
def State.occupy (s : State) (unit ii : Nat) : State :=
  let k := s.mine
  s.setMine { k with xfmNext := tabPut k.xfmNext unit (s.fl.t + ii) }

/-- A block result's companion: the whole containers of each row's blocks, .n16, its shape's bytes half the elements (R149). -/
def State.writeCompanion (s : State) (t lat nrow ecnt : Nat) (rows : List (List Nat)) : State :=
  s.writeTile (t + 1) lat (rows.map (packElems 16)) (2 * ((ecnt + 3) / 4)) (tcOf 22 (nrow - 1) (ecnt / 2 - 1) 0)

/-- A tile result: rows of codes of a format, with scales where it is a block format (DEDUCED, log entry 27). -/
def State.tileResult (s : State) (unit ii t lat fmt gsz : Nat) (src : Nat) (codes : List (List Nat))
    (scales : List (List Nat)) (flags : Nat) : State :=
  let nrow := codes.length
  let ecnt := (codes.headD []).length
  let w := fmtWidth fmt
  let bytes := ecnt * w / 8
  let s := s.raced (s.tileNews s.myCore src)
  let s := s.occupy unit ii
  let s := s.writeTile t lat (codes.map (packElems w)) bytes (tcOf fmt (nrow - 1) (bytes - 1) gsz)
  (if isBlockFmt fmt then s.writeCompanion t lat nrow ecnt scales else s).mergeSlot flags

/-- Destination format and group size of an XEXP (R150). -/
def xexpTo (fmt : Nat) : Nat :=
  match fmt with
  | 10 | 11 | 12 => 8
  | 16 => 17
  | 13 => 14
  | _ => 3

/-- One code of an XEXP (R150). -/
def xexpCode (fmt c : Nat) : Nat :=
  match fmt with
  | 16 => wrapInt (signExt c 4) 8
  | 13 => c
  | _ => (narrow (decodeFloat c fmt) 3 true).val

/-- XEXP (R150). The reserved bits of a copied container are ignored and written as zero (R23). TILEFMT names the source tile
(DEDUCED, log entry 89). -/
def execXexp (td ta : BitVec 4) (fmt : BitVec 5) (s : State) : Result :=
  let f := fmt.toNat
  let tc := s.mine.tctlOf ta.toNat
  let n := tcBpr tc + 1
  let x := s.source ta.toNat f
  done s (if (fmtWidth f = 4 ∧ 64 < n) ∨ (fmtWidth f = 6 ∧ (n % 3 ≠ 0 ∨ 96 < n)) then s.slotFault causeTileFmt ta.toNat 0
    else
      let codes := (List.range x.nrow).map fun r => (List.range x.ecnt).map fun e => xexpCode f (x.code r e)
      let scales := (List.range x.nrow).map fun r => (List.range ((x.ecnt + 3) / 4)).map fun b =>
        elemAt (x.scales.getD r 0) 16 b % 1024
      s.tileResult 0 8 td.toNat 10 (xexpTo f) (if f = 13 then tcGsz tc else 0) ta.toNat codes scales 0)

/-- Formats that XTRN accepts (R151). -/
def xtrnFmt (f : Nat) : Bool := f < 5 || (17 ≤ f && f < 25)

/-- XTRN (R151). A source row shorter than one element is TILEFMT, which names the source tile (DEDUCED, log entry 89). -/
def execXtrn (td ta : BitVec 4) (s : State) : Result :=
  let tc := s.mine.tctlOf ta.toNat
  let f := tcFmt tc
  let x := s.source ta.toNat f
  done s (if !xtrnFmt f ∨ 1024 < x.nrow * fmtWidth f ∨ x.ecnt = 0 then s.slotFault causeTileFmt ta.toNat 0
    else
      let codes := (List.range x.ecnt).map fun j => (List.range x.nrow).map fun r => x.code r j
      s.tileResult 2 16 td.toNat 20 f 0 ta.toNat codes [] 0)

/-- Four elements of a row or column quantised (R38, R152, R153). -/
def quantBlocks (fmt : Nat) (xs : List Val) : Nat → List Nat × List Nat × Flags6
  | 0 => ([], [], 0)
  | n + 1 =>
    let k := xs.length / 4 - (n + 1)
    let q := blockQuantise ((xs.drop (4 * k)).take 4) fmt
    let rest := quantBlocks fmt xs n
    (q.val.2 ++ rest.1, q.val.1 :: rest.2.1, q.flags ||| rest.2.2)

/-- XCVT (R152). A source row shorter than one element is TILEFMT, which names the source tile (DEDUCED, log entry 89). -/
def execXcvt (td ta : BitVec 4) (fmt : BitVec 5) (s : State) : Result :=
  let f := fmt.toNat
  let tc := s.mine.tctlOf ta.toNat
  let sf := tcFmt tc
  let x := s.source ta.toNat sf
  let bad := sf == 13 || sf == 14 || x.ecnt == 0 || 1024 < x.ecnt * fmtWidth f
    || (x.ecnt % 4 != 0 && (isBlockFmt f || fmtWidth f == 6)) || (x.ecnt % 2 == 1 && fmtWidth f == 4)
    || s.blockSourceBad ta.toNat sf
  done s (if bad then s.slotFault causeTileFmt ta.toNat 0
    else if isBlockFmt f then
      let qs := (List.range x.nrow).map fun r =>
        let xs := (List.range x.ecnt).map (x.value r)
        let q := quantBlocks (fmtBase f) (xs.map (·.val)) (x.ecnt / 4)
        (q.1, q.2.1, q.2.2 ||| resFlags xs)
      s.tileResult 1 8 td.toNat 12 f 0 ta.toNat (qs.map (·.1)) (qs.map (·.2.1)) (qs.foldl (fun a q => a ||| q.2.2) 0)
    else
      let rs := (List.range x.nrow).map fun r => (List.range x.ecnt).map fun e =>
        let v := x.value r e
        let c := convertTo v.val f false
        (⟨c.val, c.flags ||| v.flags⟩ : Res Nat)
      s.tileResult 1 8 td.toNat 12 f 0 ta.toNat (rs.map fun r => r.map (·.val)) []
        (rs.foldl (fun a r => r.foldl (fun a c => a ||| c.flags) a) 0))

/-- XREBLK (R153). A source row shorter than one element, or of more elements than a tile has rows, is TILEFMT, which names the
source tile (DEDUCED, log entry 89). -/
def execXreblk (td ta : BitVec 4) (fmt : BitVec 5) (s : State) : Result :=
  let f := fmt.toNat
  let sf := tcFmt (s.mine.tctlOf ta.toNat)
  let x := s.source ta.toNat sf
  let bad := !isFloatFmt sf || x.nrow % 4 != 0 || 1024 < x.nrow * fmtWidth f || x.ecnt == 0 || 128 < x.ecnt
    || s.blockSourceBad ta.toNat sf
  done s (if bad then s.slotFault causeTileFmt ta.toNat 0
    else
      let qs := (List.range x.ecnt).map fun j =>
        let xs := (List.range x.nrow).map fun r => x.value r j
        let q := quantBlocks (fmtBase f) (xs.map (·.val)) (x.nrow / 4)
        (q.1, q.2.1, q.2.2 ||| resFlags xs)
      s.tileResult 2 16 td.toNat 28 f 0 ta.toNat (qs.map (·.1)) (qs.map (·.2.1)) (qs.foldl (fun a q => a ||| q.2.2) 0))

/-- XFM_RETIRE: the first result of a transform unit that is due replaces its tile and control register (R148). -/
def execXfmRetire (ctx : Nat) (s : State) : Result := done s (s.retireHead ctx (· == .xfm))

/-- WRITE_RETIRE: the first fixed-latency write that is due retires (R54). -/
def execWriteRetire (ctx : Nat) (s : State) : Result := done s (s.retireHead ctx (· == .fixed))

/-- A freeze that ends in the cycle in which its data arrives: the landing's own cycle is the core's (R109). -/
def execLanding (ctx : Nat) (s : State) : Result :=
  done s (s.retireHead ctx fun k => k == .load || k == .landing)

/-- The landings of a core that are due and have no data: context and access. -/
def State.lateLandings (s : State) (core : Nat) : List (Nat × Nat) :=
  (List.range 4).flatMap fun j =>
    let c := 4 * core + j
    ((s.ctx c).pend.filter fun p => !p.ready && p.due ≤ (s.core core).cyc).map fun p => (c, p.id)

/-- The data of landings that are due returns where their accesses have performed. -/
def Ctx.arrive (x : Ctx) (cyc : Nat) : Ctx :=
  { x with pend := x.pend.map fun p => if p.got && p.due ≤ cyc then { p with ready := true } else p }

/-- LATE_DATA_FREEZE: the core's clock freezes until the data of every landing due has arrived, after the accesses that must precede
theirs; a bank that another core holds keeps one waiting (R88). The freeze counts once, its cycles are open, and the timer of the oven
goes on (R109, R325, log entry 7). -/
def execLateDataFreeze (core : Nat) (s : State) : Result :=
  done s (match s.lateLandings core with
    | [] => s
    | late =>
      let s' := late.foldl (fun s p => s.performThrough p.1 p.2) s
      let s' := late.foldl (fun s p => s.setCtx p.1 ((s.ctx p.1).arrive (s.core core).cyc)) s'
      let n := 1 + Config.freeNat s.fresh
      let k := s'.core core
      let ends := s'.lateLandings core = []
      ({ s' with fresh := s'.fresh + 1 }).setCore core
        { k with el := k.el + n, fcyc := min (k.fcyc + n) (2 ^ 32 - 1), oven := k.oven + n
                 fcnt := if ends then min (k.fcnt + 1) (2 ^ 32 - 1) else k.fcnt })

end Sys2Proof.Machine
end

