-- ==== Sys2Proof/Machine/Mtx.lean ====
section
/-! DEFINITION. The matrix queue and the instructions of the MTX slot, the scale latches and the instructions of the SCL
slot (R80, R83, R154 to R157, R164, R167 to R170, R192). -/

namespace Sys2Proof.Machine

/-! ### Slots of the accumulator -/

/-- The slot that a handle names: a bank in compatibility mode, else the slot it is mapped to (R167, R168). -/
def Ctx.slotFor (x : Ctx) (h : Nat) : Option Nat :=
  if x.compat then some h else (x.handles.find? fun p => p.1 == h).map (·.2)

/-- Every element of a slot zeroed, its mode float (R162). -/
def Core.zeroSlot (k : Core) (slot : Nat) : Core :=
  { k with acm := tabBelow k.acm (16384 * slot) ++ tabFrom k.acm (16384 * (slot + 1)), slotInt := tabErase k.slotInt slot }

/-- A handle mapped to a slot of the free list, the slot zeroed (R155, R167). -/
def State.mapHandle (s : State) (h : Nat) : State :=
  let x := s.me
  let k := s.mine
  if (x.slotFor h).isSome then s
  else match k.free with
    | [] => s
    | slot :: rest => (s.setMe { x with handles := tabPut x.handles h slot }).setMine ({ k with free := rest }.zeroSlot slot)

/-! ### The queue -/

def isArray : MatrixOp → Bool
  | .drain .. => false
  | _ => true

/-- The queue is full (R154). -/
def Core.matrixFull (k : Core) : Bool := 8 ≤ k.mq.length

/-- An entry committed into the queue (R154). -/
def State.queueMatrix (s : State) (op : MatrixOp) : State :=
  let k := s.mine
  let e : MatrixEntry := { ctx := s.fl.ctx, at' := s.fl.t, op := op, mark := s.portId, begun := false }
  ({ s with portId := s.portId + 1 }).setMine { k with mq := k.mq ++ [e] }

/-! ### Routines -/

/-- Formats, K, scale use and INT of the ROM routines 1 to 9 (R157). -/
def romFormats : Nat → Option (BitVec 5 × BitVec 5 × Nat × Bool × BitVec 1)
  | 1 => some (3, 3, 128, false, 0)
  | 2 => some (4, 4, 128, false, 0)
  | 3 => some (3, 4, 128, false, 0)
  | 4 => some (8, 8, 128, true, 0)
  | 5 => some (12, 12, 256, true, 0)
  | 6 => some (1, 1, 64, false, 0)
  | 7 => some (2, 2, 64, false, 0)
  | 8 => some (17, 17, 128, false, 1)
  | 9 => some (16, 16, 256, false, 1)
  | _ => none

/-- The micro-instructions of a ROM routine (R157). The rule lists the two MSCALE words of entries 4 and 5 apart from the order of the
others: they stand after MSETK, so that the copies of those entries begin two cycles later (DESIGN CHOICE, log entry 103). -/
def romCode (entry : Nat) : List Instr :=
  match romFormats entry with
  | none => [.mend]
  | some (a, b, k, scale, int) =>
    [.mfmt a b, .msetk (BitVec.ofNat 12 (k - 1))] ++ (if scale then [.mscale 0 1, .mscale 1 1] else [])
      ++ [.mlda 0 0 127, .mldb 1 0 127, .macc 2 int, .mstep (BitVec.ofNat 8 (k / 32 - 1)), .mend]

/-- The kinds of p0 to p7 as one field of two bits each (R156, R157). -/
def romKinds (entry : Nat) : Nat := if (romFormats entry).isSome then 1 + 1 * 4 + 2 * 16 else 0

def kindOf (kinds j : Nat) : Nat := bits kinds (2 * j) 2

/-- The kinds of an entry in the committed entry table; none where it holds no routine (R155). -/
def Core.committedKinds (k : Core) (entry : Nat) : Option Nat :=
  if entry < 16 then some (romKinds entry)
  else match k.mq.reverse.findSome? fun e => match e.op with
      | .mpsld n _ kinds _ => if n = entry then some kinds else none
      | _ => none with
    | some kinds => some kinds
    | none => (k.entries.find? fun p => p.1 == entry).map fun p => p.2.2.2

def causeMcallArg : Nat := 0x28

/-- A parameter that MCALL rejects: a reserved bit, or a tile that is not granted (R155, R156). -/
def argBad (tgrant kind p : Nat) : Bool :=
  match kind with
  | 1 => p / 2 ^ 16 != 0 || bits p 4 4 != 0 || !bitOf tgrant (p % 16)
  | 2 => p / 16 != 0
  | _ => false

/-- Output handles of a call (R155). -/
def outHandles (kinds : Nat) (ps : List Word64) : List Nat :=
  ((ps.zipIdx).filterMap fun p => if kindOf kinds p.2 = 2 then some (p.1.toNat % 16) else none).eraseDups

/-- Handles among some that have no slot. -/
def Ctx.unmapped (x : Ctx) (hs : List Nat) : List Nat := hs.filter fun h => (x.slotFor h).isNone

/-- MCALL: checks against the committed entry table, then maps the output handles and queues the routine with its
parameters and tile shapes; a full queue or too few free slots keep the bundle from issuing (R154, R155). -/
def execMcall (entry : BitVec 6) (s : State) : Result :=
  let e := entry.toNat
  done s (match s.mine.committedKinds e with
    | none => s.slotFault causeMcallArg e 0
    | some kinds =>
      let ps := (List.range 8).map s.opP
      if (ps.zipIdx).any fun p => argBad s.me.tgrant (kindOf kinds p.2) p.1.toNat then s.slotFault causeMcallArg e 0
      else
        let hs := s.me.unmapped (outHandles kinds ps)
        if s.mine.matrixFull || s.mine.free.length < hs.length then s.endFlight
        else
          let shapes : Tab (BitVec 32) := (List.range 16).map fun t => (t, s.opTctl t)
          (hs.foldl State.mapHandle s).queueMatrix (.call e kinds ps shapes))

/-! ### Slots in native mode -/

/-- ACZ: illegal in compatibility mode; an unmapped handle is mapped at commit (R80, R167). -/
def execAcz (slot : BitVec 4) (s : State) : Result :=
  let h := slot.toNat
  done s (if s.me.compat then s.illegal (2 ^ 10)
    else if s.mine.matrixFull || ((s.me.slotFor h).isNone && s.mine.free.isEmpty) then s.endFlight
    else (s.mapHandle h).queueMatrix (.acz h))

/-- ACREL: illegal in compatibility mode (R80, R167). -/
def execAcrel (slot : BitVec 4) (s : State) : Result :=
  done s (if s.me.compat then s.illegal (2 ^ 10)
    else if s.mine.matrixFull then s.endFlight
    else s.queueMatrix (.acrel slot.toNat))

/-! ### Own PM as a slot's commit finds it -/

/-- Memory as the slots of the bundle so far, and the earlier bundles of the context, leave its core's own PM: what of theirs the port
still holds is performed in its order (R50, R122, R169, R170) (DEDUCED, log entry 73). -/
def State.ownSeen (s : State) : State :=
  let c := s.fl.ctx
  if s.red = [] ∧ s.me.port.all (fun i => !i.own) then s
  else
    (s.me.port.filter (·.own)).foldl (fun s i => match i.op with
      | .store cells => s.storeCells cells
      | .amo .. => s.perform c i
      | .red .. => s.perform c i
      | _ => s) s

/-- A byte of own PM after every PM write of the context's slots so far (R122, R169, R170). -/
def State.commitByte (s : State) (k : Nat) : Byte := s.ownSeen.seen k

/-- A PM address, with an extent, lies in the issuing core's own PM (R169, R192). -/
def ownPm (core a n : Nat) : Bool := a / 2 ^ 21 == core % 8 && !bitOf a 20 && a % 2 ^ 20 + n ≤ 2 ^ 20

def pmKey (core a : Nat) : Nat := keyOf (.pm core (a % 2 ^ 20))

/-- `n` bytes of the issuing core's own PM at a commit. -/
def State.commitNat (s : State) (a n : Nat) : Nat :=
  let t := s.ownSeen
  readLe t.seen (pmKey s.myCore a) n

/-- The error that such a read meets (R360) (DEDUCED, log entry 77). -/
def State.commitBad (s : State) (a n : Nat) : Option AFault :=
  s.ownSeen.hardFault [] a ((keysFrom (pmKey s.myCore a) n).map .key)

/-! ### Loading routines -/

/-- Chunk time and whether the pair is an integer pair, of the format pairs that R161 accepts. -/
def formatPair (a b : Nat) : Option (Nat × Bool) :=
  let eight (f : Nat) : Bool := 3 ≤ f && f ≤ 12
  let int (f : Nat) : Bool := f == 13 || f == 14 || f == 16 || f == 17
  if (a = 1 ∧ b = 1) ∨ (a = 2 ∧ b = 2) then some (64, false)
  else if eight a && eight b then some (if (a == 7 || a == 12) && (b == 7 || b == 12) then 16 else 32, false)
  else if int a && int b then
    if fmtWidth a = 4 ∧ fmtWidth b = 4 then (if a = b then some (16, true) else none) else some (32, true)
  else none

/-- A micro-instruction that the image of a routine may hold (R83, R159, R161, R169). -/
def microOk (kinds base words : Nat) : Instr → Bool
  | .mlda p _ _ | .mldb p _ _ | .mzp _ p | .mrowb _ p => kindOf kinds p.toNat == 1
  | .macc p _ | .mclr p => kindOf kinds p.toNat == 2
  | .mfmt a b => (formatPair a.toNat b.toNat).isSome
  | .mloop _ top => base ≤ top.toNat && top.toNat < base + words
  | .mjmp target => base ≤ target.toNat && target.toNat < base + words
  | _ => true

def wordOk (kinds base words w : Nat) : Bool :=
  match decodeSlot .micro w with
  | .ok i => microOk kinds base words i
  | .bad _ => false

def causeMpsImg : Nat := 0x29

/-- MPSLD: the image is read and checked at commit, and the checked words are queued (R83, R169) (DEDUCED, log entry 31). -/
def execMpsld (p : BitVec 3) (s : State) : Result :=
  let v := (s.opP p.toNat).toNat
  let a := v % 2 ^ 24
  let entry := bits v 24 6
  let h := s.commitNat a 8
  let n := h % 2 ^ 10 + 1
  let base := bits h 10 10
  let kinds := bits h 20 16
  let words := (List.range n).map fun i => s.commitNat (a + 8 + 4 * i) 4
  done s (
    if s.mine.matrixFull then s.endFlight
    else if entry < 16 ∨ a % 8 ≠ 0 ∨ !ownPm s.myCore a 8 then s.slotFault causeMpsImg entry 0
    else match s.commitBad a 8, s.commitBad a (8 + 4 * n) with
      | some e, _ => s.accessFault e
      | none, bad =>
        if h / 2 ^ 36 ≠ 0 ∨ 1024 < base + n ∨ !ownPm s.myCore a (8 + 4 * n)
            ∨ (List.range 8).any (fun j => kindOf kinds j == 3) then s.slotFault causeMpsImg entry 0
        else match bad with
          | some e => s.accessFault e
          | none =>
            if words.all (wordOk kinds base n) then s.queueMatrix (.mpsld entry base kinds words)
            else s.slotFault causeMpsImg entry 0)

/-! ### Drains -/

/-- Formats of a drain's output (R170). -/
def drainFormat (f : Nat) : Bool := f ≤ 12 || (17 ≤ f && f ≤ 19) || f == 21

/-- An area of PM or scratchpad that a drain may write, at an address of R105, with the ways converted now (R170). -/
def areaOk (s : State) (a n : Nat) : Bool :=
  a / 2 ^ 24 == 0 && if bitOf a 20 then
      bits a 18 2 == 0 && a % 2 ^ 18 + n ≤ 16384 * (s.core (clusterOf s.myCore * 8 + bits a 21 3)).nw
    else a % 2 ^ 20 + n ≤ 2 ^ 20

def overlap (a n b m : Nat) : Bool := a < b + m && b < a + n

/-- Fields of a drain descriptor (R170). -/
structure DrainDesc where
  sieve : Nat
  scale : Nat
  lo : Nat
  hi : Nat
  ofmt : Nat
  sat : Bool
  rows : Nat
  flag : Nat
  fen : Bool
  dst : Nat
  pitch : Nat
  saddr : Nat
  spitch : Nat
  svout : Nat
  deriving DecidableEq, Repr

def drainDesc (w : List Nat) : DrainDesc :=
  let w3 := w.getD 3 0
  { sieve := w.getD 0 0, scale := w.getD 1 0 % 2 ^ 32, lo := w.getD 2 0 % 2 ^ 32, hi := w.getD 2 0 / 2 ^ 32, ofmt := w3 % 32
    sat := bitOf w3 5, rows := bits w3 6 7 + 1, flag := bits w3 13 5, fen := bitOf w3 18, dst := w.getD 4 0
    pitch := w.getD 5 0 % 2 ^ 32, saddr := w.getD 6 0 % 2 ^ 24, spitch := w.getD 6 0 / 2 ^ 32, svout := w.getD 7 0 % 2 ^ 24 }

/-- Bytes of one output row of `w` elements. -/
def packedRow (f w : Nat) : Nat := w * fmtWidth f / 8
/-- Vector registers of one output row (R171). -/
def rowRegs (f w : Nat) : Nat := (w * fmtWidth f + 1023) / 1024

/-- A descriptor that DRAINDESC rejects (R170, R192); `w` holds its eight words. -/
def drainBad (s : State) (w : List Nat) (grp : Nat) (toRegs adjoint : Bool) : Bool :=
  let d := drainDesc w
  let width := 128 * (grp + 1)
  let block := isBlockFmt d.ofmt
  let c := sieveCtl d.sieve
  let row := packedRow d.ofmt width
  let out := (d.rows - 1) * d.pitch + row
  let plane := (d.rows - 1) * d.spitch + width / 2
  let table := if c.prow then 8 * d.rows else 8
  let recs := d.rows * recordPitch width
  w.getD 1 0 / 2 ^ 32 != 0 || w.getD 3 0 / 2 ^ 19 != 0 || w.getD 5 0 / 2 ^ 32 != 0 || bits (w.getD 6 0) 24 8 != 0
    || w.getD 7 0 / 2 ^ 24 != 0 || d.dst / 2 ^ (if toRegs then 9 else 24) != 0 || !drainFormat d.ofmt
    || (d.sat && d.ofmt != 4) || d.pitch % 32 != 0
    || (if toRegs then block || 320 < d.dst + d.rows * rowRegs d.ofmt width else d.dst % 32 != 0 || !areaOk s d.dst out)
    || (if block then d.saddr % 32 != 0 || !areaOk s d.saddr plane else d.saddr != 0)
    || !sieveWordOk d.sieve
    || (sieveParams c adjoint && (c.paddr % 8 != 0 || !ownPm s.myCore c.paddr table))
    || (c.set != 0 && (d.svout % 32 != 0 || !ownPm s.myCore d.svout recs
      || (sieveParams c adjoint && overlap d.svout recs c.paddr table)
      || (block && overlap d.svout recs d.saddr plane) || (!toRegs && overlap d.svout recs d.dst out)))

def causeDrainDesc : Nat := 0x2A

/-- A drain queued with a copy of its descriptor, or DRAINDESC (R170, R192). -/
def State.queueDrain (s : State) (slot grp p : Nat) (toRegs adjoint : Bool) : State :=
  let v := (s.opP p).toNat
  let ws := (List.range 8).map fun i => s.commitNat (v + 8 * i) 8
  if s.mine.matrixFull then s.endFlight
  else if v / 2 ^ 24 ≠ 0 ∨ v % 64 ≠ 0 ∨ !ownPm s.myCore v 64 then s.slotFault causeDrainDesc 0 0
  else match s.commitBad v 64 with
  | some e => s.accessFault e
  | none =>
    if drainBad s ws grp toRegs adjoint then s.slotFault causeDrainDesc 0 0
    else s.queueMatrix (.drain slot grp toRegs adjoint (ws.map (BitVec.ofNat 64)))

def execAcwb (slot : BitVec 4) (grp p : BitVec 3) (dst : BitVec 1) (s : State) : Result :=
  done s (s.queueDrain slot.toNat grp.toNat p.toNat (dst == 1) false)

def execAcadj (slot : BitVec 4) (grp p : BitVec 3) (dst : BitVec 1) (s : State) : Result :=
  done s (s.queueDrain slot.toNat grp.toNat p.toNat (dst == 1) true)

def execMnop (s : State) : Result := done s s

/-! ### Scale latches -/

def latchKey (side row : Nat) : Nat := 128 * side + row

/-- A change of latches that has taken effect, written into them (R164). -/
def applyLatch (t : Tab Nat) (w : LatchWrite) : Tab Nat :=
  (w.codes.zipIdx).foldl (fun t c => if w.row + c.2 < 128 then tabPut t (latchKey w.side (w.row + c.2)) c.1 else t) t

/-- The latch of a side and row at a cycle (R164) (DEDUCED, log entry 75). -/
def Core.latchAt (k : Core) (side row cyc : Nat) : Nat :=
  k.latchIn.foldl (fun v w =>
    if w.side = side ∧ w.at' ≤ cyc ∧ w.row ≤ row ∧ row < w.row + w.codes.length then w.codes.getD (row - w.row) v else v)
    (tabGet 0x1F0 k.latches (latchKey side row))

/-- The first cycle whose latch values may still be read. -/
def Core.latchFrom (k : Core) : Nat :=
  match k.routine with
  | some r => min k.cyc (r.begins - r.late)
  | none => k.cyc

/-- Latch changes that every later reader sees stand in the latches themselves (DEDUCED, log entry 75). -/
def Core.settleLatches (k : Core) : Core :=
  let old := k.latchIn.takeWhile fun w => w.at' ≤ k.latchFrom
  { k with latches := old.foldl applyLatch k.latches, latchIn := k.latchIn.drop old.length }

/-- An SCL instruction: it takes effect for blocks that begin 6 cycles after its issue, and counts for an MWAITS (R164). -/
def State.scale (s : State) (side row : Nat) (codes : List Nat) : State :=
  let k := s.mine.settleLatches
  let w : LatchWrite := { at' := s.fl.t + 6, side := side, row := row, codes := codes }
  let r := k.routine.map fun r =>
    if side = 0 then { r with sclA := r.sclA ++ [s.fl.t] } else { r with sclB := r.sclB ++ [s.fl.t] }
  s.setMine { k with latchIn := k.latchIn ++ [w], routine := r }

def execSlnop (s : State) : Result := done s s

def execSlatch (side : BitVec 1) (v : BitVec 9) (half : BitVec 1) (s : State) : Result :=
  let x := s.opV 0 v.toNat
  done s (s.scale side.toNat (64 * half.toNat) ((List.range 64).map fun i => elemAt x 16 i % 1024))

def execSlclr (side : BitVec 1) (s : State) : Result := done s (s.scale side.toNat 0 (List.replicate 128 0x1F0))

end Sys2Proof.Machine
end

