-- ==== Sys2Proof/Machine/Micro.lean ====
section
/-! DEFINITION. Routines, micro-instructions and the events of the matrix queue (R34, R35, R154, R158 to R166, R169, R171,
R173). A micro-instruction acts on the running routine of the core in flight, at the last cycle of its duration. -/

namespace Sys2Proof.Machine

/-- The running routine takes its next state, the micro-instruction having lasted some cycles (R158). -/
def State.microStep (s : State) (cycles : Nat) (f : Routine → Routine) : State :=
  let k := s.mine
  match k.routine with
  | none => s
  | some r =>
    let r' := f { r with mpc := r.mpc + 1, begins := r.begins + cycles }
    s.setMine { k with routine := some r' }

/-- The bank pointers of a context's banks return to 0 (R168). -/
def Core.resetPointers (k : Core) (banks : List Nat) : Core := { k with bankPtr := banks.foldl tabErase k.bankPtr }

/-- The queue without its first entry that has begun and is of a class. -/
def dropBegun (array : Bool) : List MatrixEntry → List MatrixEntry
  | [] => []
  | e :: t => if e.begun && isArray e.op == array then t else e :: dropBegun array t

/-- Flags of a routine or a drain merged into the context that started it (R33, R210). -/
def State.mergeLate (s : State) (c flags : Nat) : State :=
  if flags = 0 then s else s.setCtx c ((s.ctx c).merge flags (2 ^ 10))

/-- The routine of a core ends in the cycle in which its last micro-instruction begins (R158). -/
def State.endRoutine (s : State) (core extra : Nat) : State :=
  let k := s.core core
  match k.routine with
  | none => s
  | some r =>
    let banks := if (s.ctx r.ctx).compat then r.wrote else []
    let k' := { k with routine := none, mq := dropBegun true k.mq, mtxFrom := r.begins + 1 }.resetPointers banks
    (s.setCore core k').mergeLate r.ctx (r.flags ||| extra)

/-! ### Operand copies -/

/-- Writes that retire into a tile in this cycle: data that has arrived, and results that are due (R160). -/
def State.copyNews (s : State) (core t : Nat) : List (Nat × List Byte) :=
  (List.range 4).flatMap fun j => (s.ctx (4 * core + j)).pend.flatMap fun p =>
    match p.w with
    | .tile n runs =>
      if n = t ∧ p.ready ∧ (p.kind = .landing ∨ p.due ≤ (s.core core).cyc) then runs else []
    | _ => []

/-- The 16,384 bytes of a tile as a copy of this cycle finds them: each word that a write of the cycle reaches has its old
or its new value (R160, R173) (DEDUCED, log entry 41). -/
def State.tileBytes (s : State) (core t : Nat) : List Byte :=
  let old := tabDense 0 16384 (16384 * t) (s.core core).tiles
  let news := s.copyNews core t
  if news = [] then old
  else (old.zipIdx).map fun b =>
    match news.find? fun r => r.1 ≤ b.2 && b.2 < r.1 + r.2.length with
    | some r => if Config.freeBool (s.fresh + b.2 / 4) then r.2.getD (b.2 - r.1) 0 else b.1
    | none => b.1

/-- A copy of rows of the tile that a parameter names (R160). -/
def State.copyTile (s : State) (r : Routine) (p row0 nrow : Nat) : OpCopy :=
  let v := (r.params.getD p 0).toNat
  let t := v % 16
  let shape := tabGet 0 r.shapes t
  let bytes := s.tileBytes s.myCore t
  let n := min nrow (tcRows shape + 1 - row0)
  { rows := (List.range n).map fun i => leNat ((bytes.drop (128 * (row0 + i))).take (tcBpr shape + 1))
    row0 := row0, nrow := nrow, shape := shape, koff := bits v 8 8, kc0 := r.kc }

/-- A copy has used the free choices of its races. -/
def State.copied (s : State) (r : Routine) (p : Nat) : State :=
  s.raced (s.copyNews s.myCore ((r.params.getD p 0).toNat % 16))

/-- A micro-instruction that copies a tile (R160, R165). -/
def State.microCopy (s : State) (p row0 nrow : Nat) (f : Routine → OpCopy → Routine) : State :=
  match s.mine.routine with
  | none => s
  | some r => (s.microStep 1 fun r' => f r' (s.copyTile r p row0 nrow)).copied r p

/-! ### Operands -/

/-- Whole elements of a row of a copy (R160). -/
def rowElements (bpr fmt : Nat) : Nat := if fmtWidth fmt = 6 then bpr / 3 * 4 else 8 * bpr / fmtWidth fmt

/-- ZP of R165: the zero point of a group, 0 where its record is missing. -/
def zeroPoint (z : Option OpCopy) (row g fmt : Nat) : Nat :=
  match z with
  | none => 0
  | some z =>
    if z.rows.length ≤ row ∨ tcBpr z.shape + 1 < 4 * g + 4 then 0
    else bits (z.rows.getD row 0) (32 * g + 16) (if fmt = 13 then 4 else 8)

/-- OpValue of R160: element `k` of row `row` of a copy, with the flags of its scale's product (R31). `first` is the first
cycle of the element's block. -/
def Core.opValue (c : Core) (r : Routine) (side fmt : Nat) (x : OpCopy) (row k first : Nat) : Res Val :=
  let j : Int := (k : Int) - 32 * (x.kc0 : Int) + 32 * (x.koff : Int)
  if tcRows x.shape < row ∨ j < 0 ∨ (rowElements (tcBpr x.shape + 1) fmt : Int) ≤ j ∨ row < x.row0
      ∨ x.row0 + x.rows.length ≤ row then ⟨zeroVal, 0⟩
  else
    let e := j.toNat
    let code := elemAt (x.rows.getD (row - x.row0) 0) (fmtWidth fmt) e
    if isBlockFmt fmt then
      if (if side = 0 then r.scaleA else r.scaleB) then
        match sc10Value (c.latchAt side row first) with
        | .nan => ⟨.nan, 0⟩
        | sc => mulVal (decodeFloat code fmt) sc
      else ⟨decodeFloat code fmt, 0⟩
    else if fmt = 13 ∨ fmt = 14 then
      ⟨valOfInt ((code : Int) - zeroPoint (if side = 0 then r.zpA else r.zpB) row (e / (32 * 2 ^ tcGsz x.shape)) fmt), 0⟩
    else ⟨decodeElem code fmt, 0⟩

/-- Elements of a row for the contraction indices of a chunk that begins at a cycle (R161). -/
def Core.opRow (c : Core) (r : Routine) (side fmt : Nat) (x : Option OpCopy) (row : Nat) (ks : List Nat) (begin' iv : Nat) :
    List (Res Val) :=
  match x with
  | none => ks.map fun _ => ⟨zeroVal, 0⟩
  | some x => ks.map fun k => c.opValue r side fmt x row k (begin' + k % 32 / 4 * iv)

/-! ### Products -/

/-- The exact sum of a chunk (R34) (DEDUCED, log entry 30). -/
def chunkSum (skip : Bool) : List Val → List Val → Res Val → Res Val
  | x :: xs, y :: ys, s =>
    if skip && (isZero x || isZero y) && (!isFin x || !isFin y) then chunkSum skip xs ys ⟨s.val, s.flags ||| flagSkip⟩
    else
      let p := mulVal x y
      let t := addVal s.val p.val
      chunkSum skip xs ys ⟨t.val, s.flags ||| p.flags ||| t.flags⟩
  | _, _, s => s

/-- An element after one chunk of MatAcc, with the flags of its operands (R34, R160) (DEDUCED, log entry 30). -/
def accFloat (skip : Bool) (acc : BitVec 32) (xs ys : List (Res Val)) : Res (BitVec 32) :=
  let s := chunkSum skip (xs.map (·.val)) (ys.map (·.val)) ⟨zeroVal, resFlags xs ||| resFlags ys⟩
  let t := addVal (decodeFloat acc.toNat 0) s.val
  let n := narrow t.val 0 false
  ⟨BitVec.ofNat 32 n.val, s.flags ||| t.flags ||| n.flags⟩

def intOfVal : Val → Int
  | .fin n a b => if n then -((a / b : Nat) : Int) else (a / b : Nat)
  | _ => 0

/-- An element after one chunk of MatAccInt (R35). -/
def accInt (acc : BitVec 32) (xs ys : List (Res Val)) : Res (BitVec 32) :=
  let s := (List.zipWith (fun (x y : Res Val) => intOfVal x.val * intOfVal y.val) xs ys).foldl (· + ·) acc.toInt
  if s > 2 ^ 31 - 1 then ⟨BitVec.ofInt 32 (2 ^ 31 - 1), flagOvf⟩
  else if s < -2 ^ 31 then ⟨BitVec.ofInt 32 (-2 ^ 31), flagOvf⟩
  else ⟨BitVec.ofInt 32 s, 0⟩

/-- Rows of a window within an operand edge. -/
def window (x : Option OpCopy) : List Nat :=
  match x with
  | none => []
  | some x => (List.range x.nrow).filterMap fun i => if x.row0 + i < 128 then some (x.row0 + i) else none

/-- One chunk of MSTEP on a slot (R161): the accumulators and the flags. -/
def Core.chunk (c : Core) (r : Routine) (int : Bool) (slot chunkNo begin' iv : Nat) (acm : Tab (BitVec 32)) :
    Tab (BitVec 32) × Flags6 :=
  let ks := (List.range 32).filterMap fun i => if 32 * chunkNo + i < r.k then some (32 * chunkNo + i) else none
  let ns := window r.opB
  let rowsB := ns.map fun n => c.opRow r 1 r.bfmt r.opB n ks begin' iv
  let rowsB2 := match r.opB2 with
    | none => rowsB
    | some x => ns.map fun n => c.opRow r 1 r.bfmt (some x) n ks begin' iv
  (window r.opA).foldl (fun (st : Tab (BitVec 32) × Flags6) m =>
    let xs := c.opRow r 0 r.afmt r.opA m ks begin' iv
    let lo := 16384 * slot + 128 * m + ns.headD 0
    let olds := tabDense 0 ns.length lo st.1
    let news := List.zipWith (fun old ys => if int then accInt old xs ys else accFloat r.skip old xs ys) olds
      (if r.rowb ≤ m then rowsB2 else rowsB)
    (tabRange 0 st.1 lo (news.map (·.val)), news.foldl (fun f n => f ||| n.flags) st.2)) (acm, 0)

/-- A chunk of the running MSTEP has elements to update: it lies below K, its windows are not empty, and some column computes it right
(R161, R358). -/
def Routine.reaches (r : Routine) (i : Nat) : Bool :=
  !r.bad.contains i && decide (32 * (r.kc + i) < r.k) && window r.opA != [] && window r.opB != []

/-- A chunk of the running MSTEP updates the word at a key of its slot (R161). -/
def Routine.updates (r : Routine) (int : Bool) (i key : Nat) : Bool :=
  r.reaches i && int == r.int && (window r.opA).contains (key % 16384 / 128) && (window r.opB).contains (key % 128)

/-- The word at a key after the writes of programs to it during a chunk whose race fell out as `take` says: 0 the write came last, 1 it came
first, 2 the chunk passed it over (R168, log entry 7) (DEDUCED, log entry 29). -/
def Routine.putOn (r : Routine) (i key : Nat) (take : Nat → Bool) (old : BitVec 32) : BitVec 32 :=
  r.puts.foldl (fun w p =>
    if p.chunk = i ∧ p.key ≤ key ∧ key < p.key + 32 ∧ take (Config.freeNat (p.choice + (key - p.key)) % 3) then
      BitVec.ofNat 32 (elemAt p.value 32 (key - p.key))
    else w) old

/-- The same of all the words that programs wrote during a chunk. -/
def Routine.putRows (r : Routine) (i : Nat) (take : Nat → Nat → Bool) (acm : Tab (BitVec 32)) : Tab (BitVec 32) :=
  (r.puts.filter fun p => p.chunk = i).foldl (fun t p =>
    tabRange 0 t p.key (((tabDense 0 32 p.key t).zipIdx).map fun w =>
      if take (p.key + w.2) (Config.freeNat (p.choice + w.2) % 3) then BitVec.ofNat 32 (elemAt p.value 32 w.2) else w.1)) acm

/-- The race of a program's write with a chunk leaves the word as written: the write came last, or the chunk does not update the word. -/
def Routine.putLast (r : Routine) (int : Bool) (i key choice : Nat) : Bool := choice == 0 || (choice == 2 && !r.updates int i key)

/-- The chunks of an MSTEP in ascending order, each with the writes of programs that met it (R161, R168): accumulators, flags, and whether the
target was written (DEDUCED, log entry 75). -/
def Core.chunks (c : Core) (r : Routine) (slot time : Nat) (intPair : Bool) :
    List Nat → Tab (BitVec 32) → Flags6 → Bool → Tab (BitVec 32) × Flags6 × Bool
  | [], acm, f, w => (acm, f, w)
  | i :: is, acm, f, w =>
    let acm := r.putRows i (fun _ n => n == 1) acm
    if r.reaches i && intPair == r.int then
      let o := c.chunk r intPair slot (r.kc + i) (r.begins - r.late + i * time) (time / 8) acm
      Core.chunks c r slot time intPair is (r.putRows i (r.putLast intPair i) o.1) (f ||| o.2) true
    else Core.chunks c r slot time intPair is (r.putRows i (r.putLast intPair i) acm) (if r.reaches i then f ||| flagInv else f) w

/-! ### Micro-instructions -/

def execMidle (cnt : BitVec 10) (s : State) : Result := done s (s.microStep (cnt.toNat + 1) id)

def execMlda (p : BitVec 3) (row0 nrow : BitVec 7) (s : State) : Result :=
  done s (s.microCopy p.toNat row0.toNat (nrow.toNat + 1) fun r x => { r with opA := some x })

def execMldb (p : BitVec 3) (row0 nrow : BitVec 7) (s : State) : Result :=
  done s (s.microCopy p.toNat row0.toNat (nrow.toNat + 1) fun r x => { r with opB := some x })

/-- The first chunks of the running MSTEP, on its target: its accumulators, its mode and the flags (R161). -/
def State.runChunks (s : State) (n : Nat) : State :=
  match s.mine.routine with
  | none => s
  | some r =>
    let (time, int) := (formatPair r.afmt r.bfmt).getD (1, false)
    match r.target.bind (s.ctx r.ctx).slotFor with
    | none => s
    | some slot =>
      let k := s.mine
      let o := k.chunks r slot time int (List.range n) k.acm 0 false
      let ints := if o.2.2 then tabPut k.slotInt slot r.int else k.slotInt
      let r' := { r with flags := r.flags ||| o.2.1, wrote := if o.2.2 then slot :: r.wrote else r.wrote }
      s.setMine { k with acm := o.1, slotInt := ints, routine := some r' }

/-- MSTEP: its chunks at their cycles, done as one when it has ended (R161); each repeat of a chunk makes it longer by the chunk
time, and a chunk that no column computes right leaves the target unchanged (R358) (DEDUCED, log entries 75, 76). -/
def execMstep (nch : BitVec 8) (s : State) : Result :=
  let n := nch.toNat + 1
  done s (match s.mine.routine with
    | none => s
    | some r =>
      let time := ((formatPair r.afmt r.bfmt).getD (1, false)).1
      let again := r.reps.length * time
      (s.runChunks n).microStep (n * time + again) fun r' =>
        { r' with kc := r.kc + n, bad := [], reps := [], puts := [], late := r.late + again })

def execMscale (side en : BitVec 1) (s : State) : Result :=
  done s (s.microStep 1 fun r => if side = 0 then { r with scaleA := en == 1 } else { r with scaleB := en == 1 })

/-- MZP: the whole record tile (R165). -/
def execMzp (side : BitVec 1) (p : BitVec 3) (s : State) : Result :=
  done s (s.microCopy p.toNat 0 128 fun r x => if side = 0 then { r with zpA := some x } else { r with zpB := some x })

def execMskip (en : BitVec 1) (s : State) : Result := done s (s.microStep 1 fun r => { r with skip := en == 1 })

/-- MROWB: the second B operand has the window of B (R159): the copy holds the rows of B's window of its own cycle, and a row
that a later MLDB adds reads zero in it (DEDUCED, log entry 90). -/
def execMrowb (row : BitVec 7) (p : BitVec 3) (s : State) : Result :=
  let w : Nat × Nat := match s.mine.routine with
    | some r => (match r.opB with
      | some b => (b.row0, b.nrow)
      | none => (0, 0))
    | none => (0, 0)
  done s (s.microCopy p.toNat w.1 w.2 fun r x => { r with opB2 := some x, rowb := row.toNat })

/-- The handle in a parameter register. -/
def Routine.handle (r : Routine) (p : Nat) : Nat := (r.params.getD p 0).toNat % 16

def execMacc (p : BitVec 3) (int : BitVec 1) (s : State) : Result :=
  done s (s.microStep 1 fun r => { r with target := some (r.handle p.toNat), int := int == 1 })

/-- MLOOP (R163): a push onto a full stack ends the routine with INV. -/
def execMloop (cnt top : BitVec 10) (s : State) : Result :=
  done s (match s.mine.routine with
    | none => s
    | some r =>
      let first := match r.loops with
        | [] => true
        | l :: _ => l.1 != r.mpc
      if first && 4 ≤ r.loops.length then s.endRoutine s.myCore flagInv
      else
        let loops := if first then (r.mpc, cnt.toNat + 1) :: r.loops else r.loops
        match loops with
        | [] => s
        | l :: rest =>
          s.microStep 1 fun r' =>
            if 1 < l.2 then { r' with mpc := top.toNat, loops := (l.1, l.2 - 1) :: rest } else { r' with loops := rest })

def execMend (s : State) : Result := done s (s.endRoutine s.myCore 0)

def execMfmt (afmt bfmt : BitVec 5) (s : State) : Result :=
  done s (s.microStep 1 fun r => { r with afmt := afmt.toNat, bfmt := bfmt.toNat })

def execMsetk (k : BitVec 12) (s : State) : Result := done s (s.microStep 1 fun r => { r with k := k.toNat + 1 })

/-- MCLR: every element of the handle zero, its mode float (R159, R162); a program's write to the bank in its cycle comes before or after it,
word by word (R168). -/
def execMclr (p : BitVec 3) (s : State) : Result :=
  done s (match s.mine.routine with
    | none => s
    | some r =>
      let s' := s.microStep 1 fun r' => { r' with puts := [] }
      match (s.ctx r.ctx).slotFor (r.handle p.toNat) with
      | none => s'
      | some slot =>
        let k := s'.mine.zeroSlot slot
        s'.setMine { k with acm := r.putRows 0 (fun _ n => n == 0) k.acm, routine := k.routine.map fun r' => { r' with wrote := slot :: r'.wrote } })

def execMjmp (target : BitVec 10) (s : State) : Result := done s (s.microStep 1 fun r => { r with mpc := target.toNat })

/-- MWAITS: consumes the next SCL instruction of its side; with none committed the routine holds (R164). -/
def execMwaits (side : BitVec 1) (s : State) : Result :=
  done s (match s.mine.routine with
    | none => s
    | some r =>
      match if side = 0 then r.sclA else r.sclB with
      | [] => s
      | t :: rest =>
        let n := max 1 (t + 6 - r.begins)
        s.microStep n fun r' =>
          let r' := { r' with late := r.late + n - max 1 (t + 6 + r.late - r.begins) }
          if side = 0 then { r' with sclA := rest } else { r' with sclB := rest })

/-! ### Events of the queue -/

/-- The routine state of R158 at a begin. -/
def Routine.start (ctx base len cyc : Nat) (ps : List Word64) (shapes : Tab (BitVec 32)) : Routine :=
  { ctx := ctx, base := base, len := len, mpc := base, begins := cyc, params := ps, shapes := shapes, afmt := 3, bfmt := 3
    k := 128, kc := 0, opA := none, opB := none, opB2 := none, rowb := 128, scaleA := false, scaleB := false
    zpA := none, zpB := none, skip := false, target := none, int := false, loops := [], flags := 0, bad := [], reps := [], late := 0
    puts := [], sclA := [], sclB := [], wrote := [] }

/-- The micro-instruction at a routine's micro-PC; past its words an MEND stands (R158). That holds of every word outside the entry's own: a
jump or a loop of words that another image has overwritten since the entry was loaded finds an MEND there too, of which the rule does not
speak (DESIGN CHOICE, log entry 104). -/
def Core.microAt (k : Core) (r : Routine) : Instr :=
  if r.mpc < r.base ∨ r.base + r.len ≤ r.mpc then .mend
  else if 1024 ≤ r.base then (romCode ((r.base - 1024) / 64)).getD (r.mpc - r.base) .mend
  else match decodeSlot .micro (tabGet 0 k.mps r.mpc) with
    | .ok i => i
    | .bad _ => .mend

/-- Handles that an entry writes or takes away: a call's output handles by the kinds of its commit, and an ACREL's own handle,
so that an ACREL waits for a running drain only where that drain reads its handle (R154) (DEDUCED, log entry 88). -/
def MatrixOp.outs : MatrixOp → List Nat
  | .call _ kinds ps _ => outHandles kinds ps
  | .acz h => [h]
  | .acrel h => [h]
  | _ => []

/-- A running drain reads a handle of a context, mapped or not, or its slot (R154, R167, R173). -/
def DrainRun.uses (d : DrainRun) (s : State) (c h : Nat) : Bool :=
  (d.ctx == c && d.handle ≤ h && h < d.handle + d.slots.length) || ((s.ctx c).slotFor h).any fun slot => d.slots.contains (some slot)

/-- An entry may begin behind the entries before it; a drain begins only behind every own-PM access of the core that committed before it
(R154, R204, R264) (DEDUCED, log entry 82). -/
def mayBegin (s : State) (core : Nat) (before : List MatrixEntry) (e : MatrixEntry) : Bool :=
  let k := s.core core
  !e.begun && e.at' + 3 ≤ k.cyc && k.mtxFrom ≤ k.cyc && before.all (·.begun)
    && match e.op with
      | .drain .. => before.isEmpty && !(s.ownBefore core e.mark).ownLeft core e.mark
      | _ => !(before.any fun b => isArray b.op) && !(k.drainRun.any fun d => e.op.outs.any fun h => d.uses s e.ctx h)

/-- The place of the entry that begins next. -/
def nextEntry (s : State) (core : Nat) : List MatrixEntry → List MatrixEntry → Option (List MatrixEntry × MatrixEntry × List MatrixEntry)
  | _, [] => none
  | before, e :: t => if mayBegin s core before e then some (before, e, t) else nextEntry s core (before ++ [e]) t

/-- What an entry does when it begins (R155, R158, R167, R169, R171, R203). A handle that an ACREL takes away is unmapped from
then on for the entries queued behind it as well (DEDUCED, log entry 88). A drain follows every own-PM store of the core that
committed before it (R204, R264). -/
def State.beginEntry (s : State) (core : Nat) (e : MatrixEntry) : State :=
  let k := s.core core
  let x := s.ctx e.ctx
  match e.op with
  | .call n _ ps shapes =>
    let (base, len) := if n < 16 then (1024 + 64 * n, (romCode n).length)
      else match k.entries.find? fun p => p.1 == n with
        | some p => (p.2.1, p.2.2.1)
        | none => (0, 0)
    s.setCore core { k with routine := some (Routine.start e.ctx base len k.cyc ps shapes) }
  | .acz h =>
    let k' := match x.slotFor h with
      | some slot => k.zeroSlot slot
      | none => k
    s.setCore core { k' with arrayEnds := some (k.cyc + 3) }
  | .acrel h =>
    match x.slotFor h with
    | some slot =>
      (s.setCore core { k.zeroSlot slot with free := k.free ++ [slot], arrayEnds := some k.cyc }).setCtx e.ctx
        { x with handles := tabErase x.handles h }
    | none => s.setCore core { k with arrayEnds := some k.cyc }
  | .mpsld n base kinds words =>
    s.setCore core { k with mps := tabRange 0 k.mps base words, entries := tabPut k.entries n (base, words.length, kinds)
                            arrayEnds := some (k.cyc + words.length) }
  | .drain h grp toRegs adjoint desc =>
    let d := drainDesc (desc.map BitVec.toNat)
    let (pace, extra) := drainTiming (sieveCtl d.sieve) adjoint grp
    let run : DrainRun := {
      ctx := e.ctx, adjoint := adjoint, toRegs := toRegs, desc := desc, handle := h
      slots := (List.range (grp + 1)).map fun i => x.slotFor (h + i)
      row := 0, next := k.cyc, pace := pace, ends := k.cyc + d.rows * pace + 24 + extra, cells := [], regs := [], flags := 0, peek := none }
    let s := s.ownBefore core e.mark
    s.setCore core { s.core core with drainRun := some run }

/-- MATRIX_ENTRY_BEGIN: the next entry of the queue that may begin does (R154). -/
def execMatrixEntryBegin (core : Nat) (s : State) : Result :=
  done s (match nextEntry s core [] (s.core core).mq with
    | none => s
    | some (before, e, rest) =>
      let k := s.core core
      (s.setCore core { k with mq := before ++ { e with begun := true } :: rest }).beginEntry core e)

/-- MATRIX_ENTRY_END: the running ACZ, ACREL or MPSLD leaves the queue, or a routine that stands at its end does (R154,
R158). -/
def execMatrixEntryEnd (core : Nat) (s : State) : Result :=
  let k := s.core core
  done s (match k.arrayEnds with
    | some e => s.setCore core { k with mq := dropBegun true k.mq, arrayEnds := none, mtxFrom := e + 1 }
    | none => match k.routine with
      | some r => if k.microAt r = .mend then s.endRoutine core 0 else s
      | none => s)

/-! ### Drains -/

/-- The accumulator words of a row of a drain's group, handle after handle (R171). -/
def Core.drainWords (k : Core) (slots : List (Option Nat)) (r : Nat) : List (BitVec 32) :=
  slots.flatMap fun h => match h with
    | none => List.replicate 128 0
    | some slot => tabDense 0 128 (16384 * slot + 128 * r) k.acm

/-- The modes of a drain's handles. -/
def Core.drainModes (k : Core) (slots : List (Option Nat)) : List Bool :=
  slots.map fun h => match h with
    | some slot => tabGet false k.slotInt slot
    | none => false

/-- Values of a row's words, each by the mode of its own handle (R171). -/
def rowValues (modes : List Bool) (words : List (BitVec 32)) : List Val :=
  (words.zipIdx).map fun p => if modes.getD (p.2 / 128) false then valOfInt p.1.toInt else decodeFloat p.1.toNat 0

/-- Address of the parameter entry of a drain's next row, and of its record (R191, R200). -/
def DrainRun.paramAt (d : DrainRun) : Nat :=
  let c := sieveCtl (drainDesc (d.desc.map BitVec.toNat)).sieve
  c.paddr + if c.prow then 8 * d.row else 0
def DrainRun.recordAt (d : DrainRun) : Nat :=
  (drainDesc (d.desc.map BitVec.toNat)).svout + d.row * recordPitch (128 * d.slots.length)

/-- Own PM that the Sieve reads when the drain begins its next row: the parameter entry, and for an adjoint the record (R204). -/
def DrainRun.reads (d : DrainRun) (core : Nat) : List Nat :=
  let c := sieveCtl (drainDesc (d.desc.map BitVec.toNat)).sieve
  if c.set = 0 then []
  else (if sieveParams c d.adjoint then keysFrom (pmKey core d.paramAt) 8 else [])
    ++ if d.adjoint then keysFrom (pmKey core d.recordAt) (recordPitch (128 * d.slots.length)) else []

/-- The Sieve's share of a row (R171, R193): the projected row, its flags, and record bytes to write at an offset. -/
def sieveOf (core : Nat) (d : DrainRun) (rd : Nat → Byte) (xs : List Val) (modes : List Bool) :
    List Val × Flags6 × List (Nat × List Byte) :=
  let f := drainDesc (d.desc.map BitVec.toNat)
  let c := sieveCtl f.sieve
  let w := xs.length
  let rp := recordPitch w
  let at' := d.recordAt
  if c.set = 0 then (xs, 0, [])
  else if modes.all id then (xs, flagInv, [])
  else
    let mixed := modes.any id
    let par := if sieveParams c d.adjoint then readLe rd (pmKey core d.paramAt) 8 else 0
    let p0 := decodeFloat (par % 2 ^ 32) 0
    let p1 := decodeFloat (par / 2 ^ 32) 0
    if d.adjoint then
      let rec' := supportOf ((keysFrom (pmKey core at') rp).map rd) w
      let o := if mixed then (invalidRow c w 0, none) else adjointRow c p0 xs rec'
      (o.1.u, o.1.flags, match o.2 with
        | some a => [(at' + 12, leBytes 4 a)]
        | none => [])
    else
      let o := if mixed then invalidRow c w 0 else sieveRow c p0 p1 xs
      (o.u, o.flags, [(at', o.rec'.bytes w)])

/-- Output codes of a row with its scale containers and flags (R37, R38, R171). -/
def drainCodes (f : DrainDesc) (xs : List Val) : List Nat × List Nat × Flags6 :=
  let sc := decodeFloat f.scale 0
  let lo := decodeFloat f.lo 0
  let hi := decodeFloat f.hi 0
  if isBlockFmt f.ofmt then
    let ys := xs.map fun x => scaleClip x sc lo hi
    let q := quantBlocks (fmtBase f.ofmt) (ys.map (·.val)) (xs.length / 4)
    (q.1, q.2.1, ys.foldl (fun a y => a ||| y.flags) q.2.2)
  else
    let rs := xs.map fun x => scaleClipConvert x sc lo hi f.ofmt f.sat
    (rs.map (·.val), [], rs.foldl (fun a r => a ||| r.flags) 0)

/-- Cells of bytes at an address of R105. -/
def pmCells (cluster a : Nat) (bs : List Byte) : List (Nat × Byte) :=
  let core := cluster * 8 + bits a 21 3
  let k := if bitOf a 20 then keyOf (.scratch core (a % 2 ^ 18)) else keyOf (.pm core (a % 2 ^ 20))
  (keysFrom k bs.length).zip bs

/-- A drain's writes to a peer's bank that a BANKLK holds wait in its arbitration queue, and so do those to a unit under test, so that the
drain lasts longer than R171 says: the rules do not say which of the two gives way (R88, R237, R357) (DEDUCED, log entry 38). -/
def State.drainHeld (s : State) (core : Nat) (cells : List (Nat × Byte)) : Bool :=
  s.bankHeld (some core) (cells.map (·.1)) || cells.any fun c => s.unitBusy c.1

/-- Scratchpad ways that have left drop a drain's writes (R170). -/
def State.drainStore (s : State) (cells : List (Nat × Byte)) : State :=
  s.storeCells (cells.filter fun c => !(c.1 % 8 == 4 && 16384 * (s.core (c.1 / 8 / 2 ^ 18)).nw ≤ c.1 / 8 % 2 ^ 18))

/-- Vector registers that a drain writes (R171). -/
def State.drainRegs (s : State) (c : Nat) (regs : List (Nat × Vec)) : State :=
  let x := s.ctx c
  s.setCtx c { x with v := regs.foldl (fun t p => tabPut t p.1 p.2) x.v }

/-- The cycle in which a drain begins its next row begins: what the row reads is noted as it stands (R168, R204). An error in it is
MEMERR of the drain's context (R360) (DEDUCED, log entry 77). -/
def State.peekRow (s : State) (core : Nat) (d : DrainRun) : State :=
  let keys := d.reads core
  let s := s.touch keys
  let k := s.core core
  let d' := { d with peek := some (keys.map fun a => (a, s.byte a), k.drainWords d.slots d.row) }
  let s := s.setCore core { k with drainRun := some d' }
  match s.hardFault [] 0 (keys.map .key) with
  | none => s
  | some e =>
    let x := s.ctx d.ctx
    s.setCtx d.ctx { x with boundary := addCause x.boundary { code := e.code, detail := e.detail, faddr := e.faddr, smask := 0 } }

/-- A row's words and bytes at the end of the cycle in which it began: where another write met the read in that cycle, each word is
the old or the new one (R168, R204; the choices are free, log entry 7). -/
def mixRow (fresh : Nat) (old new : List (BitVec 32)) : List (BitVec 32) :=
  ((old.zip new).zipIdx).map fun p => if p.1.1 = p.1.2 then p.1.2 else if Config.freeBool (fresh + p.2) then p.1.1 else p.1.2

def mixBytes (fresh : Nat) (old : List (Nat × Byte)) (now : Nat → Byte) : List (Nat × Byte) :=
  (old.zipIdx).map fun p => if p.1.2 ≠ now p.1.1 ∧ Config.freeBool (fresh + p.2 / 4) then p.1 else (p.1.1, now p.1.1)

/-- Rows of the running drain that are still to come. -/
def Core.rowsLeft (k : Core) : Nat :=
  match k.drainRun with
  | some d => (drainDesc (d.desc.map BitVec.toNat)).rows - d.row
  | none => 0

/-- The next row of the running drain (R171): it begins in one cycle, and in the next its outputs are formed from what it read. Its
writes are made now or stand until a later time, at the latest the drain's end (R173, R204; the choice is free, log entry 7)
(DEDUCED, log entry 28). -/
def State.drainStep (s : State) (core : Nat) : State :=
  match (s.core core).drainRun with
  | none => s
  | some d => match d.peek with
    | none => if (s.core core).rowsLeft = 0 then s else s.peekRow core d
    | some (bytes, words) =>
      let s := s.touch (bytes.map (·.1))
      let k := s.core core
      let f := drainDesc (d.desc.map BitVec.toNat)
      let cl := clusterOf core
      let modes := k.drainModes d.slots
      let xs := rowValues modes (mixRow (s.fresh + 1) words (k.drainWords d.slots d.row))
      let read := mixBytes (s.fresh + 1025) bytes s.byte
      let w := xs.length
      let (u, fl, recs) := sieveOf core d (fun a => (logGet read a).getD (s.byte a)) xs modes
      let (codes, scales, fl2) := drainCodes f u
      let packed := packElems (fmtWidth f.ofmt) codes
      let planes := if isBlockFmt f.ofmt then pmCells cl (f.saddr + d.row * f.spitch) (leBytes (w / 2) (packElems 16 scales)) else []
      let out := if d.toRegs then [] else pmCells cl (f.dst + d.row * f.pitch) (leBytes (packedRow f.ofmt w) packed)
      let q := rowRegs f.ofmt w
      let regs : List (Nat × Vec) := if d.toRegs then
          (List.range q).map fun i => (f.dst + d.row * q + i, BitVec.ofNat 1024 (packed / 2 ^ (1024 * i)))
        else []
      let cells := recs.flatMap (fun r => pmCells cl r.1 r.2) ++ planes ++ out
      let hold := d.cells != [] || d.regs != [] || s.drainHeld core cells || Config.freeBool s.fresh
      let d' := { d with row := d.row + 1, next := d.next + d.pace, flags := d.flags ||| fl ||| fl2, peek := none
                         cells := if hold then d.cells ++ cells else [], regs := if hold then d.regs ++ regs else [] }
      let s := ({ s with fresh := s.fresh + 1100 }).setCore core { k with drainRun := some d' }
      if hold then s else (s.drainStore cells).drainRegs d.ctx regs

def State.drainSteps (s : State) (core : Nat) : Nat → State
  | 0 => s
  | n + 1 => State.drainSteps (s.drainStep core) core n

/-- DRAIN_END, in the cycle after the drain's last: its last writes are made, once nothing holds them, its flags merge, it leaves the queue,
and its flag is incremented in this cycle (R33, R88, R154, R168, R171, R203) (DEDUCED, log entries 28, 38). -/
def execDrainEnd (core : Nat) (s : State) : Result :=
  let s1 := s.drainSteps core (2 * (s.core core).rowsLeft)
  let k := s1.core core
  done s (match k.drainRun with
    | none => s1
    | some d =>
      if s1.drainHeld core d.cells then s1 else
      let f := drainDesc (d.desc.map BitVec.toNat)
      let x := s1.ctx d.ctx
      let banks := if x.compat then d.slots.filterMap id else []
      let k' := { k with drainRun := none, mq := dropBegun false k.mq, mtxFrom := max k.mtxFrom (d.ends + 1) }.resetPointers banks
      let s2 := (((s1.setCore core k').drainStore d.cells).drainRegs d.ctx d.regs).mergeLate d.ctx d.flags
      if f.fen then
        s2.sendInc core { at' := k.el, flag := f.flag, n := 1, node := x.node, ctx := d.ctx, inst := x.inst, kills := true }
      else s2)

end Sys2Proof.Machine
end

