-- ==== Sys2Proof/Machine/Bank.lean ====
section
/-! DEFINITION. The accumulator banks of compatibility mode: ACBRD and ACBWR, and their races with the running routine (R80, R168,
R173). -/

namespace Sys2Proof.Machine

/-- The row pointer of a bank, and its advance (R168). -/
def Core.pointer (k : Core) (b : Nat) : Nat := tabGet 0 k.bankPtr b
def Core.bump (k : Core) (b : Nat) : Core := { k with bankPtr := tabPut k.bankPtr b ((k.pointer b + 1) % 512) }

/-- First accumulator key of a bank's row. -/
def bankRow (b q : Nat) : Nat := 16384 * b + 32 * q

/-- The chunks that the MSTEP running on a bank has ended by now at the least, and counting the one under way; for an MCLR in its cycle, 0 and
1; none where neither runs on it (R159, R161, R168) (DEDUCED, log entry 29). -/
def State.stepping (s : State) (b : Nat) : Option (Nat × Nat) :=
  let k := s.mine
  match k.routine with
  | none => none
  | some r =>
    let slot := (s.ctx r.ctx).slotFor
    if k.cyc < r.begins then none
    else match k.microAt r with
      | .mstep nch =>
        let time := ((formatPair r.afmt r.bfmt).getD (1, false)).1
        let past := min (nch.toNat + 1) ((k.cyc - r.begins) / time)
        if r.target.bind slot = some b then some (past - r.reps.length, min (nch.toNat + 1) (past + 1)) else none
      | .mclr p => if slot (r.handle p.toNat) = some b then some (0, 1) else none
      | _ => none

/-- The value that a chunk under way gives its words is known: no SCL instruction that issues later reaches a block of it (R164). -/
def Core.settledChunk (k : Core) (i : Nat) : Bool :=
  match k.routine with
  | none => true
  | some r =>
    let time := ((formatPair r.afmt r.bfmt).getD (1, false)).1
    !(r.scaleA || r.scaleB) || r.begins - r.late + i * time + 7 * (time / 8) < k.cyc + 6

/-- The words of a bank's row at its pointer. -/
def State.bankWords (s : State) (b : Nat) : List (BitVec 32) := tabDense 0 32 (bankRow b (s.mine.pointer b)) s.mine.acm

/-- The words of a bank's row after chunks of the running MSTEP, or after the running MCLR. -/
def State.bankAfter (s : State) (b n : Nat) : List (BitVec 32) :=
  match s.mine.routine.map s.mine.microAt with
  | some (.mclr _) => if n = 0 then s.bankWords b else List.replicate 32 0
  | _ => (s.runChunks n).bankWords b

/-- The row at a bank's pointer. While an MSTEP runs on the bank each word is what it was before the chunk under way or after it, which it
can be only once the chunk's value is known; in an MCLR's cycle what it was, or zero (R168, log entry 7) (DEDUCED, log entry 29). -/
def State.bankRead (s : State) (b : Nat) : Nat :=
  match s.stepping b with
  | none => packElems 32 (s.bankWords b |>.map (·.toNat))
  | some (lo, hi) =>
    let hi := if s.mine.settledChunk (hi - 1) then hi else max lo (hi - 1)
    let rows := (List.range (hi + 1 - lo)).map fun j => s.bankAfter b (lo + j)
    packElems 32 ((List.range 32).map fun i => ((rows.getD (Config.freeNat (s.fresh + i) % rows.length) []).getD i 0).toNat)

/-- Free choices that an access to a bank uses. -/
def State.bankRaces (s : State) (b : Nat) : Nat := if (s.stepping b).isSome then 32 else 0

/-- One bank read into a vector register at latency 4; its pointer advances (R168). -/
def State.bankLoad (s : State) (b v : Nat) : State :=
  let t := s.writeV v (s.bankRead b) 4
  ({ t with fresh := t.fresh + s.bankRaces b }).setMine (t.mine.bump b)

/-- ACBRD: rows at the pointers of one or two banks, latency 4; illegal in native mode (R80, R168). -/
def execAcbrd (ba bb : BitVec 4) (v : BitVec 9) (one : BitVec 1) (s : State) : Result :=
  done s (if !s.me.compat then s.illegal (2 ^ 10)
    else
      let t := s.bankLoad ba.toNat v.toNat
      if one = 1 then t else t.bankLoad bb.toNat (v.toNat + 1))

/-- A row written at a bank's pointer. -/
def State.bankPut (s : State) (b x : Nat) : State :=
  let k := s.mine
  s.setMine { k with acm := tabRange 0 k.acm (bankRow b (k.pointer b)) ((List.range 32).map fun i => BitVec.ofNat 32 (elemAt x 32 i)) }

/-- A bank's row written at its pointer, which advances (R168). While an MSTEP runs on the bank, or in an MCLR's cycle, the write stands beside
the routine until the chunk under way is done: each word is then as written, as the chunk leaves what was written, or as if nothing had been
written (R168, R173) (DEDUCED, log entry 29). -/
def State.bankStore (s : State) (b x : Nat) : State :=
  let put : State := match s.stepping b with
    | none => s.bankPut b x
    | some (_, hi) =>
      let k := s.mine
      let p : BankPut := { chunk := hi - 1, key := bankRow b (k.pointer b), value := x, choice := s.fresh }
      let r := k.routine.map fun r => { r with puts := r.puts ++ [p] }
      ({ s with fresh := s.fresh + 32 }).setMine { k with routine := r }
  put.setMine (put.mine.bump b)

/-- ACBWR: one or two vectors into the rows at the pointers; illegal in native mode (R80, R168). -/
def execAcbwr (ba bb : BitVec 4) (v : BitVec 9) (one : BitVec 1) (s : State) : Result :=
  done s (if !s.me.compat then s.illegal (2 ^ 10)
    else
      let t := s.bankStore ba.toNat (s.opV 0 v.toNat)
      if one = 1 then t else t.bankStore bb.toNat (s.opV 0x80 (v.toNat + 1)))

end Sys2Proof.Machine
end

