-- ==== Sys2Proof/Machine/Data.lean ====
section
/-! DEFINITION. Reading and writing by the reconciler, the engines and the IOD: bytes with the errors that reading them
meets, tensor rows, and the halt of work by a fault (R129, R234, R250, R332, R333, R359, R360, R362). -/

namespace Sys2Proof.Machine

def causeEngXlate : Nat := 0x12
def causeEngFault : Nat := 0x34
def causeEngBlk : Nat := 0x2B

/-- The failing byte of a read by an agent other than a load: MEMERR (R360). -/
def memFault (detail faddr : Nat) : AFault := { code := causeMemErr, detail := detail, faddr := faddr, line := 0, mig := false }

/-- What stands for bad data of tolerant pages in a row of a layout (R359). -/
def layoutSrcs (layout : Option Nat) (j0 : Nat) (srcs : List ByteSrc) : List ByteSrc :=
  match layout with
  | none => srcs
  | some _ => (srcs.zipIdx).map fun p => match p.1 with
    | .cell k _ => .cell k (substitute layout (j0 + p.2))
    | b => b

/-- Bytes at places, read for a domain; pending reductions of their lines drain first, and host memory is asked for its own (R117, R344,
R359, R360). `j0` is the place
of the first byte in its row, `faddr` its address. -/
def State.take (s : State) (node : Nat) (layout : Option Nat) (j0 faddr : Nat) (srcs : List ByteSrc) :
    Except AFault (List Byte × State) :=
  let s := s.touch (srcs.filterMap ByteSrc.place)
  let srcs := layoutSrcs layout j0 srcs
  match s.firstHard srcs with
  | some (k, detail) => .error (memFault detail (faddr + (srcs.findIdx? fun b => b.place == some k).getD 0))
  | none => .ok (s.goodBytes s.byte srcs, (s.askHost (srcs.filterMap ByteSrc.place)).countSubst node (s.softGranules srcs).length)

/-- An engine's, the reconciler's or a translation's fault as an engine cause with its reason word: a translation that
stops is ENGXLATE, an error in data MEMERR, and every other fault ENGFAULT (R129, R209, R234, R360). -/
def engCause (e : AFault) : AFault :=
  if e.code = causeXlate then { e with code := causeEngXlate, detail := 0 }
  else if e.code = causeMemErr ∨ e.code = causeEngFault then e
  else { e with code := causeEngFault, detail := 0 }

/-- An engine fault with a reason word. -/
def engFault (reason faddr : Nat) : AFault :=
  { code := causeEngFault, detail := reason, faddr := faddr, line := 0, mig := false }

/-- What stops a piece of work that must wait: it reaches a bank of PM which a BANKLK holds, a die link that holds it or a unit under test.
This is no fault (R88, R237, R355, R357). -/
def heldFault (k : Nat) : AFault := { code := 0, detail := k, faddr := 0, line := 0, mig := false }

/-- What work keeps of the descriptor that it read as it began, and the tensor of what is kept (R250). -/
def Tensor.kept (t : Tensor) : List Nat := [t.base, t.trows, t.tcols, t.rpitch, t.fmt, t.pad]
def keptTensor : List Nat → Option Tensor
  | [b, r, k, p, f, x] => some { base := b, trows := r, tcols := k, rpitch := p, fmt := f, pad := x }
  | _ => none

/-- The tensor of a handle, or ENGFAULT with the handle; an error in its descriptor is MEMERR (R250, R360). -/
def State.tensorFor (s : State) (sp : Space) (die htbase htlen h : Nat) : Except AFault Tensor :=
  match readTensor s s.seen sp die htbase htlen h with
  | .error e => .error e
  | .ok (none, _) => .error (engFault h 0)
  | .ok (some t, _) => .ok t

/-- A descriptor read for a domain: its lines' reductions drain, host memory is asked, and what stood for bad data of it is counted
(R117, R344, R359). -/
def State.descriptorRead (s : State) (sp : Space) (die htbase htlen h : Nat) : State :=
  let t := match placeDescriptor s s.seen sp die htbase h with
    | .error _ => s
    | .ok (srcs, _) => (s.touch (srcs.filterMap ByteSrc.place)).askHost (srcs.filterMap ByteSrc.place)
  t.countSubst (sp.id - 1) (descriptorSofts s s.seen sp die htbase htlen h)

/-- The record of an engine cause, and the halt it leaves; a fault that its restart meets again writes no second record, and
a page that firmware moves writes none (R129, R234, R332, R333, R362). `place` is the position or the locator
(DEDUCED, log entry 59). -/
def State.haltWork (s : State) (ctx node wq qid place prog : Nat) (o : Origin) (retry : Option Cause) (e : AFault) :
    State × Halt :=
  let detail := if e.code = causeMemErr then e.detail else place * 2 ^ 32 + if e.code = causeEngFault then e.detail % 2 ^ 32 else 0
  let cause : Cause := { code := e.code, detail := detail, faddr := e.faddr, smask := 0 }
  let r : Record := { phase := o.phase, ctx := ctx, code := e.code, smask := 0, sres := 0, lit := o.lit, capv := false, qid := qid
                      epc := o.epc, gen := o.gen.toNat, faddr := e.faddr, detail := detail }
  let w := if retry = some cause then (s, .written) else if e.mig then (s, .moved) else s.writeTrap node wq prog r
  let lines := if e.code = causeEngXlate ∧ w.2 ≠ .unwritable then w.1.arm (dieOf (coreOf ctx)) e.line else []
  (w.1, { cause := cause, lines := lines, told := w.2 })

end Sys2Proof.Machine
end

