-- ==== Sys2Proof/Machine/Phase.lean ====
section
/-! DEFINITION. Phases, maps and the reconciler: PHPREP, PHADV, PHSET, MAPLD and the events of a preparation (R94, R221 to
R236). -/

namespace Sys2Proof.Machine

def causeMapConf : Nat := 0x32

/-! ### Map images -/

/-- A map entry from its 256 bits (R224) (DEDUCED, log entry 42). -/
def mapEntryOf (e : Nat) : MapEntry :=
  { wbase := bits e 0 32, len := bits e 32 20, ksrc := bits e 52 6, wb := bitOf e 59, carry := bits e 60 2, kind := bits e 62 2
    target := bits e 64 64, row0 := bits e 128 32, col0 := bits e 160 32, bhandle := bits e 192 32 }

/-- Bytes of an entry's window. -/
def MapEntry.size (e : MapEntry) : Nat := 128 * (e.len + 1)

/-- TARGET, CARRY, WB and the backing fields agree with KIND (R225). -/
def MapEntry.kindOk (e : MapEntry) : Bool :=
  let plain := e.bhandle == 0 && e.row0 == 0 && e.col0 == 0
  (e.ksrc == 0 || e.carry == 1) && match e.kind with
    | 0 => e.target % 128 == 0 && e.target / 2 ^ 24 == 0 && !bitOf e.target 20 && e.target % 2 ^ 20 + e.size ≤ 2 ^ 20
        && (if e.carry == 2 || e.wb then e.bhandle != 0 else plain)
    | 1 => e.target % 128 == 0 && e.target / 2 ^ 23 == 0 && e.target + e.size ≤ 2 ^ 23
        && (if e.carry == 2 || e.wb then e.bhandle != 0 else plain)
    | 2 => e.target / 2 ^ 32 == 0 && e.target != 0 && e.carry == 0 && !e.wb && e.bhandle == 0
    | _ => e.target / 2 ^ 57 == 0 && e.target % 128 == 0 && e.carry == 0 && !e.wb && plain

/-- Two windows share an address (R228). -/
def MapEntry.meets (e d : MapEntry) : Bool := e.wbase < d.wbase + d.size && d.wbase < e.wbase + e.size

/-- An entry that MAPLD rejects, given those before it (R228). -/
def entryBad (raw : Nat) (before : List MapEntry) : Bool :=
  let e := mapEntryOf raw
  raw / 2 ^ 224 != 0 || bitOf raw 58 || e.wbase % 128 != 0 || 2 ^ 32 < e.wbase + e.size || !e.kindOk || before.any e.meets

/-- The entries of an image, or the first entry that breaks it (R228) (DEDUCED, log entry 34). -/
def readEntries : List Nat → List MapEntry → Except Nat (List MapEntry)
  | [], es => .ok es
  | raw :: t, es => if entryBad raw es then .error es.length else readEntries t (es ++ [mapEntryOf raw])

/-- The map of an image's 2,080 bytes as a number, or the place of what breaks it: its entry, and its offset in the image
(R224, R228) (DEDUCED, log entry 34). -/
def imageOf (n : Nat) : Except (Nat × Nat) (List MapEntry) :=
  if bits n 0 256 / 64 ≠ 0 then .error (0, 0)
  else match readEntries ((List.range (n % 64 + 1)).map fun i => bits n (256 * (i + 1)) 256) [] with
    | .ok es => .ok es
    | .error i => .error (i, 32 * (i + 1))

/-- MAPLD: the whole span translates at the read phase; the image is read at commit, after every earlier store of the
context, and is checked; the context's next bundle is blocked for as long as reading takes, which is open (R228; log entry 7)
(DEDUCED, log entries 37, 60). -/
def execMapld (map : BitVec 4) (a : BitVec 5) (s : State) : Result :=
  let va := s.opA 0 a.toNat
  done s (match s.placeAligned 3 .read false 32 va 2080 with
    | .error e => s.accessFault e
    | .ok (srcs, ts) =>
      let x := s.me
      if map.toNat = x.phase ∨ (x.prep.map (·.map)) = some map.toNat then s.slotFault causeMapConf 0 va
      else match s.commitRead s.fl.ctx va srcs ts with
      | (s, .error e) => s.accessFault e
      | (s, .ok bs) => match imageOf (leNat bs) with
        | .error (i, o) => s.slotFault causeMapConf i (va + o)
        | .ok es => ({ s with fresh := s.fresh + 1 }).setMe
          { s.me with maps := tabPut s.me.maps map.toNat es, imageAt := s.fl.t + 1 + Config.freeNat s.fresh })

/-! ### Starting a preparation -/

/-- The target range of kinds 0 and 1: space, first byte and length (R224, R229). -/
def MapEntry.range (cluster : Nat) (e : MapEntry) : Option (Nat × Nat × Nat) :=
  match e.kind with
  | 0 => some (0, (cluster * 8 + bits e.target 21 3) * 2 ^ 20 + e.target % 2 ^ 20, e.size)
  | 1 => some (1, e.target, e.size)
  | _ => none

def rangesMeet : Option (Nat × Nat × Nat) → Option (Nat × Nat × Nat) → Bool
  | some a, some b => a.1 == b.1 && a.2.1 < b.2.1 + b.2.2 && b.2.1 < a.2.1 + a.2.2
  | _, _ => false

/-- A keep whose source has its own kind and range moves nothing (R227). -/
def inPlace (cluster : Nat) (cur : List MapEntry) (e : MapEntry) : Bool :=
  e.carry == 1 && match cur[e.ksrc]? with
    | some c => c.kind == e.kind && c.range cluster == e.range cluster
    | none => false

/-- A moving entry (R227). -/
def moves (cluster : Nat) (cur : List MapEntry) (e : MapEntry) : Bool := e.carry != 0 && !inPlace cluster cur e

/-- An entry of the prepared map that the checks of R229 reject. -/
def prepBad (cluster : Nat) (cur next : List MapEntry) (i : Nat) (e : MapEntry) : Bool :=
  let r := e.range cluster
  (e.carry == 1 && match cur[e.ksrc]? with
    | some c => 2 ≤ c.kind || c.len != e.len
    | none => true)
  || (moves cluster cur e && (cur.any (fun c => rangesMeet r (c.range cluster))
    || (next.zipIdx).any fun p => p.2 != i && (moves cluster cur p.1 || inPlace cluster cur p.1) && rangesMeet r (p.1.range cluster)))

/-- The map that K names (R229, R231). -/
def targetMap (x : Ctx) (k : Nat) : Nat := (x.phase + k) % 16

/-- The bundle in flight, as the origin of work it starts (DEDUCED, log entry 35). -/
def State.origin (s : State) : Origin :=
  let ht := s.htOf s.fl.ctx
  { epc := s.fl.pc, lit := s.fl.lit, phase := s.fl.phase, gen := s.fl.gen, node := s.me.node, htbase := ht.1, htlen := ht.2
    wq := s.wqOf s.fl.ctx }

/-- A preparation of a map put into the slot, or MAPCONF with the first entry that the checks reject (R229); `fault` takes
its DETAIL and FADDR. `whole` tells that no bundle has still to commit before it (DEDUCED, log entry 34). -/
def State.startPrep (s : State) (map : Nat) (whole : Bool) (fault : Nat → Nat → State) : State :=
  let x := s.me
  let cur := tabGet [] x.maps x.phase
  let next := tabGet [] x.maps map
  let cl := clusterOf s.myCore
  match (next.zipIdx).find? fun p => prepBad cl cur next p.2 p.1 with
  | some (e, i) => fault i e.wbase
  | none =>
    let p : Prep := { map := map, stage := 0, due := s.mine.el + 8, whole := whole, bundle := x.seq, org := s.origin, cur := cur
                      next := next, snapped := 0, taken := [], reached := 0, gran := 0, desc := [], began := 0, spent := 0, moved := false
                      halt := none, retry := none }
    s.setMe { x with prep := some p }

/-- The slot holds a running preparation. -/
def Ctx.preparing (x : Ctx) : Bool :=
  match x.prep with
  | some p => p.stage < 2
  | none => false

/-- PHPREP: held while a preparation runs; else the checks, and a preparation of the map K on (R229). -/
def execPhprep (k : BitVec 4) (s : State) : Result :=
  done s (if s.me.preparing then s.endFlight
    else s.startPrep (targetMap s.me k.toNat) false (s.slotFault causeMapConf))

/-! ### Advancing -/

/-- Snapshots of a consumed preparation precede later releases (R233). -/
def Ctx.consume (x : Ctx) : Ctx :=
  { x with prep := none, wbacks := x.wbacks.map fun w => if w.advanced = none then { w with advanced := some x.seq } else w }

/-- A true preparation of a map stands in the slot. -/
def Ctx.prepared (x : Ctx) (map : Nat) : Bool :=
  match x.prep with
  | some p => p.stage == 2 && p.map == map
  | none => false

/-- MAPCONF of an implicit preparation: nothing of the bundle commits (R231) (DEDUCED, log entry 48). -/
def State.mapConflict (s : State) (detail faddr : Nat) : State :=
  let f := s.fl
  (s.endFlight).takeFault f.ctx
    { code := causeMapConf, detail := detail, faddr := faddr, smask := 0, sres := 0, epc := f.pc, lit := f.lit, capv := false
      phase := f.phase, gen := f.gen, bytes := [], line := 0, mig := false }

/-- The issue check of R231 where it does not let the bundle issue. -/
def State.phadvHold (s : State) (map : Nat) : State :=
  if s.me.preparing then s.endFlight
  else ((s.setMe { s.me with prep := none }).startPrep map true s.mapConflict).endFlight

/-- The switch to a map (R231, R232). -/
def State.enterMap (s : State) (map : Nat) : State := s.write (.phase map (s.me.phgen + 1)) 1

/-- PHADV (R231). -/
def execPhadv (k : BitVec 4) (s : State) : Result :=
  let map := targetMap s.me k.toNat
  done s (if s.me.prepared map then (s.setMe s.me.consume).enterMap map else s.phadvHold map)

/-- PHSET: a true preparation of MAP is consumed, any other is discarded (R232). -/
def execPhset (map : BitVec 4) (s : State) : Result :=
  done s (if s.me.preparing then s.endFlight
    else (s.setMe (if s.me.prepared map.toNat then s.me.consume else { s.me with prep := none })).enterMap map.toNat)

/-! ### The reconciler -/

/-- First key of an entry's target range. -/
def MapEntry.place (cluster : Nat) (e : MapEntry) : Nat :=
  match e.kind with
  | 0 => keyOf (.pm (cluster * 8 + bits e.target 21 3) (e.target % 2 ^ 20))
  | _ => keyOf (.csm cluster e.target)

/-- Keys of an entry's target range, and of one granule of it. -/
def MapEntry.keys (cluster : Nat) (e : MapEntry) : List Nat := keysFrom (e.place cluster) e.size
def MapEntry.granule (cluster : Nat) (e : MapEntry) (g : Nat) : List Nat := keysFrom (e.place cluster + 8 * 128 * g) 128

/-- The accesses of bundles up to one perform (R233). -/
def State.performUpTo (s : State) (c bundle : Nat) : State :=
  (((s.ctx c).port.filter fun i => i.bundle ≤ bundle).map (·.id)).foldl (fun s id => s.performThrough c id) s

/-- The locator of R234 (DEDUCED, log entry 35). -/
def locator (entry map : Nat) (back : Bool) : Nat := entry % 64 + map % 16 * 2 ^ 6 + if back then 2 ^ 10 else 0

/-- The preparation of a context that goes on next: one that a bind took out of its slot, with its place, before the slot's own
(R223). -/
def Ctx.working (x : Ctx) : Option (Option Nat × Prep) :=
  match (x.strays.zipIdx).find? fun p => p.1.halt.isNone with
  | some (p, i) => some (some i, p)
  | none => x.prep.map fun p => (none, p)

/-- A preparation put back where it stands. -/
def State.putPrep (s : State) (c : Nat) (w : Option Nat) (p : Prep) : State :=
  let x := s.ctx c
  match w with
  | none => s.setCtx c { x with prep := some p }
  | some i => s.setCtx c { x with strays := x.strays.set i p }

/-- The space in which work of an origin translates its tiles, by the caches of its core (R330). -/
def State.originSpace (s : State) (c : Nat) (o : Origin) : Space := s.spaceOf (coreOf c) o.node

/-- A fault of the reconciler halts the preparation, at the entry that its record names (R234, R360). -/
def State.haltPrep (s : State) (c : Nat) (w : Option Nat) (p : Prep) (entry : Nat) (e : AFault) : State :=
  let r := (s.putPrep c w p).haltWork c p.org.node p.org.wq 0xFF (locator entry p.map false) 0 p.org p.retry (engCause e)
  r.1.putPrep c w { p with halt := some r.2, retry := none }

/-- The granules of a preparation's snapshots, in order: entry, its number and the granule (R230). -/
def Prep.snaps (p : Prep) : List (MapEntry × Nat × Nat) :=
  (p.cur.zipIdx.filter (·.1.wb)).flatMap fun q => (List.range (q.1.len + 1)).map fun g => (q.1, q.2, g)

/-- The granules that a preparation has still to move, in order (R230). -/
def Prep.left (cluster : Nat) (p : Prep) : List (MapEntry × Nat × Nat) :=
  (p.next.zipIdx.drop p.reached).flatMap fun q =>
    if moves cluster p.cur q.1 then
      ((List.range (q.1.len + 1)).drop (if q.2 = p.reached then p.gran else 0)).map fun g => (q.1, q.2, g)
    else []

/-- The granule that a preparation reads or moves next: whether for a snapshot, entry, its number and the granule (R230). -/
def Prep.step (cluster : Nat) (p : Prep) : Option (Bool × MapEntry × Nat × Nat) :=
  match p.snaps[p.snapped]? with
  | some x => some (true, x)
  | none => ((p.left cluster).head?).map fun x => (false, x)

/-- PM or CSM bytes that a granule's move or snapshot reaches: its own, and those of a keep's source. -/
def Prep.stepKeys (cluster : Nat) (p : Prep) (snap : Bool) (e : MapEntry) (g : Nat) : List Nat :=
  e.granule cluster g ++ if !snap && e.carry == 1 then (match p.cur[e.ksrc]? with
    | some src => src.granule cluster g
    | none => []) else []

/-- PM or CSM granules that it reads or writes (R230). -/
def stepCost (snap : Bool) (e : MapEntry) : Nat := if !snap && e.carry == 1 then 2 else 1

/-- A granule of a bank that is held, or in a unit under test, waits, and with it the preparation (R88, R237, R357). -/
def State.granuleHeld (s : State) (cluster : Nat) (p : Prep) (snap : Bool) (e : MapEntry) (g : Nat) : Bool :=
  s.bankHeld none (p.stepKeys cluster snap e g) || (p.stepKeys cluster snap e g).any s.unitBusy

/-- PM and CSM granules of a cluster that its reconciler has read or written in elapsed cycle `el` (R230). -/
def State.spentIn (s : State) (cluster el : Nat) : Nat :=
  ((s.ctxs.filter fun (q : Nat × Ctx) => clusterOf (coreOf q.1) == cluster).map fun (q : Nat × Ctx) =>
    ((q.2.prep.toList ++ q.2.strays).map fun p => if p.stage = 1 ∧ p.due = el + 1 then p.spent else 0).sum).sum

/-- PM and CSM granules that preparations of the cluster which began before one of context `c` may still read or write in elapsed cycle
`el`; a load waits for the layout unit and keeps no other from moving (R230) (DEDUCED, log entry 35). -/
def State.reservedIn (s : State) (c : Nat) (p : Prep) (el : Nat) : Nat :=
  let cl := clusterOf (coreOf c)
  ((s.ctxs.filter fun (q : Nat × Ctx) => clusterOf (coreOf q.1) == cl && q.1 != c).map fun (q : Nat × Ctx) =>
    match q.2.working with
    | none => 0
    | some (_, o) =>
      if o.stage = 1 ∧ !o.moved ∧ o.halt.isNone ∧ o.due ≤ el ∧ (o.began < p.began ∨ (o.began = p.began ∧ q.1 < c)) then
        match o.step cl with
        | some (snap, e, _, g) => if (!snap && e.carry == 2) || s.granuleHeld cl o snap e g then 0 else stepCost snap e
        | none => 0
      else 0).sum

/-- A preparation has read or moved a granule in elapsed cycle `el`: what is left of it comes in a later cycle, and with nothing left it is
true in the next (R230). -/
def Prep.went (cluster el cost : Nat) (p : Prep) : Prep :=
  let p := { p with due := el + 1, spent := cost, retry := none }
  if (p.step cluster).isSome then p else { p with moved := true, reached := p.next.length, gran := 0 }

/-- A snapshot granule is read; with the last of its entry the snapshot stands among the write-backs (R230, R233). -/
def State.snapGranule (s : State) (c : Nat) (w : Option Nat) (p : Prep) (e : MapEntry) (i g : Nat) : State :=
  let cl := clusterOf (coreOf c)
  match s.take p.org.node none 0 (e.wbase + 128 * g) ((e.granule cl g).map .key) with
  | .error f => s.haltPrep c w p i f
  | .ok (bytes, s) =>
    let last := g = e.len
    let p' := Prep.went cl (s.core (coreOf c)).el 1
      { p with snapped := p.snapped + 1, taken := if last then [] else p.taken ++ bytes }
    let b : WriteBack := { entry := i, map := p.org.phase, org := p.org, handle := e.bhandle, row0 := e.row0, col0 := e.col0
                           bytes := p.taken ++ bytes, gran := 0, desc := [], advanced := none }
    let s := if last then s.setCtx c { s.ctx c with wbacks := (s.ctx c).wbacks ++ [b] } else s
    s.putPrep c w p'

/-- The tensor of a load entry or a write-back: read as the entry begins, and kept (R250). -/
def State.mapTensor (s : State) (c : Nat) (o : Origin) (desc : List Nat) (h : Nat) : Except AFault (Tensor × State) :=
  let sp := s.originSpace c o
  match keptTensor desc with
  | some t => .ok (t, s)
  | none => (s.tensorFor sp (dieOf (coreOf c)) o.htbase o.htlen h).map fun t => (t, s.descriptorRead sp (dieOf (coreOf c)) o.htbase o.htlen h)

/-- What a granule of an entry's target range takes, with the descriptor that its entry keeps (R227) (DEDUCED, log entry 42). -/
def State.carried (s : State) (c : Nat) (p : Prep) (e : MapEntry) (g : Nat) : Except (AFault × List Nat) (List Byte × List Nat × State) :=
  let cl := clusterOf (coreOf c)
  let die := dieOf (coreOf c)
  match e.carry with
  | 1 => (match p.cur[e.ksrc]? with
    | some src => match s.take p.org.node none 0 (src.wbase + 128 * g) ((src.granule cl g).map .key) with
      | .error f => .error (f, [])
      | .ok (bytes, s) => .ok (bytes, [], s)
    | none => .ok (List.replicate 128 0, [], s))
  | 2 => (match s.mapTensor c p.org p.desc e.bhandle with
    | .error f => .error (f, [])
    | .ok (t, s) =>
      match placeTileRow s s.seen (s.originSpace c p.org) die 1 .read none t (e.row0 + g) e.col0 0 128 with
      | .error f => .error (f, t.kept)
      | .ok (srcs, ts) =>
        if s.pathHeld (coreOf c) (srcs.filterMap ByteSrc.place) true then .error (heldFault 0, t.kept)
        else match ((s.fills ts).cross die (srcs.filterMap ByteSrc.place) false).take p.org.node (some t.fmt)
            (e.col0 * fmtWidth t.fmt / 8) (t.base + (e.row0 + g) * t.rpitch) srcs with
          | .error f => .error (f, t.kept)
          | .ok (bytes, s) => .ok (bytes, t.kept, s))
  | _ => .ok (List.replicate 128 0, [], s)

/-- A granule of an entry of the prepared map is moved (R227, R230); a fault halts the preparation at it (R234). -/
def State.moveGranule (s : State) (c : Nat) (w : Option Nat) (p : Prep) (e : MapEntry) (i g : Nat) : State :=
  let cl := clusterOf (coreOf c)
  match s.carried c p e g with
  | .error (f, desc) =>
    let p := { p with reached := i, gran := g, desc := desc }
    if f.code = 0 then s.putPrep c w p else s.haltPrep c w p i f
  | .ok (bytes, desc, s) =>
    let last := g = e.len
    let p := { p with reached := if last then i + 1 else i, gran := if last then 0 else g + 1, desc := if last then [] else desc }
    (s.storeCells ((e.granule cl g).zip bytes)).putPrep c w (p.went cl (s.core (coreOf c)).el (stepCost false e))

/-- A preparation under way reads or moves its next granule, at most one in a cycle and within what its cluster's reconciler has left of
four (R230). -/
def State.stepPrep (s : State) (c : Nat) (w : Option Nat) (p : Prep) : State :=
  let cl := clusterOf (coreOf c)
  let el := (s.core (coreOf c)).el
  match p.step cl with
  | none => s.putPrep c w (p.went cl el 0)
  | some (snap, e, i, g) =>
    if s.granuleHeld cl p snap e g ∨ 4 < s.spentIn cl el + s.reservedIn c p el + stepCost snap e then s
    else if snap then s.snapGranule c w p e i g
    else s.moveGranule c w p e i g

/-- The begin of a preparation, from 8 cycles after its bundle: the stores that its sources are to hold perform, and it reads or moves its
first granule (R88, R230, R233) (DEDUCED, log entry 35). -/
def State.beginPrep (s : State) (ctx : Nat) : State :=
  let el := (s.core (coreOf ctx)).el
  match (s.ctx ctx).working with
  | none => s
  | some (w, p) =>
    let t := s.performUpTo ctx p.bundle
    let waits := (t.ctx ctx).port.any fun i => i.bundle ≤ p.bundle && !isMark i
    if p.stage ≠ 0 ∨ p.halt.isSome ∨ !p.whole ∨ el < p.due ∨ waits then s
    else
      let p := { p with stage := 1, due := el, began := el }
      (t.putPrep ctx w p).stepPrep ctx w p

/-- PREPARATION_BEGIN (R230). -/
def execPreparationBegin (ctx : Nat) (s : State) : Result := done s (s.beginPrep ctx)

/-- A preparation under way goes on with its next granule; in the cycle after the last of them it is true, or, taken out of its slot by a
bind, gone (R223, R230) (DEDUCED, log entry 35). -/
def State.endPrep (s : State) (ctx : Nat) : State :=
  let el := (s.core (coreOf ctx)).el
  match (s.ctx ctx).working with
  | none => s
  | some (w, p) =>
    if p.stage ≠ 1 ∨ p.halt.isSome ∨ el < p.due then s
    else if p.moved then match w with
      | none => s.putPrep ctx none { p with stage := 2 }
      | some i => s.setCtx ctx { s.ctx ctx with strays := (s.ctx ctx).strays.eraseIdx i }
    else s.stepPrep ctx w p

/-- PREPARATION_TRUE (R230). -/
def execPreparationTrue (ctx : Nat) (s : State) : Result := done s (s.endPrep ctx)

/-- A write-back is written to its tile granule after granule, each a row; bytes outside the tensor are dropped (R227). A store of its
context as it is, it stands in the L1 copies that the context meets (R233, R262). The state, with the granule at which a fault stopped
it, or a wait (R234). -/
def backRows (c : Nat) (t : Tensor) (w : WriteBack) : List Nat → State → State × Option (Nat × AFault)
  | [], s => (s, none)
  | g :: gs, s =>
    match placeTileRow s s.seen (s.originSpace c w.org) (dieOf (coreOf c)) 1 .write none t (w.row0 + g) w.col0 0 128 with
    | .error e => (s, some (g, e))
    | .ok (srcs, ts) =>
      let keys := srcs.filterMap ByteSrc.place
      if s.pathHeld (coreOf c) keys false then (s, some (g, heldFault 0))
      else match s.goneFault ts 0 keys with
        | some e => (s, some (g, e))
        | none =>
          let s := ((s.fills ts).cross (dieOf (coreOf c)) keys true).storeVia ts (cellsOf srcs ((w.bytes.drop (128 * g)).take 128))
          backRows c t w gs (s.refreshCopies (coreOf c) keys)

/-- What stops the oldest write-back: a fault halts it and the later ones, and what only waits goes on later (R88, R234). -/
def State.haltBack (s : State) (ctx : Nat) (w : WriteBack) (rest : List WriteBack) (e : AFault) : State :=
  let x := s.ctx ctx
  if e.code = 0 then s.setCtx ctx { x with wbacks := w :: rest }
  else
    let s := s.setCtx ctx { x with wbacks := w :: rest, wbRetry := none }
    let r := s.haltWork ctx w.org.node w.org.wq 0xFF (locator w.entry w.map true) 0 w.org x.wbRetry (engCause e)
    r.1.setCtx ctx { r.1.ctx ctx with wbHalt := some r.2 }

/-- The oldest write-back of a context is written to its tile; a fault halts it and the later ones (R230, R233, R234)
(DEDUCED, log entry 35). -/
def State.performBack (s : State) (ctx : Nat) : State :=
  let x := s.ctx ctx
  match x.wbacks with
  | [] => s
  | w :: rest =>
    if x.wbHalt.isSome then s
    else match s.mapTensor ctx w.org w.desc w.handle with
      | .error e => s.haltBack ctx w rest e
      | .ok (t, s) => match backRows ctx t w ((List.range (w.bytes.length / 128)).drop w.gran) s with
        | (s, some (g, e)) => s.haltBack ctx { w with gran := g, desc := t.kept } rest e
        | (s, none) => s.setCtx ctx { s.ctx ctx with wbacks := rest, wbRetry := none }

/-- WRITE_BACK_PERFORM (R230, R233, R234). -/
def execWriteBackPerform (ctx : Nat) (s : State) : Result := done s (s.performBack ctx)

end Sys2Proof.Machine
end

