-- ==== Sys2Proof/Machine/Eng.lean ====
section
/-! DEFINITION. The instructions of the ENG slot: reading an operand block, checking it and enqueuing a command (R122 to
R128, R242, R248, R252, R272, R301, R315, R334, R347 to R353). What commands do once enqueued stands in EngRun.lean and
Lock.lean. -/

namespace Sys2Proof.Machine

/-! ### Queues -/

/-- Depth of an engine queue (R122). -/
def queueDepth (q : Nat) : Nat := if q = 13 then 32 else if q = 14 then 8 else if q = 18 then 4 else 16

/-- The queue of a command by its opcode, for a CPY on channel `ch`; a QFENCE has none of its own (R81, R122). TLD has queue 6 and TST queue
7, as R122 and R254 list them; the ordering tables of R254's section number them the other way round (DESIGN CHOICE, log entry 106). -/
def queueFor (op ch : Nat) : Nat :=
  if op = 1 then ch
  else if op ≤ 9 then op + 2
  else if op = 11 then 12
  else if op ≤ 16 then 13
  else op - 3

/-- Queues that a command enters; `w` holds its block (R122, R128). -/
def queuesOf (op : Nat) (w : List Nat) : List Nat :=
  if op = 10 then (List.range 20).filter fun q => bitOf (w.getD 1 0) q
  else [queueFor op (bits (w.getD 0 0) 32 2)]

/-- A queue has room for one more command. -/
def Core.queueRoom (k : Core) (q : Nat) : Bool := ((queueOf k q).cmds.countP fun c => c.pos < 2 ^ 32) < queueDepth q

/-! ### Operand blocks -/

/-- Fields of the words after the header, first bit and width (R125); a block has as many words (DEDUCED, log entry 26). -/
def blockFields : Nat → List (List (Nat × Nat))
  | 1 => [[(0, 64)], [(0, 64)], [(0, 32)], [(0, 25)]]
  | 2 => [[(0, 64)], [(0, 20), (32, 8)], [(0, 32)]]
  | 3 => [[(0, 64)], [(0, 64)], [(0, 48)], [(0, 64)]]
  | 4 | 5 => [[(0, 32)], [(0, 64)], [(0, 32)], [(0, 64)], [(0, 32)]]
  | 6 | 7 => [[(0, 64)], [(0, 64)], [(0, 41)], [(0, 64)]]
  | 8 => [[(0, 32)], [(0, 64)], [(0, 32)], [(0, 64)], [(0, 32)]]
  | 9 => [[(0, 32)], [(0, 64)], [(0, 37)], [(0, 64)], [(0, 32)]]
  | 10 => [[(0, 20)]]
  | 11 => [[(0, 8)], [(0, 64)]]
  | 12 => [[(0, 5)], [(0, 24)]]
  | 13 | 14 => [[(0, 32)], [(0, 53)]]
  | 15 => [[(0, 32)], [(0, 50)]]
  | 16 => [[(0, 5)]]
  | 17 => [[(0, 4), (8, 8), (16, 5)], [(0, 64)], [(0, 64)], [(0, 32)]]
  | 18 => [[(0, 3), (16, 32)], [(0, 64)], [(0, 57)], [(0, 45)]]
  | 19 => [[(0, 3)], [(0, 64)], [(0, 32)]]
  | 20 => [[(0, 3), (8, 32)], [(0, 64)], [(0, 32)], [(0, 64)]]
  | 21 => [[(0, 1)], [(0, 64)]]
  | _ => [[(0, 64)], [(0, 32)]]

/-- Every bit outside the fields is zero. -/
def onlyFields (fs : List (Nat × Nat)) (w : Nat) : Bool := (fs.map fun f => bits w f.1 f.2 * 2 ^ f.1).sum == w

/-- The header of R123: FCORE, FLOC and, for a CPY, CH. -/
def headerOk (op w : Nat) : Bool := onlyFields ((if op = 1 then [(32, 2)] else []) ++ [(47, 1), (48, 8)]) w

/-- SP of an engine address. -/
def addrSp (ea : Nat) : Nat := bits ea 62 2

/-- An engine address of one of some spaces, a multiple of `unit` (R124). -/
def addrIn (sps : List Nat) (unit ea : Nat) : Bool := engineAddrOk ea && sps.contains (addrSp ea) && ea % unit == 0

/-- Ranges of the fields of a block that R122 checks at commit, but for a QPUSH's stage (R126, R127, R128, R242, R246, R248,
R252, R272, R278, R301, R315, R334, R347, R350, R351, R353) (DEDUCED, log entry 45). -/
def blockRanges (core op : Nat) (w : List Nat) : Bool :=
  let w1 := w.getD 1 0
  let w2 := w.getD 2 0
  let w3 := w.getD 3 0
  let w4 := w.getD 4 0
  let w5 := w.getD 5 0
  match op with
  | 1 => addrIn [0, 2, 3] 32 w1 && addrIn [0, 2, 3] 32 w2
      && (!bitOf w4 24 || (w4 % 4 == 0 && ownPm core (w4 % 2 ^ 24) 4))
  | 2 => addrIn [2, 3] 1 w1 && bits w2 0 20 % 32 == 0 && bits w2 32 8 != 0 && bits w2 0 20 + w3 ≤ 2 ^ 20
  | 3 => addrIn [0, 2, 3] 32 w1 && addrIn [0, 2, 3] 32 w2 && bits w4 0 32 % 32 == 0 && bits w4 32 32 % 32 == 0
  | 4 | 5 => bits w3 0 16 ≤ 128 && addrIn [0, 2] 32 w4 && w5 % 32 == 0
  | 6 => addrIn [2] 4 w1 && addrIn [0] 32 w2 && slotOk (bits w3 32 9) && addrIn [3] 8 w4
  | 7 => addrIn [0] 32 w1 && addrIn [2] 4 w2 && slotOk (bits w3 32 9) && addrIn [3] 8 w4
  | 8 => w2 % 4 == 0 && ownPm core w2 (4 * w3) && addrIn [0, 2, 3] 32 w4 && w5 % 32 == 0
  | 9 => w2 % 4 == 0 && ownPm core w2 (4 * bits w3 0 32) && [0, 1, 19].contains (bits w3 32 5) && addrIn [0, 2, 3] 32 w4
      && w5 % 32 == 0
  | 10 => w1 != 0
  | 11 => w1 != 0 && w2 % 64 == 0 && ownPm core w2 64
  | 12 => ownPm core w2 8
  | 13 | 14 | 15 =>
    let lvl := bits w2 48 2
    lvl != 3 && (lvl != 0 || bits w2 0 48 == 0) && (lvl != 1 || bits w2 32 16 == 0)
  | 17 => bits w1 0 4 < 4 && [0, 1, 19].contains (bits w1 16 5) && addrIn [0, 2, 3] 1 w2 && addrIn [0, 2, 3] 1 w3
      && w4 % (fmtWidth (bits w1 16 5) / 8) == 0
  | 18 => addrIn [0, 2, 3] 1 w2
  | 19 => addrIn [0, 2, 3] 1 w2 && 64 ≤ w3 && w3 % 32 == 0
  | 20 => bits w1 8 32 != 0 && bits w1 8 32 != 0xFFFFFFFF && addrIn [3] 4 w4
  | 21 => addrIn [3] 8 w2
  | 22 => addrIn [3] 65536 w1 && bits w1 0 57 + 65536 * w2 ≤ 2 ^ 57
  | _ => true
where
  /-- SLOT: 36 to 292, a multiple of 4 (R125). -/
  slotOk (n : Nat) : Bool := 36 ≤ n && n ≤ 292 && n % 4 == 0

/-- A QPUSH names a stage that the pusher's stage may push into (R315). -/
def State.pushOk (s : State) (sq : Nat) : Bool :=
  match s.launchOf s.fl.ctx with
  | none => false
  | some l => match l.stages[sq]? with
    | none => false
    | some st => bitOf st.prod s.me.stage

/-- The block of a command that passes the checks of R122. -/
def State.blockOk (s : State) (op : Nat) (w : List Nat) : Bool :=
  headerOk op (w.getD 0 0) && (blockFields op).length + 1 == w.length
    && ((blockFields op).zip (w.drop 1)).all (fun p => onlyFields p.1 p.2)
    && blockRanges s.myCore op w && (op != 11 || s.pushOk (w.getD 1 0))

/-- The words of the block at an address, as slot 11's commit reads them; none where it is not an aligned block of own PM
(R122) (DEDUCED, log entry 26). -/
def State.blockAt (s : State) (op va : Nat) : Option (List Nat) :=
  let n := (blockFields op).length + 1
  if ownPm s.myCore va (8 * n) && va % 8 == 0 then some ((List.range n).map fun i => s.commitNat (va + 8 * i) 8) else none

/-! ### Enqueuing -/

/-- The command of a block. -/
def State.command (s : State) (op flag va : Nat) (w : List Nat) : Cmd :=
  let x := s.me
  let h := w.getD 0 0
  { op := op, ctx := s.fl.ctx, node := x.node, launch := x.launch, stage := x.stage, inst := x.inst, flag := flag
    fcore := if bitOf h 47 then bits h 48 8 else s.myCore, baddr := va, block := w, pos := 0, mark := s.portId
    org := s.origin, begun := false, since := 0
    void := (op == 13 || op == 14) && x.wound.isSome, retry := none, moved := 0, pointer := 0, data := [] }

/-- A command put at the end of a queue with the queue's next position (R122, R363). -/
def Core.putCmd (k : Core) (q : Nat) (c : Cmd) : Core :=
  let u := queueOf k q
  { k with queues := tabPut k.queues q { u with cmds := u.cmds ++ [{ c with pos := u.next }], next := (u.next + 1) % 2 ^ 32 } }

/-- ENG slot: the block is read and checked at commit and the command enters its queues; a block that breaks a check, or a
CPY or QFENCE whose queues have no room, is ENGBLK, and any other full queue keeps the bundle from issuing (R122)
(DEDUCED, log entry 73). -/
def State.enqueueEng (s : State) (op : Nat) (a f : BitVec 5) : State :=
  let va := s.opA 0 a.toNat
  let bad := s.slotFault causeEngBlk op va
  let s := s.touch (keysFrom (pmKey s.myCore va) (8 * ((blockFields op).length + 1)))
  match s.blockAt op va, s.commitBad va (8 * ((blockFields op).length + 1)) with
  | none, _ => bad
  | some _, some e => s.accessFault e
  | some w, none =>
    if !s.blockOk op w then bad
    else
      let qs := queuesOf op w
      if qs.all s.mine.queueRoom then
        let c := s.command op f.toNat va w
        ({ s with portId := s.portId + 1 }).setMine (qs.foldl (fun k q => k.putCmd q c) s.mine)
      else if op = 1 ∨ op = 10 then bad
      else s.endFlight

def execEnop (s : State) : Result := done s s
def execCpy (a f : BitVec 5) (s : State) : Result := done s (s.enqueueEng 1 a f)
def execMcast (a f : BitVec 5) (s : State) : Result := done s (s.enqueueEng 2 a f)
def execBte (a f : BitVec 5) (s : State) : Result := done s (s.enqueueEng 3 a f)
def execTld (a f : BitVec 5) (s : State) : Result := done s (s.enqueueEng 4 a f)
def execTst (a f : BitVec 5) (s : State) : Result := done s (s.enqueueEng 5 a f)
def execCmpx (a f : BitVec 5) (s : State) : Result := done s (s.enqueueEng 6 a f)
def execCmpw (a f : BitVec 5) (s : State) : Result := done s (s.enqueueEng 7 a f)
def execTgath (a f : BitVec 5) (s : State) : Result := done s (s.enqueueEng 8 a f)
def execTscat (a f : BitVec 5) (s : State) : Result := done s (s.enqueueEng 9 a f)
def execQfence (a f : BitVec 5) (s : State) : Result := done s (s.enqueueEng 10 a f)
def execQpush (a f : BitVec 5) (s : State) : Result := done s (s.enqueueEng 11 a f)
def execLkbegin (a f : BitVec 5) (s : State) : Result := done s (s.enqueueEng 12 a f)
def execLkreq (a f : BitVec 5) (s : State) : Result := done s (s.enqueueEng 13 a f)
def execLkupg (a f : BitVec 5) (s : State) : Result := done s (s.enqueueEng 14 a f)
def execLkrel (a f : BitVec 5) (s : State) : Result := done s (s.enqueueEng 15 a f)
def execLkrelall (a f : BitVec 5) (s : State) : Result := done s (s.enqueueEng 16 a f)
def execColl (a f : BitVec 5) (s : State) : Result := done s (s.enqueueEng 17 a f)
def execNettx (a f : BitVec 5) (s : State) : Result := done s (s.enqueueEng 18 a f)
def execNetrxp (a f : BitVec 5) (s : State) : Result := done s (s.enqueueEng 19 a f)
def execStgrd (a f : BitVec 5) (s : State) : Result := done s (s.enqueueEng 20 a f)
def execVdec (a f : BitVec 5) (s : State) : Result := done s (s.enqueueEng 21 a f)
def execPgreq (a f : BitVec 5) (s : State) : Result := done s (s.enqueueEng 22 a f)

end Sys2Proof.Machine
end

