-- ==== Sys2Proof/Machine/Move.lean ====
section
/-! DEFINITION. What engines do with bytes: reading and writing at engine addresses, copies, tensor windows, gathered and
scattered rows, the ZB boundary, and the halt and the completion of a command (R124 to R129, R242 to R248, R252, R253,
R264, R299 to R301). -/

namespace Sys2Proof.Machine

/-! ### Queues -/

def State.queue (s : State) (core q : Nat) : Queue := queueOf (s.core core) q
def State.setQueue (s : State) (core q : Nat) (u : Queue) : State :=
  let k := s.core core
  s.setCore core { k with queues := tabPut k.queues q u }

/-- The command at the head of a queue that is not halted. -/
def State.head (s : State) (core q : Nat) : Option Cmd :=
  let u := s.queue core q
  if u.halted.isSome then none else u.cmds.head?

/-- The head of a queue changed. -/
def State.setHead (s : State) (core q : Nat) (c : Cmd) : State :=
  let u := s.queue core q
  s.setQueue core q { u with cmds := c :: u.cmds.drop 1 }

/-- The command at a position of a queue changed. -/
def State.setCmd (s : State) (core q : Nat) (c : Cmd) : State :=
  let u := s.queue core q
  s.setQueue core q { u with cmds := u.cmds.map fun d => if d.pos = c.pos then c else d }

/-- LEN, the count of bytes of a CPY. -/
def Cmd.word (c : Cmd) (i : Nat) : Nat := c.block.getD i 0

/-- A command leaves its queue as the last one completed (R122, R363, R364). -/
def State.leave (s : State) (core q : Nat) : State :=
  let u := s.queue core q
  match u.cmds with
  | [] => s
  | c :: t => s.setQueue core q { u with cmds := t, last := some c.pos, lastLen := if q < 4 ∧ c.op = 1 then c.word 3 else u.lastLen }

/-- The completion increment of a command (R84, R125). -/
def State.raise (s : State) (c : Cmd) (core : Nat) : State :=
  s.sendInc core { at' := (s.core core).el, flag := c.flag, n := 1, node := c.node, ctx := c.ctx, inst := c.inst, kills := true }

/-- A command completes: it leaves its queue and its flag rises (R125). -/
def State.complete (s : State) (core q : Nat) (c : Cmd) : State := (s.leave core q).raise c c.fcore

/-- A fault of the running command: its queue halts, with what the command completed, and then its record is written, so that the
outcome record shows the halt; the command is to begin anew once serviced (R129, R301, R335, R364). Work that only waits goes on
later from where it came to (R88). -/
def State.haltCmd (s : State) (core q : Nat) (c : Cmd) (prog : Nat) (e : AFault) : State :=
  if e.code = 0 then s.setCmd core q { c with begun := true, moved := prog }
  else
    let s := s.setHead core q { c with begun := false, moved := prog, retry := none }
    let e := engCause e
    let stopped : Halt := { cause := { code := e.code, detail := e.detail, faddr := e.faddr, smask := 0 }, lines := [], told := .written }
    let s := s.setQueue core q { s.queue core q with halted := some stopped }
    let r := s.haltWork c.ctx c.node c.org.wq q c.pos prog c.org c.retry e
    r.1.setQueue core q { r.1.queue core q with halted := some r.2 }

/-! ### Bytes at engine addresses -/

/-- The first byte of a range that lies in a held bank of PM, behind a die link that holds it or in a unit under test keeps an engine
waiting; a granule that a renewal of the hold has let through does not (R88, R237, R355, R357) (DEDUCED, log entry 38). -/
def State.heldAt (s : State) (core : Nat) (read : Bool) (srcs : List ByteSrc) : Option AFault :=
  ((placedKeys srcs).find? fun k => (s.bankHeld none [k] && !(s.core core).through.contains (granuleOf k)) || s.pathHeld core [k] read).map
    heldFault

/-- An engine's access performs: the granules that a renewal let through for it are used up (R88). -/
def State.passed (s : State) (core : Nat) (keys : List Nat) : State :=
  let k := s.core core
  if k.through = [] then s else s.setCore core { k with through := k.through.filter fun g => !(keys.map granuleOf).contains g }

/-- What an engine's access does on its way: its translations stand in the caches, it crosses the die links and it passes its banks. -/
def State.engWay (s : State) (core : Nat) (srcs : List ByteSrc) (ts : List Trans) (write : Bool) : State :=
  ((s.fills ts).cross (dieOf core) (placedKeys srcs) write).passed core (placedKeys srcs)

/-- An engine's write of bytes at translated places: it waits, or faults where a unit that is left out would hold a byte (R88, R367). -/
def State.engStore (s : State) (core addr : Nat) (srcs : List ByteSrc) (ts : List Trans) (bytes : List Byte) : Except AFault State :=
  match s.heldAt core false srcs, s.goneFault ts addr (placedKeys srcs) with
  | some e, _ => .error e
  | none, some e => .error e
  | none, none => .ok ((s.engWay core srcs ts true).storeVia ts (cellsOf srcs bytes))

/-- `n` bytes `d` bytes after an engine address, read for a domain. -/
def State.engRead (s : State) (core node ea d n : Nat) : Except AFault (List Byte × State) :=
  match placeEngine s s.seen (s.spaceOf core node) core .read ea d n with
  | .error e => .error e
  | .ok (srcs, ts) => match s.heldAt core true srcs with
    | some e => .error e
    | none => (s.engWay core srcs ts false).take node none 0 (bits ea 0 57 + d) srcs

/-- Bytes written `d` bytes after an engine address. -/
def State.engWrite (s : State) (core node ea d : Nat) (bytes : List Byte) : Except AFault State :=
  match placeEngine s s.seen (s.spaceOf core node) core .write ea d bytes.length with
  | .error e => .error e
  | .ok (srcs, ts) => s.engStore core (bits ea 0 57 + d) srcs ts bytes

/-- How far a command came: the state, what it completed (bytes, rows or entries), and the fault that stopped it. -/
structure Ran where
  s : State
  n : Nat
  fault : Option AFault
  deriving DecidableEq, Repr

/-- A forward copy of `n` bytes by granules of 32: each is read after those before it were written (R126). -/
def copyBytes (core node src dst : Nat) : Nat → Nat → Nat → Nat → State → Ran
  | 0, _, _, _, s => ⟨s, 0, none⟩
  | fuel + 1, d, e, n, s =>
    if n = 0 then ⟨s, 0, none⟩
    else
      let m := min 32 n
      match s.engRead core node src d m with
      | .error f => ⟨s, 0, some f⟩
      | .ok (bytes, s) => match s.engWrite core node dst e bytes with
        | .error f => ⟨s, 0, some f⟩
        | .ok s =>
          let r := copyBytes core node src dst fuel (d + m) (e + m) (n - m) s
          { r with n := r.n + m }

/-- Rows of work in ascending order, `i` the first, until one faults; what a faulting row did before its fault stays (R129)
(DEDUCED, log entry 85). -/
def runRows (row : Nat → State → State × Option AFault) : Nat → Nat → State → Ran
  | 0, _, s => ⟨s, 0, none⟩
  | n + 1, i, s =>
    match row i s with
    | (s, some f) => ⟨s, 0, some f⟩
    | (s, none) =>
      let r := runRows row n (i + 1) s
      { r with n := r.n + 1 }

/-- A step of work on a state that goes on, or stops with a fault as the state stands. -/
def stepOr (s : State) : Except AFault State → State × Option AFault
  | .ok t => (t, none)
  | .error e => (s, some e)

/-- A range at an engine address reaches a held bank. -/
def State.rangeHeld (s : State) (core node : Nat) (acc : Acc) (ea d n : Nat) : Option AFault :=
  match placeEngine s s.seen (s.spaceOf core node) core acc ea d n with
  | .error _ => none
  | .ok (srcs, _) => s.heldAt core (acc = .read) srcs

/-- BTE: rows in ascending order, each copied forward, once none of its banks is held (R88, R248) (DEDUCED, log entry 38). -/
def bteRows (core node src dst rbytes spitch dpitch : Nat) : Nat → Nat → State → Ran
  | 0, _, s => ⟨s, 0, none⟩
  | n + 1, j, s =>
    match s.rangeHeld core node .read src (j * spitch) rbytes, s.rangeHeld core node .write dst (j * dpitch) rbytes with
    | some f, _ => ⟨s, 0, some f⟩
    | none, some f => ⟨s, 0, some f⟩
    | none, none =>
      let r := copyBytes core node src dst (rbytes / 32 + 1) (j * spitch) (j * dpitch) rbytes s
      match r.fault with
      | some _ => { r with n := 0 }
      | none =>
        let t := bteRows core node src dst rbytes spitch dpitch n (j + 1) r.s
        { t with n := t.n + 1 }

/-- MCAST: each granule is read once and written to every destination, in increasing order, once no destination's bank is held
(R88, R127). -/
def mcastBytes (core node src doff : Nat) (dests : List Nat) : Nat → Nat → Nat → State → Ran
  | 0, _, _, s => ⟨s, 0, none⟩
  | fuel + 1, d, n, s =>
    if n = 0 then ⟨s, 0, none⟩
    else
      let m := min 32 n
      let cells := dests.flatMap fun k => keysFrom (keyOf (.pm k (doff + d))) m
      match s.engRead core node src d m, s.heldAt core false (cells.map .key) with
      | .error f, _ => ⟨s, 0, some f⟩
      | .ok _, some f => ⟨s, 0, some f⟩
      | .ok (bytes, s), none =>
        let s := dests.foldl (fun s k => s.storeCells ((keysFrom (keyOf (.pm k (doff + d))) m).zip bytes)) (s.passed core cells)
        let r := mcastBytes core node src doff dests fuel (d + m) (n - m) s
        { r with n := r.n + m }

/-- Cores of a mask of ranks in a core's cluster. -/
def maskCores (core mask : Nat) : List Nat := ((List.range 8).filter fun r => bitOf mask r).map fun r => clusterOf core * 8 + r

/-! ### Windows of tensors -/

/-- Bytes of a window row: row `r` of a tensor, from the byte `j0` of that row on, which may lie before it. Bytes outside the
tensor are pad (R252, R253). -/
def placeWindow (s : State) (rd : Nat → Byte) (sp : Space) (die : Nat) (acc : Acc) (t : Tensor) (r j0 : Int) (len : Nat) :
    Placed :=
  let w := fmtWidth t.fmt
  let pads (i n : Nat) : Placed := .ok ((List.range n).map fun (k : Nat) => .const (t.padByte ((j0 + (i : Int) + (k : Int)) % (w : Int)).toNat), [])
  let lo := if j0 < 0 then min len j0.natAbs else 0
  let first := (j0 + (lo : Int)).toNat
  let n := if 0 ≤ r ∧ r < t.trows then min (len - lo) (t.rowBytes - first) else 0
  let real := (pieces 65536 (n / 65536 + 2) (t.base + r.toNat * t.rpitch + first) n).foldl
    (fun q p => appendPlaced q (placePiece s rd sp die 3 acc false p.1 p.1 p.2)) (.ok ([], []))
  appendPlaced (appendPlaced (pads 0 lo) real) (pads (lo + n) (len - lo - n))

/-- A window row read through the layout unit (R252, R359). -/
def State.readWindow (s : State) (core node : Nat) (t : Tensor) (r j0 : Int) (len : Nat) : Except AFault (List Byte × State) :=
  match placeWindow s s.seen (s.spaceOf core node) (dieOf core) .read t r j0 len with
  | .error e => .error e
  | .ok (srcs, ts) => match s.heldAt core true srcs with
    | some e => .error e
    | none => (s.engWay core srcs ts false).take node (some t.fmt) (j0 % (fmtWidth t.fmt : Int)).toNat
      ((t.base : Int) + r * (t.rpitch : Int) + j0).toNat srcs

/-- A window row written through the layout unit: bytes outside the tensor are dropped (R253). -/
def State.writeWindow (s : State) (core node : Nat) (t : Tensor) (r j0 : Int) (bytes : List Byte) : Except AFault State :=
  match placeWindow s s.seen (s.spaceOf core node) (dieOf core) .write t r j0 bytes.length with
  | .error e => .error e
  | .ok (srcs, ts) => s.engStore core (t.base + r.toNat * t.rpitch) srcs ts bytes

/-- The tensor of a command's handle: read as the command begins, and kept (R250). -/
def State.cmdTensor (s : State) (core : Nat) (c : Cmd) (h : Nat) : Except AFault Tensor :=
  match keptTensor c.data with
  | some t => .ok t
  | none => s.tensorFor (s.spaceOf core c.node) (dieOf core) c.org.htbase c.org.htlen h

/-- TLD and TST (R252, R253); the checks that need the descriptor stop with no row written. -/
def State.runWindow (s : State) (core : Nat) (c : Cmd) (load : Bool) : Ran :=
  match s.cmdTensor core c (c.word 1) with
  | .error e => ⟨s, 0, some e⟩
  | .ok t =>
    let w := fmtWidth t.fmt
    let nrows := bits (c.word 3) 0 16
    let ncols := bits (c.word 3) 16 16
    let row0 := signExt (bits (c.word 2) 0 32) 32
    let col0 := signExt (bits (c.word 2) 32 32) 32
    let len := (ncols * w + 7) / 8
    let unit := if w = 4 then 2 else if w = 6 then 4 else 1
    if col0 % unit ≠ 0 ∨ ncols % unit ≠ 0 ∨ (1 < nrows ∧ c.word 5 < len) then ⟨s, 0, some (engFault 0 0)⟩
    else
      let j0 := col0 * (w : Int) / 8
      runRows (fun i s =>
        if load then match s.readWindow core c.node t (row0 + (i : Int)) j0 len with
          | .error e => (s, some e)
          | .ok (bytes, u) => stepOr s (u.engWrite core c.node (c.word 4) (i * c.word 5) bytes)
        else match s.engRead core c.node (c.word 4) (i * c.word 5) len with
          | .error e => (s, some e)
          | .ok (bytes, u) => stepOr s (u.writeWindow core c.node t (row0 + (i : Int)) j0 bytes)) (nrows - c.moved) c.moved s

/-! ### Gathered and scattered rows -/

/-- The row index of a place, read when its row begins (R299, R301). -/
def State.rowIndex (s : State) (core : Nat) (c : Cmd) (i : Nat) : Except AFault (Int × State) :=
  match s.engRead core c.node (c.word 2) (4 * i) 4 with
  | .error e => .error e
  | .ok (bs, s) => .ok (signExt (leNat bs) 32, s)

/-- TGATH (R299, R301). -/
def State.runGather (s : State) (core : Nat) (c : Cmd) : Ran :=
  match s.cmdTensor core c (c.word 1) with
  | .error e => ⟨s, 0, some e⟩
  | .ok t =>
    let n := c.word 3
    if 1 < n ∧ c.word 5 < t.rowBytes then ⟨s, 0, some (engFault 0 0)⟩
    else runRows (fun i s =>
      match s.rowIndex core c i with
      | .error e => (s, some e)
      | .ok (r, s) => match s.readWindow core c.node t r 0 t.rowBytes with
        | .error e => (s, some e)
        | .ok (bytes, u) => stepOr s (u.engWrite core c.node (c.word 4) (i * c.word 5) bytes)) (n - c.moved) c.moved s

/-- One contribution of a row to each word it reaches; half a word where the row ends in its middle (R300). -/
def contribute (ctx op seq : Nat) (soft : Option Nat) : Nat → List Nat → List Byte → State → State
  | 0, _, _, s => s
  | n + 1, keys, bytes, s =>
    if keys = [] then s
    else
      let k := keys.take 4
      let s := s.addRed ctx op k.length false k (leNat (bytes.take 4)) seq soft
      contribute ctx op seq soft n (keys.drop 4) (bytes.drop 4) s

/-- The domain of a range of tolerant pages (R359). -/
def softOf (node : Nat) (srcs : List ByteSrc) : Option Nat :=
  if srcs.any (fun b => match b with
    | .cell _ _ => true
    | _ => false) then some node else none

/-- TSCAT: rows added to the tensor by reductions (R300, R301). -/
def State.runScatter (s : State) (core : Nat) (c : Cmd) : Ran :=
  match s.cmdTensor core c (c.word 1) with
  | .error e => ⟨s, 0, some e⟩
  | .ok t =>
    let n := bits (c.word 3) 0 32
    let fmt := bits (c.word 3) 32 5
    if fmt ≠ t.fmt ∨ (1 < n ∧ c.word 5 < t.rowBytes) then ⟨s, 0, some (engFault 0 0)⟩
    else
      let op := if fmt = 0 then 8 else if fmt = 1 then 9 else 0
      runRows (fun i s =>
        match s.rowIndex core c i with
        | .error e => (s, some e)
        | .ok (r, s) =>
          if r < 0 ∨ (t.trows : Int) ≤ r then (s, none)
          else match s.engRead core c.node (c.word 4) (i * c.word 5) t.rowBytes with
            | .error e => (s, some e)
            | .ok (bytes, u) => match placeWindow u u.seen (u.spaceOf core c.node) (dieOf core) .write t r 0 t.rowBytes with
              | .error e => (s, some e)
              | .ok (srcs, ts) =>
                let keys := placedKeys srcs
                match u.heldAt core false srcs, u.goneFault ts (t.base + r.toNat * t.rpitch) keys with
                | some e, _ => (s, some e)
                | none, some e => (s, some e)
                | none, none =>
                  (contribute c.ctx op c.mark (softOf c.node srcs) (t.rowBytes / 4 + 1) keys bytes ((u.engWay core srcs ts true).demote ts keys), none))
        (n - c.moved) c.moved s

/-! ### The ZB boundary -/

/-- CHECK of R243. -/
def zbCheck (bs : List Byte) : Nat :=
  let r := bs.foldl (fun (p : Nat × Nat) b =>
    let x := (p.1 + b.toNat) % 255
    (x, (p.2 + x) % 255)) (0, 0)
  r.2 * 256 + r.1

/-- The 32 bytes of a chunk's bitmap (R242). -/
def zbBitmap (bs : List Byte) : List Byte :=
  (List.range 32).map fun g => BitVec.ofNat 8 (((List.range 8).map fun i => if bs.getD (8 * g + i) 0 = 0 then 0 else 2 ^ i).sum)

/-- The slot of a chunk, and whether the chunk fits (R242, R244). -/
def zbPack (slot : Nat) (bs : List Byte) : List Byte × Bool :=
  let nz := bs.filter (· ≠ 0)
  if 36 + nz.length ≤ slot then
    (leBytes 4 (zbCheck bs * 2 ^ 16 + nz.length) ++ zbBitmap bs ++ nz ++ List.replicate (slot - 36 - nz.length) 0, true)
  else (leBytes 4 0x1FF ++ List.replicate (slot - 4) 0, false)

/-- The chunk that a bitmap and its non-zero bytes give. -/
def zbSpread : Nat → Nat → Nat → List Byte → List Byte
  | 0, _, _, _ => []
  | n + 1, i, map, bs => if bitOf map i then bs.headD 0 :: zbSpread n (i + 1) map (bs.drop 1) else 0 :: zbSpread n (i + 1) map bs

/-- The chunk of a slot whose header, bitmap and bytes are read; none where it is a failed one (R245). -/
def zbOpen (slot header map : Nat) (bs : List Byte) : Option (List Byte) :=
  let nz := bits header 0 9
  let chunk := zbSpread 256 0 map bs
  if bits header 9 7 ≠ 0 ∨ 256 < nz ∨ slot < 36 + nz ∨ ((List.range 256).filter fun i => bitOf map i).length ≠ nz
      ∨ zbCheck chunk ≠ bits header 16 16 then none
  else some chunk

/-- BadAppend of R246: its entry and then its COUNT are written. -/
def State.badAppend (s : State) (core : Nat) (c : Cmd) (cap i : Nat) : State × Option AFault :=
  match s.engRead core c.node (c.word 4) 0 4 with
  | .error e => (s, some e)
  | .ok (bs, s) =>
    let count := leNat bs
    let next := leBytes 4 (min (count + 1) (2 ^ 32 - 1))
    if count < cap then match s.engWrite core c.node (c.word 4) (8 + 4 * count) (leBytes 4 i) with
      | .error e => (s, some e)
      | .ok s => stepOr s (s.engWrite core c.node (c.word 4) 0 next)
    else stepOr s (s.engWrite core c.node (c.word 4) 0 next)

/-- Bytes of a slot, none where reading them meets an error in their data (R245). -/
def State.zbRead (s : State) (core : Nat) (c : Cmd) (d n : Nat) : Except AFault (Option (List Byte) × State) :=
  match s.engRead core c.node (c.word 1) d n with
  | .ok (bs, s) => .ok (some bs, s)
  | .error e => if e.code = causeMemErr then .ok (none, s) else .error e

/-- The chunk of a slot; none where it is a failed one (R245). -/
def State.zbChunk (s : State) (core : Nat) (c : Cmd) (i : Nat) : Except AFault (Option (List Byte) × State) :=
  let slot := bits (c.word 3) 32 9
  match s.zbRead core c (slot * i) 36 with
  | .error e => .error e
  | .ok (front, s) =>
    let head := front.getD []
    let nz := leNat (head.take 4) % 512
    if front.isNone ∨ 256 < nz ∨ slot < 36 + nz then .ok (none, s)
    else match s.zbRead core c (slot * i + 36) nz with
      | .error e => .error e
      | .ok (rest, s) => .ok (rest.bind fun bs => zbOpen slot (leNat (head.take 4)) (leNat (head.drop 4)) bs, s)

/-- One chunk of a CMPX: its write stays where the list then faults (R245, R246). -/
def State.zbExpand (s : State) (core : Nat) (c : Cmd) (cap i : Nat) : State × Option AFault :=
  match s.zbChunk core c i with
  | .error e => (s, some e)
  | .ok (chunk, u) => match u.engWrite core c.node (c.word 2) (256 * i) (chunk.getD (List.replicate 256 0)) with
    | .error e => (s, some e)
    | .ok s => if chunk.isSome then (s, none) else s.badAppend core c cap i

/-- One chunk of a CMPW: its write stays where the list then faults (R244, R246). -/
def State.zbCompress (s : State) (core : Nat) (c : Cmd) (cap i : Nat) : State × Option AFault :=
  let slot := bits (c.word 3) 32 9
  match s.engRead core c.node (c.word 1) (256 * i) 256 with
  | .error e => (s, some e)
  | .ok (bs, u) =>
    let p := zbPack slot bs
    match u.engWrite core c.node (c.word 2) (slot * i) p.1 with
    | .error e => (s, some e)
    | .ok s => if p.2 then (s, none) else s.badAppend core c cap i

/-- CMPX and CMPW, with the CAP that was read when the command began (R244 to R246). -/
def State.runZb (s : State) (core : Nat) (c : Cmd) (expand : Bool) : Ran :=
  runRows (fun i s => if expand then s.zbExpand core c (c.data.headD 0) i else s.zbCompress core c (c.data.headD 0) i)
    (bits (c.word 3) 0 32 - c.moved) c.moved s

/-! ### Units of work -/

/-- What a command keeps from its begin on: the descriptor of its tensor, or CAP of its list (R246, R250). -/
def State.keepOf (s : State) (core : Nat) (c : Cmd) : Except AFault (List Nat × State) :=
  match c.op with
  | 4 | 5 | 8 | 9 => (s.cmdTensor core c (c.word 1)).map fun t =>
      (t.kept, s.descriptorRead (s.spaceOf core c.node) (dieOf core) c.org.htbase c.org.htlen (c.word 1))
  | 6 | 7 => (s.engRead core c.node (c.word 4) 4 4).map fun r => ([leNat r.1], r.2)
  | _ => .ok ([], s)

/-- Bytes, rows or chunks of a command that an engine of the package works through. -/
def unitsOfCmd (c : Cmd) : Nat :=
  match c.op with
  | 2 | 8 => c.word 3
  | 3 => bits (c.word 3) 32 16
  | 4 | 5 => bits (c.word 3) 0 16
  | 6 | 7 | 9 => bits (c.word 3) 0 32
  | _ => 0

/-- A command goes on from the units that it has completed; `n` counts those that it completes now. -/
def State.runOn (s : State) (core : Nat) (c : Cmd) : Ran :=
  match c.op with
  | 2 => mcastBytes core c.node (c.word 1) (bits (c.word 2) 0 20) (maskCores core (bits (c.word 2) 32 8))
      (c.word 3 / 32 + 1) c.moved (c.word 3 - c.moved) s
  | 3 => bteRows core c.node (c.word 1) (c.word 2) (bits (c.word 3) 0 32) (bits (c.word 4) 0 32) (bits (c.word 4) 32 32)
      (bits (c.word 3) 32 16 - c.moved) c.moved s
  | 4 => s.runWindow core c true
  | 5 => s.runWindow core c false
  | 6 => s.runZb core c true
  | 7 => s.runZb core c false
  | 8 => s.runGather core c
  | 9 => s.runScatter core c
  | _ => ⟨s, 0, none⟩

end Sys2Proof.Machine
end

