-- ==== Sys2Proof/Machine/Video.lean ====
section
/-! DEFINITION. Video decode: the job descriptor and the conversion of decoded samples into tensor rows (R352 to R354). The
decoded samples themselves are what the video standards give for the bitstream (log entry 8). -/

namespace Sys2Proof.Machine

/-- A job (R353); `w` holds the descriptor's nine words. -/
structure Job where
  bsaddr : Nat
  bslen : Nat
  codec : Nat
  frames : Nat
  cropx : Nat
  cropy : Nat
  cropw : Nat
  croph : Nat
  dw : Nat
  dh : Nat
  matrix : Nat
  full : Bool
  ofmt : Nat
  handle : Nat
  row0 : Nat
  col0 : Nat
  mean : List Nat
  istd : List Nat
  deriving DecidableEq, Repr

def jobOf (w : List Nat) : Job :=
  let g := fun i => w.getD i 0
  { bsaddr := bits (g 0) 0 57, bslen := bits (g 1) 0 32, codec := bits (g 1) 32 1, frames := bits (g 1) 40 8 + 1
    cropx := bits (g 2) 0 16, cropy := bits (g 2) 16 16, cropw := bits (g 2) 32 16, croph := bits (g 2) 48 16
    dw := bits (g 3) 0 16, dh := bits (g 3) 16 16, matrix := bits (g 3) 32 2, full := bitOf (g 3) 34, ofmt := bits (g 3) 35 5
    handle := bits (g 4) 0 32, row0 := bits (g 4) 32 32, col0 := bits (g 5) 0 32
    mean := [bits (g 6) 0 32, bits (g 6) 32 32, bits (g 7) 0 32]
    istd := [bits (g 7) 32 32, bits (g 8) 0 32, bits (g 8) 32 32] }

/-- Reserved bits and ranges of a descriptor (R353). -/
def jobOk (w : List Nat) : Bool :=
  let j := jobOf w
  bits (w.getD 0 0) 57 7 == 0 && bits (w.getD 1 0) 33 7 == 0 && bits (w.getD 1 0) 48 16 == 0 && bits (w.getD 3 0) 40 24 == 0
    && bits (w.getD 5 0) 32 32 == 0 && 1 ≤ j.cropw && 1 ≤ j.croph && 1 ≤ j.dw && j.dw ≤ 4096 && 1 ≤ j.dh && j.dh ≤ 4096
    && j.matrix != 3 && [1, 2, 3].contains j.ofmt

/-- A decoded frame: width, height, bit depth and the samples of Y, Cb and Cr in raster order. -/
abbrev Picture := Nat × Nat × Nat × List Nat

/-- Kr and Kb of a matrix (R354). -/
def matrixOf : Nat → Rat × Rat
  | 0 => (299 / 1000, 114 / 1000)
  | 1 => (2126 / 10000, 722 / 10000)
  | _ => (2627 / 10000, 593 / 10000)

def clampRat (lo hi x : Rat) : Rat := min (max x lo) hi

/-- R, G and B of a pixel of a frame (R354). -/
def pixel (j : Job) (p : Picture) (i k : Nat) : List Rat :=
  let w := p.1
  let h := p.2.1
  let b := p.2.2.1
  let xs := p.2.2.2
  let cw := (w + 1) / 2
  let at' := fun (n : Nat) => ((xs.getD n 0 : Nat) : Rat)
  let y := at' (k * w + i)
  let cb := at' (w * h + k / 2 * cw + i / 2)
  let cr := at' (w * h + cw * ((h + 1) / 2) + k / 2 * cw + i / 2)
  let top : Rat := ((2 ^ b - 1 : Nat) : Rat)
  let unit : Rat := ((2 ^ (b - 8) : Nat) : Rat)
  let yn := if j.full then y / top else (y - 16 * unit) / (219 * unit)
  let chroma := fun (c : Rat) =>
    if j.full then (c - ((2 ^ (b - 1) : Nat) : Rat)) / top else (c - 128 * unit) / (224 * unit)
  let kr := (matrixOf j.matrix).1
  let kb := (matrixOf j.matrix).2
  let r := yn + 2 * (1 - kr) * chroma cr
  let bl := yn + 2 * (1 - kb) * chroma cb
  let g := (yn - kr * r - kb * bl) / (1 - kr - kb)
  [clampRat 0 1 r, clampRat 0 1 g, clampRat 0 1 bl]

/-- Place of an output pixel along one axis: the first of its two source pixels, the second, and the second's weight
(R354). -/
def sampleAt (crop size out x : Nat) : Nat × Nat × Rat :=
  let s := clampRat (crop : Rat) ((crop + size - 1 : Nat) : Rat) ((crop : Rat) + ((x : Rat) + 1 / 2) * (size : Rat) / (out : Rat) - 1 / 2)
  let i := s.floor.toNat
  (i, min (i + 1) (crop + size - 1), s - (i : Rat))

def valOfRat (q : Rat) : Val := .fin (decide (q < 0)) q.num.natAbs q.den

/-- The code of a channel of an output pixel (R354) (DESIGN CHOICE, log entry 8). -/
def outCode (j : Job) (p : Picture) (c x y : Nat) : Nat :=
  let sx := sampleAt j.cropx j.cropw j.dw x
  let sy := sampleAt j.cropy j.croph j.dh y
  let v := fun i k => (pixel j p i k).getD c 0
  let top := v sx.1 sy.1 * (1 - sx.2.2) + v sx.2.1 sy.1 * sx.2.2
  let bottom := v sx.1 sy.2.1 * (1 - sx.2.2) + v sx.2.1 sy.2.1 * sx.2.2
  let q := top * (1 - sy.2.2) + bottom * sy.2.2
  let d := (addVal (valOfRat q) (negVal (decodeFloat (j.mean.getD c 0) 0))).val
  (narrow (mulVal d (decodeFloat (j.istd.getD c 0) 0)).val j.ofmt false).val

/-- Output row `n` of a frame: channel n / DH and line n mod DH (R354). -/
def outRow (j : Job) (p : Picture) (n : Nat) : List Byte :=
  let w := fmtWidth j.ofmt
  leBytes (j.dw * w / 8) (packElems w ((List.range j.dw).map fun x => outCode j p (n / j.dh) x (n % j.dh)))

/-- Frames written in output order, until one faults (R354). -/
def writeFrames (core : Nat) (c : Cmd) (j : Job) (t : Tensor) : List Picture → Nat → State → Ran
  | [], _, s => ⟨s, 0, none⟩
  | p :: ps, f, s =>
    let r := runRows (fun n s =>
      stepOr s (s.writeWindow core c.node t ((j.row0 + 3 * j.dh * f + n : Nat) : Int) ((j.col0 * fmtWidth t.fmt / 8 : Nat) : Int) (outRow j p n)))
      (3 * j.dh) 0 s
    match r.fault with
    | some _ => { r with n := 0 }
    | none =>
      let q := writeFrames core c j t ps (f + 1) r.s
      { q with n := q.n + 1 }

/-- A bitstream of R352: its profile (0 Main, 1 the Main 10 of H.265), level, chroma format and scan are among those accepted, and it begins with an IDR or CRA
picture, or with a sequence header and a key frame (R352) (DESIGN CHOICE, log entry 8). -/
def streamOk (codec : Nat) (x : Nat × Nat × Nat × Bool × Bool) : Bool :=
  x.1 ≤ (if codec = 0 then 1 else 0) && x.2.1 ≤ (if codec = 0 then 62 else 63) && x.2.2.1 == 1 && !x.2.2.2.1 && x.2.2.2.2

/-- A decoded frame within the limits of R352: at most 8,192 by 4,352, with 4:2:0 samples of 8 bits, for H.265 Main 10 of up to 10, and for
AV1 of 8 or 10. -/
def pictureOk (codec profile : Nat) (p : Picture) : Bool :=
  1 ≤ p.1 && p.1 ≤ 8192 && 1 ≤ p.2.1 && p.2.1 ≤ 4352 && (p.2.2.1 == 8 || (codec == 0 && profile == 1 && (p.2.2.1 == 9 || p.2.2.1 == 10)) || (codec != 0 && p.2.2.1 == 10))
    && p.2.2.2.length == p.1 * p.2.1 + 2 * ((p.1 + 1) / 2) * ((p.2.1 + 1) / 2)

/-- The frames that a VDE decodes: none of a bitstream that is not accepted, and else those before the first that breaks its standard or
its limits; leading pictures that cannot be decoded are not among them (R352, R353) (DESIGN CHOICE, log entry 8). -/
def framesOf (codec : Nat) (stream : List Byte) : List Picture :=
  let x := Config.videoStream codec stream
  if streamOk codec x then (Config.decodeVideo codec stream).takeWhile (pictureOk codec x.1) else []

/-- VDEC: the descriptor and the bitstream are read, the checks are made, and the frames are written; a bitstream that breaks
its standard or ends early is ENGFAULT with the count of frames written (R353, R354) (DESIGN CHOICE, log entry 8). -/
def State.runVideo (s : State) (core : Nat) (c : Cmd) : Ran :=
  match s.engRead core c.node (c.word 2) 0 72 with
  | .error e => ⟨s, 0, some e⟩
  | .ok (bs, s) =>
    let w := (List.range 9).map fun i => leNat ((bs.drop (8 * i)).take 8)
    let j := jobOf w
    if !jobOk w then ⟨s, 0, some (engFault 0 0)⟩
    else match s.cmdTensor core c j.handle with
      | .error e => ⟨s, 0, some e⟩
      | .ok t =>
        let s := s.descriptorRead (s.spaceOf core c.node) (dieOf core) c.org.htbase c.org.htlen j.handle
        if t.fmt ≠ j.ofmt then ⟨s, 0, some (engFault 0 0)⟩
        else match s.engRead core c.node (3 * 2 ^ 62 + j.bsaddr) 0 j.bslen with
          | .error e => ⟨s, 0, some e⟩
          | .ok (stream, s) =>
            let frames := (framesOf j.codec stream).take j.frames
            if frames.any fun p => p.1 < j.cropx + j.cropw || p.2.1 < j.cropy + j.croph then ⟨s, 0, some (engFault 0 0)⟩
            else
              let r := writeFrames core c j t frames 0 s
              match r.fault with
              | some _ => r
              | none => if frames.length < j.frames then { r with fault := some (engFault frames.length 0) } else r

end Sys2Proof.Machine
end

