-- ==== Sys2Proof/Machine/Outside.lean ====
section
/-! DEFINITION. Engines that reach outside the package: network, collectives, storage and page requests, with the events
that their answers are (R334, R345, R347 to R351). -/

namespace Sys2Proof.Machine

def State.emit (s : State) (o : List Out) : State := { s with dev := { s.dev with out := s.dev.out ++ o } }

/-- The fault domain that an endpoint of this package is bound to (R348); a domain's node is not 0. -/
def State.endpointNode (s : State) (ep : Nat) : Option Nat :=
  (s.dev.endpoints.find? fun e => e.1 == ep && e.2.2 != 0).map (·.2.2)

/-! ### The IOD's way to memory -/

/-- A link between the IOD and a compute die retrains, in either direction (R355). -/
def State.iodHeld (s : State) (die : Nat) : Bool := (s.link (2 + 2 * die)).retrain || (s.link (3 + 2 * die)).retrain

/-- An access of the IOD waits for a die link that retrains, a word that is being replayed or a unit under test (R355, R357). -/
def State.iodWaits (s : State) (keys : List Nat) (read : Bool) : Bool :=
  (((keys.filter (· % 8 ≠ 5)).map homeDie).eraseDups.any s.iodHeld) || (read && s.replaying keys) || keys.any s.unitBusy

/-- Bytes that the IOD writes, each die's in a flit of its link (R355). -/
def State.iodStore (s : State) (via : List Trans) (cells : List (Nat × Byte)) : State :=
  let dies := ((cells.filter fun c => c.1 % 8 ≠ 5).map fun c => homeDie c.1).eraseDups
  (dies.foldl (fun s d => s.crossOne (3 + 2 * d) ((cells.filter fun c => c.1 % 8 ≠ 5 && homeDie c.1 == d).map fun c => wordOf c.1).eraseDups)
    s).storeVia via cells

/-! ### NETTX -/

/-- Bytes in parts of `n` (R349). -/
def partsOf (n : Nat) : Nat → List Byte → List (List Byte)
  | 0, _ => []
  | fuel + 1, bs => if bs = [] then [] else bs.take n :: partsOf n fuel (bs.drop n)

/-- Packets of a NETTX: one for each 4,096 bytes (R349). -/
def packets (c : Cmd) : Nat := (bits (c.word 4) 0 32 + 4095) / 4096

/-- One packet of a NETTX; a RADDR of 0 sends an untargeted message (R349, R350). -/
def packetOf (c : Cmd) (p : Nat) (bs : List Byte) : Out :=
  .packet (bits (c.word 1) 0 3) (bits (c.word 1) 16 32) (if c.word 3 = 0 then 0 else c.word 3 + 4096 * p) (bits (c.word 4) 32 8)
    (bits (c.word 4) 40 5) (bits (c.word 4) 0 32) (4096 * p) bs

/-- NETTX: the source is read and its packets leave (R349). -/
def State.runSend (s : State) (core : Nat) (c : Cmd) : Ran :=
  let len := bits (c.word 4) 0 32
  match s.engRead core c.node (c.word 2) 0 len with
  | .error e => ⟨s, 0, some e⟩
  | .ok (bs, s) => ⟨s.emit ((partsOf 4096 (len / 4096 + 1) bs).zipIdx.map fun p => packetOf c p.2 p.1), 0, none⟩

/-- The command at a position of a queue. -/
def State.cmdAt (s : State) (core q pos : Nat) : Option Cmd := (s.queue core q).cmds.find? fun c => c.pos == pos

/-- A NETTX keeps in `data`, after a mark that is 0 until it is to fault, the packets acknowledged, and with 2^32 added those refused that
are still to be sent again (R349). -/
def Cmd.acked (c : Cmd) : List Nat := (c.data.drop 1).filter (· < 2 ^ 32)
def Cmd.refused (c : Cmd) : List Nat := ((c.data.drop 1).filter (2 ^ 32 ≤ ·)).map (· - 2 ^ 32)
def Cmd.withPackets (c : Cmd) (acked refused : List Nat) : Cmd :=
  { c with moved := acked.length, data := 0 :: acked ++ refused.map (2 ^ 32 + ·) }

/-- Refused packets are sent again, their bytes read afresh, as far as reading them waits for nothing and faults nowhere: what is left,
and the fault met (R349) (DEDUCED, log entry 46). -/
def State.resend (s : State) (core : Nat) (c : Cmd) : List Nat → State × List Nat × Option AFault
  | [] => (s, [], none)
  | p :: t =>
    let r := s.resend core c t
    match r.1.engRead core c.node (c.word 2) (4096 * p) (min 4096 (bits (c.word 4) 0 32 - 4096 * p)) with
    | .error e => (r.1, p :: r.2.1, if e.code = 0 then r.2.2 else some e)
    | .ok (bs, s) => (s.emit [packetOf c p bs], r.2)

/-- A NETTX sends its refused packets again; a fault of reading them is taken once it heads its queue (R129, R349). -/
def State.sendAgain (s : State) (core : Nat) (c : Cmd) : State :=
  let r := s.resend core c c.refused
  match r.2.2.filter fun _ => (s.head core 15).map (·.pos) == some c.pos with
  | some e => r.1.haltCmd core 15 { c with data := [] } 0 e
  | none => r.1.setCmd core 15 (c.withPackets c.acked r.2.1)

/-- PACKET_ACK: the receiver answers a packet of a NETTX: it has landed, which counts once, or it was refused and is sent again
(R349). -/
def execPacketAck (core : Nat) (ack : Ack) (s : State) : Result :=
  done s (match s.cmdAt core 15 ack.pos with
    | none => s
    | some c =>
      if !c.begun ∨ packets c ≤ ack.packet ∨ c.acked.contains ack.packet ∨ c.data.headD 0 ≠ 0 then s
      else if ack.landed then s.setCmd core 15 (c.withPackets (ack.packet :: c.acked) (c.refused.filter (· ≠ ack.packet)))
      else s.sendAgain core (c.withPackets c.acked ((ack.packet :: c.refused).eraseDups)))

/-- A NETTX whose transport timed out, or whose read of host memory failed, faults when the queue comes to it (R345, R349): 1 at the head of
`data` marks the one, and 3 with the reason word and the address the other (DEDUCED, log entry 80). -/
def State.failSend (s : State) (core : Nat) (c : Cmd) : State :=
  s.haltCmd core 15 c (min (4096 * c.moved) (bits (c.word 4) 0 32))
    (if c.data.headD 0 = 3 then engFault (c.data.getD 1 0) (c.data.getD 2 0) else engFault 0 0)

/-- TRANSPORT_TIMEOUT: a packet of a NETTX was refused until the transport gave up (R349). -/
def execTransportTimeout (core pos : Nat) (s : State) : Result :=
  done s (match s.cmdAt core 15 pos with
    | none => s
    | some c =>
      if !c.begun then s
      else if (s.head core 15).map (·.pos) = some pos then s.failSend core c
      else s.setCmd core 15 { c with data := [1] })

/-- PACKET_LANDING: a packet's bytes land at RADDR in the domain of its endpoint, and then RFLAG of RCORE grows by 1; where
RADDR does not translate for a write the packet is refused (R302, R349). One whose way to memory is held has not landed yet and changes
nothing (R355, R357) (DEDUCED, log entry 46). -/
def execPacketLanding (ep raddr rcore rflag : Nat) (data : List (BitVec 8)) (s : State) : Result :=
  done s (match s.endpointNode ep with
    | none => s.emit [.packetAnswer ep raddr false]
    | some node => match placeVirtual s s.seen (s.space node) 0 3 .write false raddr data.length with
      | .error _ => s.emit [.packetAnswer ep raddr false]
      | .ok (srcs, ts) =>
        if s.iodWaits (placedKeys srcs) false then s else
        let s := ((s.fills ts).iodStore ts (cellsOf srcs data)).emit [.packetAnswer ep raddr true]
        let core := rcore % 256
        s.sendInc core { at' := (s.core core).el, flag := rflag % 32, n := 1, node := node, ctx := 0, inst := 0, kills := false })

/-! ### NETRXP -/

/-- A posted buffer (R350). -/
def rxOf (core : Nat) (c : Cmd) : RxBuf :=
  { core := core, port := bits (c.word 1) 0 3, node := c.node, buf := c.word 2, len := c.word 3, fcore := c.fcore, flag := c.flag
    ctx := c.ctx, inst := c.inst, launch := c.launch, msg := none, got := [] }

/-- The buffer that a packet of a message fills: the one that the message has taken, and else the first of the port and the domain
that none has (R350). -/
def State.rxFor (s : State) (port node : Nat) (msg : Nat × Nat × Nat) : Option RxBuf :=
  let mine := s.dev.rx.filter fun b => b.port == port && b.node == node
  match mine.find? fun b => b.msg == some msg with
  | some b => some b
  | none => mine.find? fun b => b.msg.isNone

/-- Header and flags of a filled buffer (R350). -/
def rxHeader (b : RxBuf) (src len : Nat) : List Byte :=
  leBytes 8 (len % 2 ^ 32 + src % 2 ^ 32 * 2 ^ 32) ++ leBytes 56 (if b.len - 64 < len then 1 else 0)

/-- UNTARGETED_MESSAGE: a packet of an untargeted message arrives, its bytes from an offset on. Its first packet takes the next posted
buffer of the port and the endpoint's domain; bytes land behind the header, cut to fit, and once all have, the header is written
and the flag rises; with no buffer posted the packet is refused, and where its buffer only keeps it waiting nothing changes until the
packet is taken up again (R349, R350) (DEDUCED, log entry 46). -/
def execUntargetedMessage (port ep src : Nat) (packet : Packet) (s : State) : Result :=
  let refused := s.emit [.packetAnswer ep 0 false]
  done s (match s.endpointNode ep with
    | none => refused
    | some node => match s.rxFor port node (src, packet.msg, packet.len) with
      | none => refused
      | some b =>
        if b.got.contains (packet.off, packet.bytes.length) then s.emit [.packetAnswer ep 0 true]
        else
          let all := b.got ++ [(packet.off, packet.bytes.length)]
          let body := packet.bytes.take (b.len - 64 - packet.off)
          let last := packet.len ≤ (all.map (·.2)).sum
          match s.engWrite b.core node b.buf (64 + packet.off) body with
          | .error e => if e.code = 0 then s else refused
          | .ok s1 => match if last then s1.engWrite b.core node b.buf 0 (rxHeader b src packet.len) else .ok s1 with
            | .error e => if e.code = 0 then s else refused
            | .ok s =>
              let s := s.emit [.packetAnswer ep 0 true]
              if last then
                ({ s with dev := { s.dev with rx := s.dev.rx.erase b } }).sendInc b.fcore
                  { at' := (s.core b.fcore).el, flag := b.flag, n := 1, node := node, ctx := b.ctx, inst := b.inst, kills := true }
              else
                let b' := { b with msg := some (src, packet.msg, packet.len), got := all }
                { s with dev := { s.dev with rx := s.dev.rx.map fun d => if d = b then b' else d } })

/-! ### COLL -/

/-- A collective's fields: operation, group, format and length (R125, R351). -/
def collCop (c : Cmd) : Nat := bits (c.word 1) 0 4
def collGroup (c : Cmd) : Nat := bits (c.word 1) 8 8
def collFmt (c : Cmd) : Nat := bits (c.word 1) 16 5

def State.members (s : State) (g : Nat) : List (Nat × Nat) := tabGet [] s.dev.groups g

/-- The rank of a core of this package in a group (R351) (DEDUCED, log entry 46). -/
def State.rankOf (s : State) (g core : Nat) : Option Nat :=
  (s.members g).findIdx? fun m => m.2 == core && (s.endpointNode m.1).isSome

/-- COLL joins the next operation of its group: its number is drawn once, and its part is formed and sent (R351). -/
def State.runColl (s : State) (core : Nat) (c : Cmd) : Ran × Cmd :=
  let g := collGroup c
  let len := c.word 4
  match s.rankOf g core with
  | none => (⟨s, 0, some (engFault 0 0)⟩, c)
  | some rank =>
    if collCop c = 2 ∧ len % ((s.members g).length * (fmtWidth (collFmt c) / 8)) ≠ 0 then (⟨s, 0, some (engFault 0 0)⟩, c)
    else if c.data ≠ [] then (⟨s, 0, none⟩, c)
    else
      match if collCop c = 3 ∧ rank ≠ 0 then .ok ([], s) else s.engRead core c.node (c.word 2) 0 len with
      | .error e => (⟨s, 0, some e⟩, c)
      | .ok (bs, s) =>
        let k := tabGet 0 s.dev.collSeq (256 * g + rank)
        let p : CollPart := { group := g, op := k, rank := rank, cop := collCop c, fmt := collFmt c, len := len, data := bs }
        let s := { s with dev := { s.dev with collParts := s.dev.collParts ++ [p]
                                              collSeq := tabPut s.dev.collSeq (256 * g + rank) (k + 1) } }
        (⟨s.emit [.collective g k rank bs], 0, none⟩, { c with data := [k, rank] })

/-- COLLECTIVE_PACKET: another member's part of an operation arrives (R351) (DEDUCED, log entry 46). -/
def execCollectivePacket (group op rank cop fmt len : Nat) (data : List (BitVec 8)) (s : State) : Result :=
  let p : CollPart := { group := group, op := op, rank := rank, cop := cop, fmt := fmt, len := len, data := data }
  done s (if s.dev.collParts.any fun q => q.group == group && q.op == op && q.rank == rank then s
    else { s with dev := { s.dev with collParts := s.dev.collParts ++ [p] } })

/-- The sum of one element over the ranks, in rank order (R351). -/
def elementSum (fmt : Nat) : List Nat → Nat
  | [] => 0
  | x :: xs =>
    if fmt = 19 then wrapInt (xs.foldl (fun (t : Int) y => t + signExt y 32) (signExt x 32)) 32
    else
      let v := xs.foldl (fun v y => decodeFloat (narrow (addVal v (decodeFloat y fmt)).val 0 false).val 0) (decodeFloat x fmt)
      (narrow v fmt false).val

/-- Element sums of the ranks' parts (R351). -/
def sumParts (fmt len : Nat) (parts : List CollPart) : List Byte :=
  let w := fmtWidth fmt / 8
  (List.range (len / w)).flatMap fun i =>
    leBytes w (elementSum fmt (parts.map fun p => leNat ((p.data.drop (w * i)).take w)))

/-- What an operation gives the member of a rank: offsets from DST with bytes (R351). -/
def collResult (cop fmt len rank : Nat) (parts : List CollPart) : List (Nat × List Byte) :=
  let n := parts.length
  match cop with
  | 0 => [(0, sumParts fmt len parts)]
  | 1 => (parts.zipIdx).map fun p => (p.2 * len, p.1.data)
  | 2 => [(0, ((sumParts fmt len parts).drop (rank * (len / n))).take (len / n))]
  | _ => [(0, (parts.head?.map (·.data)).getD [])]

/-- The parts of an operation in rank order; none while one is missing. -/
def State.partsFor (s : State) (g k : Nat) : Option (List CollPart) :=
  (List.range (s.members g).length).mapM fun r => s.dev.collParts.find? fun p => p.group == g && p.op == k && p.rank == r

/-- A member's result of an operation is written behind DST (R351). -/
def State.writeColl (s : State) (core : Nat) (c : Cmd) (parts : List CollPart) : Ran :=
  (collResult (collCop c) (collFmt c) (c.word 4) (c.data.getD 1 0) parts).foldl (fun (r : Ran) p =>
    match r.fault with
    | some _ => r
    | none => match r.s.engWrite core c.node (c.word 3) p.1 p.2 with
      | .error e => { r with fault := some e }
      | .ok s => { r with s := s, n := r.n + p.2.length }) ⟨s, 0, none⟩

/-- A COLL ends once every member's part is there: a mismatch is ENGFAULT, and else its result is written (R351)
(DEDUCED, log entry 46). -/
def State.finishColl (s : State) (core : Nat) (c : Cmd) : State :=
  match s.partsFor (collGroup c) (c.data.getD 0 0) with
  | none => s
  | some parts =>
    if parts.any fun p => p.cop ≠ collCop c || p.fmt ≠ collFmt c || p.len ≠ c.word 4 then s.haltCmd core 14 c 0 (engFault 0 0)
    else
      let r := s.writeColl core c parts
      match r.fault with
      | some e => r.s.haltCmd core 14 c r.n e
      | none => r.s.complete core 14 c

/-! ### STGRD -/

/-- Bytes of a block of a namespace (R346). -/
def blockBytes (big : Bool) : Nat := if big then 4096 else 512

def stgPort (c : Cmd) : Nat := bits (c.word 1) 0 3
def stgNsid (c : Cmd) : Nat := bits (c.word 1) 8 32

/-- Bytes per block of the namespace that a STGRD reads. -/
def State.stgBlock (s : State) (c : Cmd) : Nat :=
  ((s.dev.nsids.find? fun n => n.1 == stgPort c && n.2.1 == stgNsid c).map (·.2.2.2)).getD 512

/-- Blocks of one Read command of a STGRD: at most MDTS and 1 MiB (R347). -/
def State.stgBatch (s : State) (c : Cmd) : Nat := max 1 (min (Config.largestRead (stgPort c)) (2 ^ 20) / s.stgBlock c)

/-- A list of pages for a Read command: first key and length of each part of its destination within one page of 4 KiB (R347)
(DESIGN CHOICE, log entry 98). -/
def prpsOf (srcs : List ByteSrc) (va : Nat) : List (Nat × Nat) :=
  let keys := placedKeys srcs
  (pieces 4096 (keys.length / 4096 + 2) va keys.length).map fun p => (keys.getD (p.1 - va) 0, p.2)

/-- Commands outstanding in a queue pair (R346). -/
def State.pair (s : State) (port pair : Nat) : List NvmeRead := tabGet [] s.dev.nvme (32 * port + pair)
def State.setPair (s : State) (port pair : Nat) (rs : List NvmeRead) : State :=
  { s with dev := { s.dev with nvme := tabPut s.dev.nvme (32 * port + pair) rs } }

/-- The completion queue of a queue pair, which firmware keeps with it in STM that it reserves: where there is open, so that the queues
stand beside memory (R346) (DESIGN CHOICE, log entry 98). -/
def State.ends (s : State) (port pair : Nat) : List NvmeEnd := tabGet [] s.dev.nvmeDone (32 * port + pair)
def State.setEnds (s : State) (key : Nat) (es : List NvmeEnd) : State :=
  { s with dev := { s.dev with nvmeDone := if es = [] then tabErase s.dev.nvmeDone key else tabPut s.dev.nvmeDone key es } }

/-- The queue pair that takes the next Read command: which one is open, among those with room for one more of their 1,024 entries
(R346, R347) (DESIGN CHOICE, log entry 98). -/
def State.freePair (s : State) (port : Nat) : Option Nat :=
  pickOf s.fresh ((List.range 32).filter fun p => (s.pair port p).length + (s.ends port p).length < 1023)

/-- The Read commands of a STGRD from its next block on, while a queue pair has room: `data` holds the block; with the fault of a
destination page that no longer translates (R347). -/
def State.sendFrom (s : State) (core : Nat) (c : Cmd) : Nat → Nat → State × Nat × Option AFault
  | 0, b => (s, b, none)
  | fuel + 1, b =>
    if c.word 3 ≤ b then (s, b, none)
    else match s.freePair (stgPort c) with
      | none => (s, b, none)
      | some p =>
        let n := min (s.stgBatch c) (c.word 3 - b)
        let size := s.stgBlock c
        match placeEngine s s.seen (s.space c.node) core .write (c.word 4) (b * size) (n * size) with
        | .error e => (s, b, some e)
        | .ok (srcs, ts) =>
          let r : NvmeRead := { core := core, pos := c.pos, nsid := stgNsid c, lba := c.word 2 + b, blocks := n
                                prps := prpsOf srcs (bits (c.word 4) 0 57 + b * size), via := ts, since := s.dev.clock }
          let s := ({ s with fresh := s.fresh + 1 }).setPair (stgPort c) p (s.pair (stgPort c) p ++ [r])
          State.sendFrom (s.emit [.nvmeRead (stgPort c) p r.nsid r.lba n r.prps]) core c fuel (b + n)

/-- STGRD: its begin checks and the walk of every destination page (R347). -/
def State.runRead (s : State) (core : Nat) (c : Cmd) : Ran :=
  if !Config.controller (stgPort c) then ⟨s, 0, some (engFault 0 0)⟩
  else match s.dev.nsids.find? fun n => n.1 == stgPort c && n.2.1 == stgNsid c with
    | none => ⟨s, 0, some (engFault 0 0)⟩
    | some (_, _, size, bytes) =>
      if size < c.word 2 + c.word 3 then ⟨s, 0, some (engFault 0 0)⟩
      else match placeEngine s s.seen (s.space c.node) core .write (c.word 4) 0 (c.word 3 * bytes) with
        | .error e => ⟨s, 0, some e⟩
        | .ok (_, ts) => ⟨s.fills ts, 0, none⟩

/-- A STGRD that faults leaves no Read command behind (R129, R347) (DESIGN CHOICE, log entry 98). -/
def State.haltRead (s : State) (core : Nat) (c : Cmd) (e : AFault) : State :=
  let mine (r : NvmeRead) : Bool := r.core == core && r.pos == c.pos
  { s with dev := { s.dev with
      nvme := s.dev.nvme.map fun (p : Nat × List NvmeRead) => (p.1, p.2.filter fun r => !mine r)
      nvmeDone := s.dev.nvmeDone.map fun (p : Nat × List NvmeEnd) => (p.1, p.2.filter fun e => !mine e.read) } }.haltCmd core 17
    { c with data := [] } c.moved e

/-- A begun STGRD sends what Read commands the queue pairs have room for; a destination that no longer translates stops it (R347). -/
def State.sendReads (s : State) (core : Nat) (c : Cmd) : State :=
  let r := s.sendFrom core c (c.word 3) (c.data.headD 0)
  match r.2.2 with
  | some e => r.1.haltRead core c e
  | none => if r.2.1 = c.data.headD 0 then s else r.1.setHead core 17 { c with data := [r.2.1] }

/-- The engine takes an entry of a completion queue: its blocks are written where its list says, or its status faults the STGRD; none
where the bytes have to wait on their way (R347, R355, R357). -/
def State.takeEnd (s : State) (e : NvmeEnd) : Option State :=
  let r := e.read
  match s.head r.core 17 with
  | none => some s
  | some c =>
    if c.pos ≠ r.pos ∨ !c.begun then some s
    else if e.status ≠ 0 then some (s.haltRead r.core c (engFault (e.status % 2 ^ 16) 0))
    else
      let cells := (r.prps.flatMap fun p => keysFrom p.1 p.2).zip e.data
      if s.iodWaits (cells.map (·.1)) false then none
      else some ((s.iodStore r.via cells).setHead r.core 17 { c with moved := c.moved + r.blocks * s.stgBlock c })

/-- The entries of a completion queue are taken in order, as far as they may. -/
def State.takeEnds (key : Nat) : List NvmeEnd → State → State
  | [], s => s.setEnds key []
  | e :: t, s => match s.takeEnd e with
    | none => s.setEnds key (e :: t)
    | some s => State.takeEnds key t s

/-- Every completion queue is looked at anew (R346). -/
def State.takeAllEnds (s : State) : State :=
  s.dev.nvmeDone.foldl (fun s (p : Nat × List NvmeEnd) => State.takeEnds p.1 (tabGet [] s.dev.nvmeDone p.1) s) s

/-- A begun STGRD takes what completion queues hold; it ends once every byte is there, and else sends on (R347). -/
def State.finishRead (s : State) (core : Nat) (c : Cmd) : State :=
  let s := s.takeAllEnds
  match s.head core 17 with
  | none => s
  | some d => if d.pos ≠ c.pos then s else if d.moved = d.word 3 * s.stgBlock d then s.complete core 17 d else s.sendReads core d

/-- NVME_COMPLETION: a Read command of a queue pair ends: its entry stands in the completion queue until the engine takes it, at once
where it may (R346, R347). -/
def execNvmeCompletion (port : Nat) (slot : PairSlot) (status : Nat) (data : List (BitVec 8)) (s : State) : Result :=
  done s (match (s.pair port slot.pair)[slot.idx]? with
    | none => s
    | some r =>
      let s := s.setPair port slot.pair ((s.pair port slot.pair).eraseIdx slot.idx)
      State.takeEnds (32 * port + slot.pair) (s.ends port slot.pair ++ [{ read := r, status := status, data := data }]) s)

/-- Cycles of the IOD's clock in which a Read command must complete (R347). -/
def storageLimit : Nat := 15000000000

/-- STORAGE_TIMEOUT: a Read command of the running STGRD has had no completion in time (R347). -/
def execStorageTimeout (core : Nat) (s : State) : Result :=
  done s (match s.head core 17 with
    | none => s
    | some c =>
      let late := s.dev.nvme.any fun (p : Nat × List NvmeRead) =>
        p.2.any fun r => r.core == core && r.pos == c.pos && r.since + storageLimit ≤ s.dev.clock
      if c.begun ∧ c.op = 20 ∧ late then s.haltRead core c (engFault (2 ^ 16) 0) else s)

/-! ### PGREQ -/

/-- Size of the page that a walk stops at; one unit where it stops above a leaf (R334). -/
def pageSize (rd : Nat → Byte) (va : Nat) : Nat → Nat → Nat → Nat
  | lvl, table, loc =>
    let e := readLe rd (physKey loc 0 (table + 8 * bits va (levelLow lvl) (levelBits lvl))) 8
    if !bitOf e 0 || !entryOk e lvl then 65536
    else if bitOf e 1 then 2 ^ levelLow lvl
    else match lvl with
      | 0 => 65536
      | l + 1 => pageSize rd va l (bits e 8 44 * 2 ^ 8) (bits e 4 2)

/-- First address of the page of an address. -/
def State.pageOf (s : State) (node va : Nat) : Nat :=
  let n := pageSize s.byte va 4 (s.space node).root (s.space node).loc
  va / n * n

/-- A page that a PGREQ waits for, as a number in `data`: twice its first address, plus 1 where no response is outstanding: it is
walked again until it is resident (R334). -/
def askedPage (page : Nat) : Nat := 2 * page
def watchedPage (page : Nat) : Nat := 2 * page + 1

/-- Requests of a PGREQ that are outstanding (R334). -/
def outstanding (c : Cmd) : Nat := c.data.countP fun d => d % 2 == 0

/-- A PGREQ's walk of a page; a cached translation does not tell (R334). -/
def State.askWalk (s : State) (node va : Nat) : Walked := walkWith s.seen (fun _ => none) s.wordBad (s.space node) va .read

/-- A page walks as resident. -/
def State.walksResident (s : State) (node va : Nat) : Bool :=
  match s.askWalk node va with
  | .ok _ => true
  | _ => false

/-- The fault of a walk that meets bad data in an entry (R360). -/
def State.walkError (s : State) (node va : Nat) : Option AFault :=
  match s.askWalk node va with
  | .bad detail => some (memFault detail va)
  | _ => none

/-- A PGREQ walks its units from its next one on, while fewer than 32 requests are outstanding: a resident unit is done with, a page
that firmware moves is watched, and any other is asked for, once a page. `moved` counts units walked (R334)
(DEDUCED, log entry 86). -/
def State.askPages (s : State) : Nat → Cmd → List Out → Cmd × List Out × Option AFault
  | 0, c, out => (c, out, none)
  | fuel + 1, c, out =>
    if bits (c.word 2) 0 32 ≤ c.moved ∨ 32 ≤ outstanding c then (c, out, none)
    else
      let sp := s.space c.node
      let va := bits (c.word 1) 0 57 + 65536 * c.moved
      let next := { c with moved := c.moved + 1 }
      match s.askWalk c.node va with
      | .bad detail => (c, out, some (memFault detail va))
      | .ok _ => State.askPages s fuel next out
      | .prot => State.askPages s fuel next out
      | .stop _ _ mig =>
        let p := s.pageOf c.node va
        if c.data.any (fun d => d / 2 == p) then State.askPages s fuel next out
        else if mig then State.askPages s fuel { next with data := c.data ++ [watchedPage p] } out
        else State.askPages s fuel { next with data := c.data ++ [askedPage p] } (out ++ [.pageRequest sp.pasid p])

/-- PGREQ asks for pages; an error in an entry that it walks is MEMERR (R360). -/
def State.runPages (s : State) (c : Cmd) : State × Cmd × Option AFault :=
  let r := s.askPages (bits (c.word 2) 0 32 + 1) c []
  (s.emit r.2.1, r.1, r.2.2)

/-- A PGREQ goes on with the pages that it has still to ask for. -/
def State.goOnPages (s : State) (core : Nat) (c : Cmd) : State :=
  let r := s.runPages c
  match r.2.2 with
  | some e => r.1.haltCmd core 19 { c with data := [] } r.2.1.moved e
  | none => r.1.setHead core 19 { r.2.1 with begun := true }

/-- A PGREQ completes once every unit has walked as resident: a page that has need not stay so (R334) (DEDUCED, log entry 86). -/
def State.finishPages (s : State) (core : Nat) (c : Cmd) : State :=
  match c.data.findSome? fun d => if d % 2 = 0 then none else s.walkError c.node (d / 2) with
  | some e => s.haltCmd core 19 { c with data := [] } c.moved e
  | none =>
    let c' := { c with data := c.data.filter fun d => d % 2 == 0 || !s.walksResident c.node (d / 2) }
    let r := s.runPages c'
    if r.2.2.isNone ∧ r.2.1.data = [] ∧ bits (r.2.1.word 2) 0 32 ≤ r.2.1.moved then r.1.complete core 19 r.2.1
    else if r.2.2.isNone ∧ r.2.1 = c then s
    else s.goOnPages core c'

/-- PAGE_REQUEST_RESPONSE: a code of 0 is a success, after which the page is walked again until it is resident; a failure is ENGFAULT
at the page (R334) (DEDUCED, log entry 86). -/
def execPageRequestResponse (core page code : Nat) (s : State) : Result :=
  done s (match s.head core 19 with
    | none => s
    | some c =>
      if !c.begun ∨ !c.data.contains (askedPage page) then s
      else if code ≠ 0 then s.haltCmd core 19 { c with data := [] } c.moved (engFault 0 page)
      else s.goOnPages core { c with data := c.data.map fun d => if d = askedPage page then watchedPage page else d })

/-! ### Failed requests to host memory -/

/-- A place in host memory. -/
def hostKey (k : Nat) : Bool := k % 8 == 5

/-- DETAIL of a failed request to host memory: KIND 6 and its status (R345, R360). -/
def hostDetail (status : Nat) : Nat := 6 + status % 2 ^ 16 * 256

/-- A context's access at a place of its port fails (R345): a load or an AMO takes no data; a write fails only by a refused
translation, status 9, and is dropped (DEDUCED, log entry 80). -/
def State.failAccess (s : State) (c idx status : Nat) : State :=
  let x := s.ctx c
  match x.port[idx]? with
  | none => s
  | some i => match (opKeys i.op).find? hostKey with
    | none => s
    | some k =>
      let cause : Cause := { code := causeMemErr, detail := hostDetail status, faddr := failAddr i.via i.addr k, smask := 0 }
      let x := { x with port := x.port.eraseIdx idx }
      match i.op with
      | .load _ | .amo .. => s.setCtx c (x.failLoad i.id cause)
      | _ => if status = 9 then s.setCtx c { x with boundary := addCause x.boundary cause } else s

/-- The command of a queue whose request at an address fails: of queue 15, where several NETTXs send at once, the begun one whose source
holds the address, and else the head (R345, R349) (DEDUCED, log entry 80). -/
def State.requester (s : State) (core q addr : Nat) : Option Cmd :=
  let u := s.queue core q
  if u.halted.isSome then none
  else match if q = 15 then u.cmds.find? fun c => c.begun && bits (c.word 2) 0 57 ≤ addr && addr < bits (c.word 2) 0 57 + bits (c.word 4) 0 32
      else none with
    | some c => some c
    | none => u.cmds.head?.filter (·.begun)

/-- A command that only writes to memory: its requests are posted, and fail only by a refused translation (R345). -/
def postsOnly (c : Cmd) : Bool := c.op == 19 || c.op == 20

/-- A failed request of an agent: contexts are numbered from 0, and engine queues from 1,024, 20 to a core. For a context
`idx` is the place in its port, for an engine the failing address; a NETTX behind others faults when the queue comes to it
(DEDUCED, log entry 80). -/
def State.failRequest (s : State) (agent idx status : Nat) : State :=
  if agent < 1024 then s.failAccess agent idx status
  else
    let core := (agent - 1024) / 20
    let q := (agent - 1024) % 20
    match s.requester core q idx with
    | none => s
    | some c =>
      if postsOnly c ∧ status ≠ 9 then s
      else if c.op = 20 then s.haltRead core c (engFault (hostDetail status) idx)
      else if (s.queue core q).cmds.head?.map (·.pos) = some c.pos then s.haltCmd core q c c.moved (engFault (hostDetail status) idx)
      else s.setCmd core q { c with data := [3, hostDetail status, idx] }

/-- An error logged for Advanced Error Reporting: bit 14 a completion timeout, bit 15 a completer abort, as PCI Express numbers them
(R338) (PRESUMED, log entry 99). -/
def State.logAer (s : State) (bit : Nat) : State := { s with dev := { s.dev with aer := s.dev.aer ||| 2 ^ bit } }

/-- HOST_ERROR_COMPLETION (R345). -/
def execHostErrorCompletion (agent idx status : Nat) (s : State) : Result := done s (s.failRequest agent idx status)

/-- The IOD's clock counts 1,500,000 cycles in a millisecond (R3). -/
def clockPerMs : Nat := 1500000

/-- When an agent's request could leave at the earliest: none where it has none that awaits a completion, as a posted write does not
(R345). -/
def State.requestFrom (s : State) (agent idx : Nat) : Option Nat :=
  if agent < 1024 then
    ((s.ctx agent).port[idx]?.filter fun i => i.op.reads && (opKeys i.op).any hostKey).map (·.since)
  else ((s.requester ((agent - 1024) / 20) ((agent - 1024) % 20) idx).filter fun c => !postsOnly c).map (·.since)

/-- HOST_COMPLETION_TIMEOUT: no completion has come within the port's timeout: status 8, which is logged for Advanced Error Reporting
(R338, R345). -/
def execHostCompletionTimeout (agent idx : Nat) (s : State) : Result :=
  done s (match s.requestFrom agent idx with
    | none => s
    | some t => if t + clockPerMs * s.dev.timeout ≤ s.dev.clock then (s.failRequest agent idx 8).logAer 14 else s)

end Sys2Proof.Machine
end

