-- ==== Sys2Proof/Machine/EngRun.lean ====
section
/-! DEFINITION. Engine commands: their begin, their completion and the write pointer of a copy channel (R122, R125 to R129,
R264, R315). The lock commands of queue 13 stand in Lock.lean. -/

namespace Sys2Proof.Machine

/-- The size field of a command is zero: it performs nothing (R125) (DEDUCED, log entry 45). -/
def zeroSize (c : Cmd) : Bool :=
  match c.op with
  | 1 | 2 => c.word 3 == 0
  | 3 => bits (c.word 3) 0 32 == 0 || bits (c.word 3) 32 16 == 0
  | 4 | 5 => bits (c.word 3) 0 16 == 0
  | 6 | 7 | 9 => bits (c.word 3) 0 32 == 0
  | 8 => c.word 3 == 0
  | 17 => c.word 4 == 0
  | 18 => bits (c.word 4) 0 32 == 0
  | 20 => c.word 3 == 0
  | 22 => bits (c.word 2) 0 32 == 0
  | _ => false

/-- A command that may begin next: the head, or in queue 15 the first that has not, once those before it have sent their
packets (R122, R349). -/
def State.toBegin (s : State) (core q : Nat) : Option Cmd :=
  let u := s.queue core q
  if u.halted.isSome then none
  else if q = 15 then
    let before := u.cmds.takeWhile (·.begun)
    match u.cmds.drop before.length with
    | [] => none
    | c :: _ => if before = [] ∨ (before.all (·.op == 18) ∧ c.data = []) then some c else none
  else u.cmds.head?.filter fun c => !c.begun

/-- What an IOD engine's command does as it begins (R347, R349, R353). -/
def State.runFar (s : State) (core : Nat) (c : Cmd) : Ran :=
  match c.op with
  | 18 => s.runSend core c
  | 20 => s.runRead core c
  | 21 => s.runVideo core c
  | _ => ⟨s, 0, none⟩

/-- A command begins: it reads what it keeps, and does what it can at once. A CPY, a QPUSH and a NETRXP act later; one whose source
is held begins later (R88, R122, R129). -/
def State.beginCmd (s : State) (core q : Nat) (c : Cmd) : State :=
  match s.keepOf core { c with data := [] } with
  | .error e => if e.code = 0 then s else s.haltCmd core q c 0 e
  | .ok (kept, s) =>
    let c := { c with data := kept }
    if unitsOfCmd c ≠ 0 then
      let r := s.runOn core c
      match r.fault with
      | some e => r.s.haltCmd core q c r.n e
      | none => r.s.setCmd core q { c with begun := true, moved := r.n }
    else
      let r := s.runFar core c
      match r.fault with
      | some e =>
        if e.code = 0 then s
        -- a NETTX behind others faults when it heads the queue
        else if (r.s.queue core q).cmds.head?.map (·.pos) = some c.pos then r.s.haltCmd core q c r.n e
        else s.setCmd core q { c with data := [2] }
      | none => r.s.setCmd core q { c with begun := true, moved := r.n }

/-- What was stored into own PM before it performs, and the next command of a queue begins, once none of that is held; a fault halts its
queue (R122, R129, R264) (DEDUCED, log entry 44). -/
def State.beginNext (s : State) (core queue : Nat) : State :=
  match s.toBegin core queue with
  | none => s
  | some c =>
    if queue = 13 ∨ c.op = 10 ∨ zeroSize c then s.setCmd core queue { c with begun := true }
    else
      let s := s.ownBefore core c.mark
      let c := { c with moved := 0, since := s.dev.clock }
      if s.ownLeft core c.mark then s
      else if c.op = 17 then
        let r := s.runColl core c
        match r.1.fault with
        | some e => if e.code = 0 then s else r.1.s.haltCmd core queue r.2 0 e
        | none => r.1.s.setHead core queue { r.2 with begun := true }
      else if c.op = 22 then s.goOnPages core { c with data := [] }
      else s.beginCmd core queue c

/-- ENGINE_COMMAND_BEGIN (R122). -/
def execEngineCommandBegin (core queue : Nat) (s : State) : Result := done s (s.beginNext core queue)

/-! ### Copies -/

/-- The value that a copy channel's pointer has still to take: the bytes delivered by whole 128, or all of them; it passes the last
value written (R126). -/
def pointerDue (c : Cmd) : Option Nat :=
  let v := if c.moved = c.word 3 then c.moved else c.moved / 128 * 128
  if bitOf (c.word 4) 24 ∧ c.pointer < v then some v else none

/-- Keys of the write pointer of a copy channel (R126). -/
def pointerKeys (core : Nat) (c : Cmd) : List Nat := keysFrom (pmKey core (c.word 4 % 2 ^ 24)) 4

/-- The write pointer of a copy channel, a release of the bytes it counts, takes a value (R126). -/
def State.writePointer (s : State) (core : Nat) (c : Cmd) (v : Nat) : State × Cmd :=
  (s.storeCells (cellsAt (pointerKeys core c) v), { c with pointer := v })

/-- The next `n` bytes of a CPY move; its pointer is written at every 128 bytes and at the end, before any further byte moves (R88,
R126). The state, the command as far as it came, and what stopped it. -/
def copySteps (core : Nat) : Nat → Nat → Cmd → State → State × Cmd × Option AFault
  | 0, _, c, s => (s, c, none)
  | fuel + 1, n, c, s =>
    match pointerDue c, s.heldAt core false ((pointerKeys core c).map .key) with
    | some _, some f => (s, c, some f)
    | due, _ =>
      let p := match due with
        | some v => s.writePointer core c v
        | none => (s, c)
      if n = 0 then (p.1, p.2, none)
      else
        let m := min n (128 - c.moved % 128)
        let r := copyBytes core c.node (c.word 1) (c.word 2) (m / 32 + 1) c.moved c.moved m p.1
        let c := { p.2 with moved := c.moved + r.n }
        match r.fault with
        | some f => (r.s, c, some f)
        | none => copySteps core fuel (n - m) c r.s

/-- The next `n` bytes of a CPY move, and its write pointer follows (DEDUCED, log entry 44). -/
def State.copyOn (s : State) (core q : Nat) (c : Cmd) (n : Nat) : State × Bool :=
  match copySteps core (n / 128 + 2) n c s with
  | (s, c, some e) => (s.haltCmd core q c c.moved e, false)
  | (s, c, none) => (s.setHead core q c, true)

/-- COPY_POINTER_WRITE: a channel delivers 128 more bytes and writes its pointer; the last bytes come with the completion
(R126) (DEDUCED, log entry 44). -/
def execCopyPointerWrite (core queue : Nat) (s : State) : Result :=
  done s (match s.head core queue with
    | none => s
    | some c => if c.op = 1 ∧ c.begun ∧ c.moved + 128 < c.word 3 then (s.copyOn core queue c (128 - c.moved % 128)).1 else s)

/-- A QFENCE that heads every queue it names completes (R128). -/
def State.finishFence (s : State) (core : Nat) (c : Cmd) : State :=
  let qs := queuesOf 10 c.block
  if qs.all fun q => (s.queue core q).cmds.head?.map (·.mark) = some c.mark then
    (qs.foldl (fun s q => s.leave core q) s).raise c c.fcore
  else s

/-- A free slot of a stage queue's ring, from the next one on (R309, R315) (DEDUCED, log entry 45). -/
def freeSlot (st : Stage) (q : StageQueue) : Option Nat :=
  let n := st.qlen + 1
  ((List.range n).map fun i => (q.tail + i) % n).find? fun i =>
    let off := st.qbase + 64 * i
    !(q.ready.contains off || q.out.contains off)

/-- The key of a stage's queue in a cluster. -/
def stageKey (cluster stage : Nat) : Nat := cluster * 32 + stage

/-- A launch changed. -/
def State.setLaunch (s : State) (id : Nat) (l : Launch) : State :=
  { s with dev := { s.dev with launches := tabPut s.dev.launches id l } }

/-- A slot that becomes deliverable stands behind those that did before it, those of the same cycle in ascending number of their source
cores (R314). -/
def StageQueue.deliver (q : StageQueue) (now core off : Nat) : StageQueue :=
  let later (d : Nat) : Bool := let t := tabGet (0, 0) q.tags d; t.1 == now && core < t.2
  { q with ready := (q.ready.takeWhile fun d => !later d) ++ off :: q.ready.dropWhile fun d => !later d
           tags := tabPut q.tags off (now, core) }

/-- QPUSH: once its ring has a free slot the descriptor is copied there and may be delivered (R315). -/
def State.finishPush (s : State) (core : Nat) (c : Cmd) : State :=
  let sq := c.word 1
  let key := stageKey (clusterOf core) sq
  match s.dev.launches.find? fun p => p.1 == c.launch with
  | none => s
  | some (_, l) =>
    match l.stages[sq]? with
    | none => s
    | some st =>
      let q := tabGet StageQueue.init l.stageQ key
      match freeSlot st q with
      | none => s
      | some i =>
        let off := st.qbase + 64 * i
        match s.engRead core c.node (c.word 2) 0 64 with
        | .error e => s.haltCmd core 12 c 0 e
        | .ok (bs, s) =>
          let s := s.storeCells ((keysFrom (keyOf (.csm (clusterOf core) off)) 64).zip bs)
          let q := { q.deliver s.now core off with tail := (i + 1) % (st.qlen + 1) }
          (s.setLaunch c.launch { l with stageQ := tabPut l.stageQ key q }).complete core 12 c

/-- MCAST completes at each destination (R127). -/
def State.finishMcast (s : State) (core : Nat) (c : Cmd) : State :=
  (maskCores core (bits (c.word 2) 32 8)).foldl (fun s k => s.raise c k) (s.leave core 4)

/-- A command that a held bank stopped goes on from where it came to (R88, R237). -/
def State.resumeCmd (s : State) (core q : Nat) (c : Cmd) : State :=
  let r := s.runOn core c
  match r.fault with
  | some e => r.s.haltCmd core q c (c.moved + r.n) e
  | none => r.s.setHead core q { c with moved := c.moved + r.n }

/-- The command at the head of a queue goes on; once what it waits for has come, it leaves and its flag rises (R125 to R128, R302,
R315, R347 to R351). -/
def State.finishHead (s : State) (core queue : Nat) : State :=
  match s.head core queue with
  | none => s
  | some c =>
    if c.op = 10 then s.finishFence core c
    else if queue = 13 ∨ !c.begun then s
    else if zeroSize c ∧ c.op ≠ 2 then s.complete core queue c
    else if c.moved < unitsOfCmd c then s.resumeCmd core queue c
    else match c.op with
      | 2 => s.finishMcast core c
      | 1 => (match s.copyOn core queue c (c.word 3 - c.moved) with
        | (s, true) => s.complete core queue c
        | (s, false) => s)
      | 9 => (s.drainOf c.ctx).complete core queue c
      | 11 => s.finishPush core c
      | 17 => s.finishColl core c
      | 18 => if c.data.headD 0 ≠ 0 then s.failSend core c else if packets c ≤ c.moved then s.complete core queue c
        else if c.refused ≠ [] then s.sendAgain core c else s
      | 19 => ({ s with dev := { s.dev with rx := s.dev.rx ++ [rxOf core c] } }).leave core queue
      | 20 => s.finishRead core c
      | 22 => s.finishPages core c
      | _ => s.complete core queue c

/-- ENGINE_COMMAND_COMPLETE (R125). -/
def execEngineCommandComplete (core queue : Nat) (s : State) : Result := done s (s.finishHead core queue)

/-- The key at which the command at the head of a queue waits for a bank, a link or a unit, if it does (R88). -/
def State.cmdWaits (s : State) (core q : Nat) : Option Nat :=
  match s.head core q with
  | none => none
  | some c =>
    let fault : Option AFault :=
      if c.op = 1 ∧ c.begun then (copySteps core 2 (128 - c.moved % 128) c s).2.2
      else if c.begun then
        if c.moved < unitsOfCmd c then (s.runOn core c).fault
        else if c.op = 11 then (match s.engRead core c.node (c.word 2) 0 64 with
          | .error e => some e
          | .ok _ => none)
        else if c.op = 17 then (s.partsFor (collGroup c) (c.data.getD 0 0)).bind fun parts => (s.writeColl core c parts).fault
        else none
      else match s.keepOf core { c with data := [] } with
        | .error e => some e
        | .ok _ => if c.op = 17 then (s.runColl core c).1.fault else (s.runFar core c).fault
    match fault with
    | some e => if e.code = 0 then some e.detail else none
    | none => none

end Sys2Proof.Machine
end

