-- ==== Sys2Proof/Machine/Lock.lean ====
section
/-! DEFINITION. The lock manager: names and modes, transactions, requests, upgrades, releases, granting, wounds, escalation
and lock errors (R267, R272 to R288). -/

namespace Sys2Proof.Machine

/-! ### Names and modes -/

/-- A lock's name (R272). -/
structure LockName where
  node : Nat
  handle : Nat
  lvl : Nat
  tile : Nat
  line : Nat
  deriving DecidableEq, Repr

def LockEntry.name (e : LockEntry) : LockName := ⟨e.node, e.handle, e.lvl, e.tile, e.line⟩
def LockLate.name (e : LockLate) : LockName := ⟨e.node, e.handle, 2, e.tile, e.line⟩

/-- The lock home of a handle (R272). -/
def homeOf (handle : Nat) : Nat := handle % 32

/-- The cluster that serves a lock home: the one of its number, and where that is removed the one of its number XOR 16, and where that
is removed as well the lowest that is left (R16, R367). -/
def State.homeServer (s : State) (h : Nat) : Nat :=
  if !(s.cluster h).removed then h
  else if !(s.cluster (h ^^^ 16)).removed then h ^^^ 16
  else ((List.range Config.clusters).find? fun c => !(s.cluster c).removed).getD 0

/-- Lock scope of a core at a home: .clu where its cluster is the home's own, and else .pkg (R267, R367). -/
def State.lockScope (s : State) (core h : Nat) : Nat :=
  if clusterOf core = h ∧ !(s.cluster h).removed then 2 else 4

/-- The parent of a tile or a line (R276). -/
def LockName.parent (n : LockName) : Option LockName :=
  match n.lvl with
  | 0 => none
  | 1 => some { n with lvl := 0, tile := 0, line := 0 }
  | _ => some { n with lvl := 1, line := 0 }

/-- The locks above one, the nearest first. -/
def LockName.ancestors (n : LockName) : List LockName :=
  match n.parent with
  | none => []
  | some p => match p.parent with
    | none => [p]
    | some q => [p, q]

/-- `m` lies directly or indirectly under `n`. -/
def LockName.passes (n m : LockName) : Bool := m.ancestors.contains n

/-- Compat of R274: mode `b` may be granted while another holds `a`; row and column NL read as 1. -/
def compat (pat : Word64) (a b : Nat) : Bool := a == 0 || b == 0 || bitOf pat.toNat (8 * a + b)

/-- Join of two modes (R275). -/
def joinMode (a b : Nat) : Nat :=
  if a = 0 then b
  else if b = 0 then a
  else
    let rows : List (List Nat) :=
      [[1, 2, 3, 4, 5, 7, 7], [2, 2, 2, 5, 5, 7, 7], [3, 2, 3, 5, 5, 6, 7], [4, 5, 5, 4, 5, 7, 7], [5, 5, 5, 5, 5, 7, 7],
        [7, 7, 6, 7, 7, 6, 7], [7, 7, 7, 7, 7, 7, 7]]
    (rows.getD (a - 1) []).getD (b - 1) 7

/-- An ancestor's mode that already grants a mode beneath it (R276). -/
def grantsBelow (held mode : Nat) : Bool :=
  match mode with
  | 1 | 4 => held == 4 || held == 5 || held == 7
  | 3 | 6 => held == 6 || held == 7
  | _ => held == 7

/-- Modes of a parent under which a mode may be requested (R276). -/
def parentModes (mode : Nat) : List Nat :=
  match mode with
  | 1 | 4 => [1, 2, 5]
  | 3 | 6 => [3, 2, 5]
  | _ => [2, 5]

/-- Modes of the line level (R276). -/
def lineMode (m : Nat) : Bool := m == 4 || m == 6 || m == 7

/-! ### A home's entries -/

def State.home (s : State) (h : Nat) : LockHome := (s.cluster h).home
def State.setHome (s : State) (h : Nat) (x : LockHome) : State := s.setCluster h { s.cluster h with home := x }

/-- The entry of a context on a lock. -/
def LockHome.entryOf (h : LockHome) (c : Nat) (n : LockName) : Option LockEntry :=
  h.entries.find? fun e => e.ctx == c && e.name == n

/-- The mode in which a context holds a lock; 0 where it holds none. -/
def LockHome.held (h : LockHome) (c : Nat) (n : LockName) : Nat := ((h.entryOf c n).map (·.mode)).getD 0

/-- Covered of R276. -/
def LockHome.covered (h : LockHome) (c : Nat) (n : LockName) (mode : Nat) : Bool :=
  n.ancestors.any fun a => grantsBelow (h.held c a) mode

/-- The parent is held, or asked for and not yet granted, in a mode that R276 requires (DEDUCED, log entry 49). -/
def LockHome.parentPresent (h : LockHome) (c : Nat) (n : LockName) (mode : Nat) : Bool :=
  match n.parent with
  | none => true
  | some p => match h.entryOf c p with
    | none => false
    | some e => (parentModes mode).contains e.mode || (parentModes mode).contains e.want

/-- The parent is granted: it is held in a mode that R276 requires, or no upgrade of it that would bring one is still pending
(R276, R283) (DEDUCED, log entry 49). -/
def LockHome.parentGranted (h : LockHome) (c : Nat) (n : LockName) (mode : Nat) : Bool :=
  match n.parent with
  | none => true
  | some p => match h.entryOf c p with
    | none => h.covered c n mode
    | some e => (e.mode != 0 && ((parentModes mode).contains e.mode || e.want == 0)) || h.covered c n mode

/-- A context holds or awaits a lock that a test names. -/
def LockHome.has (h : LockHome) (c : Nat) (p : LockName → Bool) : Bool :=
  h.entries.any (fun e => e.ctx == c && p e.name) || h.late.any fun e => e.ctx == c && p e.name

/-- A context holds or awaits a lock at some home (R278). -/
def State.holdsLocks (s : State) (c : Nat) : Bool := s.clusters.any fun p => p.2.home.has c fun _ => true

/-- An entry replaced. -/
def LockHome.put (h : LockHome) (e : LockEntry) : LockHome :=
  { h with entries := h.entries.map fun d => if d.ctx = e.ctx ∧ d.name = e.name then e else d }

/-- Entries put in order of their ordinals. -/
def byOrd (e : LockEntry) : List LockEntry → List LockEntry
  | [] => [e]
  | d :: t => if e.ord < d.ord then e :: d :: t else d :: byOrd e t

/-- What is queued on a lock, in the order of R283: upgrades and then waiters, each by ordinal. -/
def LockHome.queued (h : LockHome) (n : LockName) : List LockEntry :=
  let q := h.entries.filter fun e => e.name == n && e.want != 0
  (q.filter (·.mode != 0)).foldr byOrd [] ++ (q.filter (·.mode == 0)).foldr byOrd []

/-- `w` may be granted, with `before` still queued before it (R283). -/
def LockHome.grantable (h : LockHome) (before : List LockEntry) (w : LockEntry) : Bool :=
  (h.entries.all fun e => e.name != w.name || e.ctx == w.ctx || compat w.pat e.mode w.want)
    && (before.all fun v => !(v.ord < w.ord || (v.mode != 0 && w.mode == 0)) || compat w.pat v.want w.want)
    && h.parentGranted w.ctx w.name w.want

/-! ### Flags -/

/-- A flag of a grant rises; flag 32 stands for none (R263, R279). -/
def State.lockFlag (s : State) (fcore flag node ctx : Nat) : State :=
  if flag = 32 then s
  else s.sendInc fcore { at' := (s.core fcore).el, flag := flag, n := 1, node := node, ctx := ctx, inst := (s.ctx ctx).inst
                         kills := true }

/-! ### Escalation -/

/-- The tile over a line. -/
def lineUnder (tile : LockName) (c : Nat) (e : LockEntry) : Bool := e.ctx == c && e.lvl == 2 && tile.passes e.name

/-- Join of the modes that a context holds or awaits on lines under a tile (R286). -/
def LockHome.linesJoin (h : LockHome) (c : Nat) (tile : LockName) : Nat :=
  (h.entries.filter (lineUnder tile c)).foldl (fun m e => joinMode m (joinMode e.mode e.want)) 0

/-- A granted escalation: line entries under the tile are freed, and every line request there is granted as covered; it
answers the locks whose holders changed (R286). -/
def State.escalated (s : State) (h c : Nat) (tile : LockName) : State × List LockName :=
  let x := s.home h
  let lines := x.entries.filter (lineUnder tile c)
  let late := x.late.filter fun e => e.ctx == c && tile.passes e.name
  let s := s.setHome h { x with entries := x.entries.filter fun e => !lineUnder tile c e
                                late := x.late.filter fun e => !(e.ctx == c && tile.passes e.name) }
  let s := (lines.filter (·.want != 0)).foldl (fun s e => s.lockFlag e.fcore e.flag e.node c) s
  let s := late.foldl (fun s e => s.lockFlag e.fcore e.flag e.node c) s
  (s, (lines.filter (·.mode != 0)).map (·.name))

/-! ### Evaluation -/

/-- One grant: a wait becomes a hold, an upgrade raises its hold, and the flag rises; it answers the locks to evaluate next, the lock
itself where a holder's mode has changed
(R276, R283, R286) (DEDUCED, log entry 49). -/
def State.grantLock (s : State) (h : Nat) (w : LockEntry) : State × List LockName :=
  let s := s.setHome h ((s.home h).put { w with mode := w.want, want := 0, esc := false })
  let s := s.lockFlag w.fcore w.flag w.node w.ctx
  let r := if w.esc then s.escalated h w.ctx w.name else (s, [])
  let children := (((r.1.home h).entries.filter fun e => e.ctx == w.ctx && e.want != 0 && e.name.parent == some w.name).map
    (·.name))
  (r.1, (if w.mode = 0 then [] else [w.name]) ++ children ++ r.2)

/-- The grants of one evaluation, in order (R283). -/
def grantPass (h : Nat) : List LockEntry → List LockEntry → State → State × List LockName
  | _, [], s => (s, [])
  | before, w :: t, s =>
    if (s.home h).grantable before w then
      let r := s.grantLock h w
      let q := grantPass h before t r.1
      (q.1, r.2 ++ q.2)
    else grantPass h (before ++ [w]) t s

/-- WoundTx of R284: what the transaction still awaits is cancelled, here at once and at other homes by a notice, with its
requests in queue 13 (DEDUCED, log entry 49). A killed context is not wounded (R285). -/
def State.woundTx (s : State) (h c byOrdinal : Nat) : State :=
  let x := s.ctx c
  if x.wound.isSome ∨ x.mode = .killed then s
  else
    let s := s.setCtx c { x with wound := some byOrdinal }
    let k := s.core (coreOf c)
    let q := queueOf k 13
    let q := { q with cmds := q.cmds.map fun d => if d.ctx = c ∧ (d.op = 13 ∨ d.op = 14) then { d with void := true } else d }
    let s := s.setCore (coreOf c) { k with queues := tabPut k.queues 13 q }
    let notice := (c, x.txn.getD 0)
    { s with clusters := s.clusters.map fun p =>
        let y := p.2.home
        if p.1 = h then (p.1, { p.2 with home := y.cancel c })
        else if y.has c fun _ => true then (p.1, { p.2 with home := { y with cancels := y.cancels ++ [notice] } })
        else p }

/-- Wound(L) of R284: holders younger than a waiter that they keep waiting are wounded. Where several waiters wound in one pass, the
ordinal recorded is that of the first in queue order, and a waiter whose request an earlier wound of the pass has cancelled still
wounds: the rule says neither (DESIGN CHOICE, log entry 109). -/
def State.wounds (s : State) (h : Nat) (n : LockName) : State :=
  let x := s.home h
  let holders := x.entries.filter fun e => e.name == n && e.mode != 0
  ((x.queued n).flatMap fun w =>
    (holders.filter fun e => e.ctx != w.ctx && w.ord < e.ord && !compat w.pat e.mode w.want).map fun e => (e.ctx, w.ord)).foldl
    (fun s p => s.woundTx h p.1 p.2) s

/-- Evaluate(L) of R283. -/
def State.evaluate (s : State) (h : Nat) (n : LockName) : State × List LockName :=
  let r := grantPass h [] ((s.home h).queued n) s
  (r.1.wounds h n, r.2)

/-- Locks evaluated in turn, with those that their grants call for. -/
def evaluateAll (h : Nat) : Nat → List LockName → State → State
  | 0, _, s => s
  | _, [], s => s
  | fuel + 1, n :: t, s =>
    let r := s.evaluate h n
    evaluateAll h fuel (t ++ r.2) r.1

/-- Locks of a home evaluated. -/
def State.settleLocks (s : State) (h : Nat) (ns : List LockName) : State :=
  evaluateAll h (ns.length + 4 * (s.home h).entries.length + 8) ns s

/-! ### Age counts -/

/-- A home's count is raised; passing a multiple of 1,024, which a count that reaches one does, it sends the count to the other homes, and
it does so too where another home's message has raised it: the rule says neither (R277) (DESIGN CHOICE, log entry 111). -/
def State.raiseAge (s : State) (h n : Nat) : State :=
  let x := s.home h
  let n := min n (2 ^ 59 - 1)
  if n ≤ x.age then s
  else
    let s := s.setHome h { x with age := n }
    if x.age / 1024 = n / 1024 then s
    else ((List.range Config.clusters).filter (· ≠ h)).foldl (fun s j =>
      let y := s.home j
      s.setHome j { y with ages := y.ages ++ [(h, n)] }) s

/-- AGE_COUNT_RECEIVE: the next count that a home sent arrives (R277). -/
def execAgeCountReceive (home src : Nat) (s : State) : Result :=
  let x := s.home home
  done s (match x.ages.find? fun a => a.1 == src with
    | none => s
    | some a => (s.setHome home { x with ages := x.ages.erase a }).raiseAge home a.2)

/-- WOUND_CANCEL_ARRIVAL: the cancellation of a wounded transaction reaches another home (R284). -/
def execWoundCancelArrival (home ctx : Nat) (s : State) : Result :=
  let x := s.home home
  done s (match x.cancels.find? fun a => a.1 == ctx with
    | none => s
    | some a =>
      let y := { x with cancels := x.cancels.erase a }
      s.setHome home (if (s.ctx ctx).txn = some a.2 then y.cancel ctx else y))

/-! ### Commands -/

def causeLockErr : Nat := 0x33

/-- The lock that a block names (R272). -/
def lockName (c : Cmd) : LockName :=
  { node := c.node, handle := c.word 1, lvl := bits (c.word 2) 48 2, tile := bits (c.word 2) 0 32, line := bits (c.word 2) 32 16 }

/-- The home of a lock command (R279). -/
def lockHome (c : Cmd) : Nat := c.word 1 % 32

/-- A lock error, taken at the next bundle boundary of the context, where it still runs the instance (R287)
(DEDUCED, log entry 47). -/
def State.lockError (s : State) (c : Cmd) (code : Nat) : State :=
  let named := c.op = 13 ∨ c.op = 14 ∨ c.op = 15
  let detail := (if named then c.word 1 * 2 ^ 32 + bits (c.word 2) 48 2 * 2 ^ 9 else 0) + lockHome c * 2 ^ 4 + code
  let x := s.ctx c.ctx
  if x.inst ≠ c.inst ∨ x.mode = .killed ∨ x.mode = .ended ∨ x.mode = .unbound then s
  else s.setCtx c.ctx { x with boundary := addCause x.boundary { code := causeLockErr, detail := detail, faddr := c.baddr, smask := 0 } }

/-- A command's flag rises (R279); flag 32, of a release at the end of an instance, is none (R288). -/
def State.lockDone (s : State) (c : Cmd) : State := if c.flag = 32 then s else s.raise c c.fcore

/-- Keys of the place in the core's PM to which LKBEGIN returns its ordinal (R278). -/
def resKeys (core : Nat) (c : Cmd) : List Nat := keysFrom (pmKey core (c.word 2 % 2 ^ 24)) 8

/-- LKBEGIN at its home (R278). -/
def State.lockBegin (s : State) (core : Nat) (c : Cmd) : State :=
  let h := lockHome c
  if s.holdsLocks c.ctx then s.lockError c 7
  else
    let s := s.raiseAge h ((s.home h).age + 1)
    let ord := (s.home h).age * 32 + h
    let s := ((s.ownBefore core c.mark).passed core (resKeys core c)).storeCells (cellsAt (resKeys core c) ord)
    let x := s.ctx c.ctx
    let llim := ((s.dev.launches.find? fun p => p.1 == c.launch).map (·.2.llim)).getD 4096
    (s.setCtx c.ctx { x with txn := some ord, txnPat := x.cmpat, txnLlim := llim, wound := none }).lockDone c

/-- A capacity escalation: the tile under which the transaction has the most line entries, escalated at once if it may be
(R286). `n` and `mode` are the new request's (DEDUCED, log entry 50). The rule gives no outcome where the transaction only awaits that
tile, for which nothing is escalated, or has an upgrade of it pending, into which the target is joined (DESIGN CHOICE, log entry 108). -/
def State.capacityEscalate (s : State) (h : Nat) (c : Cmd) (n : LockName) (mode : Nat) : State :=
  let x := s.home h
  let tiles := (x.entries.filter fun e => e.ctx == c.ctx && e.lvl == 1).map (·.name)
  let count (t : LockName) : Nat := (x.entries.filter (lineUnder t c.ctx)).length
  let best := tiles.foldl (fun (b : Option LockName) t =>
    if count t = 0 then b
    else match b with
      | none => some t
      | some u => if count u < count t ∨ (count u = count t ∧ t.tile < u.tile) then some t else b) none
  match best with
  | none => s
  | some t => match x.entryOf c.ctx t with
    | none => s
    | some e =>
      let target := joinMode (joinMode e.mode (x.linesJoin c.ctx t)) (if t.passes n then mode else 0)
      let ok := e.mode != 0 && x.entries.all fun d => d.name != t || d.ctx == c.ctx ||
        (compat e.pat d.mode target && (d.want == 0 || e.ord < d.ord || compat e.pat d.want target))
      if !ok then s
      else
        let want := if e.want = 0 then 0 else joinMode e.want target
        let r := (s.setHome h (x.put { e with mode := target, want := want })).escalated h c.ctx t
        r.1.settleLocks h (t :: r.2)

/-- An escalation by limit: the tile's request is raised, or an upgrade of its hold is queued; the new request waits for its
grant (R286). -/
def State.limitEscalate (s : State) (h : Nat) (c : Cmd) (n tile : LockName) (mode ord : Nat) : State :=
  let x := s.home h
  match x.entryOf c.ctx tile with
  | none => s
  | some e =>
    let target := joinMode (joinMode e.mode (x.linesJoin c.ctx tile)) mode
    let e' := if e.want = 0 then { e with want := target, fcore := 0, flag := 32, esc := true }
      else { e with want := joinMode e.want target, esc := true }
    let l : LockLate := { node := n.node, handle := n.handle, tile := n.tile, line := n.line, ord := ord, fcore := c.fcore
                          flag := c.flag, ctx := c.ctx }
    let y := x.put e'
    (s.setHome h { y with late := y.late ++ [l] }).settleLocks h [tile]

/-- AcceptRequest of R280 (DEDUCED, log entry 49). A request that stands in queue 13 before an LKBEGIN to another home, and is accepted after
it, acts under the new transaction: R278 speaks only of commands behind the LKBEGIN (DESIGN CHOICE, log entry 110). A request that fails
changes nothing, the home's count among it (R277, R287). -/
def State.lockRequest (s : State) (c : Cmd) : State :=
  let h := lockHome c
  let n := lockName c
  let mode := bits (c.word 2) 50 3
  let ctx := s.ctx c.ctx
  match ctx.txn with
  | none => s.lockError c 6
  | some ord =>
    let aged := s.raiseAge h (ord / 32)
    let x := s.home h
    if n.handle = 0 then s.lockError c 9
    else if mode = 0 ∨ (n.lvl = 2 ∧ !lineMode mode) then s.lockError c 5
    else if x.has c.ctx (· == n) then s.lockError c 2
    else if x.covered c.ctx n mode then aged.lockDone c
    else if !x.parentPresent c.ctx n mode then s.lockError c 1
    else
      let lines (t : LockName) : Nat := (x.entries.filter (lineUnder t c.ctx)).length
        + (x.late.filter fun e => e.ctx == c.ctx && t.passes e.name).length
      match if n.lvl = 2 then n.parent.filter fun t => ctx.txnLlim < lines t + 1 else none with
      | some t => aged.limitEscalate h c n t mode ord
      | none =>
        let full := s.lockError c 8
        let s := if 4096 - x.entries.length < 64 then aged.capacityEscalate h c n mode else aged
        let x := s.home h
        if x.covered c.ctx n mode then s.lockDone c
        else if 4096 ≤ x.entries.length then full
        else
          let e : LockEntry := { node := n.node, handle := n.handle, lvl := n.lvl, tile := n.tile, line := n.line, ctx := c.ctx
                                 ord := ord, mode := 0, want := mode, fcore := c.fcore, flag := c.flag, pat := ctx.txnPat, esc := false }
          (s.setHome h { x with entries := x.entries ++ [e] }).settleLocks h [n]

/-- LKUPG (R281). -/
def State.lockUpgrade (s : State) (c : Cmd) : State :=
  let h := lockHome c
  let n := lockName c
  let mode := bits (c.word 2) 50 3
  match (s.ctx c.ctx).txn with
  | none => s.lockError c 6
  | some ord =>
    let aged := s.raiseAge h (ord / 32)
    let x := s.home h
    if n.handle = 0 then s.lockError c 9
    else if mode = 0 then s.lockError c 5
    else match x.entryOf c.ctx n with
      | none => s.lockError c 3
      | some e =>
        if e.mode = 0 ∨ e.want ≠ 0 then s.lockError c 3
        else
          let target := joinMode e.mode mode
          if (n.lvl = 2 ∧ !lineMode target) ∨ !(x.parentPresent c.ctx n target || x.covered c.ctx n target) then s.lockError c 5
          else if target = e.mode then aged.lockDone c
          else
            let x := aged.home h
            (aged.setHome h (x.put { e with want := target, fcore := c.fcore, flag := c.flag })).settleLocks h [n]

/-- LKREL after the wait of R267 (R282). -/
def State.lockRelease (s : State) (c : Cmd) : State :=
  let h := lockHome c
  let n := lockName c
  match (s.ctx c.ctx).txn with
  | none => s.lockError c 6
  | some _ =>
    let x := s.home h
    if n.handle = 0 then s.lockError c 9
    else if x.has c.ctx n.passes then s.lockError c 4
    else match x.entryOf c.ctx n with
      | some e =>
        let s := (s.setHome h { x with entries := x.entries.erase e }).lockDone c
        if e.mode = 0 then s else s.settleLocks h [n]
      | none =>
        if x.late.any fun l => l.ctx == c.ctx && l.name == n then
          (s.setHome h { x with late := x.late.filter fun l => !(l.ctx == c.ctx && l.name == n) }).lockDone c
        else if n.ancestors.any fun a => 4 ≤ x.held c.ctx a then s.lockDone c
        else s.lockError c 3

/-- Every hold and wait of a context leaves a home in one step (R282). -/
def State.lockReleaseAll (s : State) (h c : Nat) : State :=
  let x := s.home h
  let mine := x.entries.filter (·.ctx == c)
  (s.setHome h { x with entries := x.entries.filter (·.ctx != c), late := x.late.filter (·.ctx != c) }).settleLocks h
    ((mine.filter (·.mode != 0)).map (·.name))

/-- Accesses of a context made before a command was enqueued perform, as far as nothing holds them, and its reductions drain
(R267, R279). -/
def State.performBefore (s : State) (c mark : Nat) : State :=
  ((((s.ctx c).port.filter fun i => i.id < mark).map (·.id)).foldl (fun s id => s.performThrough c id) s).drainOf c

/-- An access that a release must follow is still pending (R267). -/
def State.pendingBefore (s : State) (c mark : Nat) : Bool := (s.ctx c).port.any fun i => i.id < mark && !isMark i

/-- The command at a place of queue 13 may be accepted by its home: no QFENCE, LKBEGIN, LKREL or LKRELALL stands before it, and
no command to the same home; a release waits for the write-backs of maps that its context left (R128, R233, R279). -/
def State.lockReady (s : State) (core idx : Nat) : Option Cmd :=
  let cmds := (s.queue core 13).cmds
  match cmds[idx]? with
  | none => none
  | some c =>
    let free := (cmds.take idx).all fun d => (d.op == 13 || d.op == 14) && lockHome d != lockHome c
    let held := (c.op = 15 ∨ c.op = 16) ∧ (s.ctx c.ctx).wbacks.any fun w => w.advanced.isSome
    if c.op ≠ 10 ∧ free ∧ !held then some c else none

/-- A command of queue 13 leaves it; one that the device put there at the end of an instance has no position (R288, R363). -/
def State.leaveLock (s : State) (core idx : Nat) (c : Cmd) : State :=
  let q := s.queue core 13
  s.setQueue core 13 { q with cmds := q.cmds.eraseIdx idx, last := if c.pos < 2 ^ 32 then some c.pos else q.last }

/-- The home takes a command of queue 13, which leaves the queue; a release does so once what it must follow has performed, and an LKBEGIN
once no hold of a bank keeps its result waiting (R88, R267, R278 to R282). A request of a wounded transaction is dropped (R284). Commands of
an instance that has ended, and of a killed context, run on (R95, R220). -/
def State.acceptLock (s : State) (core idx : Nat) : State :=
  match s.lockReady core idx with
  | none => s
  | some c =>
    let s := if c.op = 15 ∨ c.op = 16 then s.performBefore c.ctx c.mark else s
    if (c.op = 15 ∨ c.op = 16) ∧ s.pendingBefore c.ctx c.mark then s
    else if c.op = 12 ∧ ((s.heldAt core false ((resKeys core c).map .key)).isSome ∨ (s.ownBefore core c.mark).ownLeft core c.mark) then
      s.ownBefore core c.mark
    else
      let s := s.leaveLock core idx c
      match c.op with
      | 12 => s.lockBegin core c
      | 13 => if c.void then s else s.lockRequest c
      | 14 => if c.void then s else s.lockUpgrade c
      | 15 => s.lockRelease c
      | _ => (s.lockReleaseAll (lockHome c) c.ctx).lockDone c

/-- LOCK_HOME_ACCEPT (R279). -/
def execLockHomeAccept (core idx : Nat) (s : State) : Result := done s (s.acceptLock core idx)

/-- A lock command of a context still stands in queue 13. -/
def State.locksQueued (s : State) (c : Nat) : Bool := (s.queue (coreOf c) 13).cmds.any fun d => d.ctx == c && d.op != 10

/-- Homes at which a context holds or awaits a lock, or to which a command of it is on its way. -/
def State.lockHomes (s : State) (c : Nat) : List Nat :=
  (List.range Config.clusters).filter fun h => (s.home h).has c (fun _ => true)
    || (s.queue (coreOf c) 13).cmds.any fun d => d.ctx == c && (d.op == 13 || d.op == 14) && lockHome d == h

/-- At the end of its instance a context sends a release of every hold and wait to each home concerned, behind the commands that stand
in queue 13; it leaves as an LKRELALL would, raises no flag and has no position (R288) (DEDUCED, log entry 47). -/
def State.releaseLocks (s : State) (c : Nat) : State :=
  let x := s.ctx c
  (s.lockHomes c).foldl (fun s h =>
    let q := s.queue (coreOf c) 13
    let o : Origin := { epc := x.pc, lit := x.inRun, phase := x.phase, gen := x.phgen, node := x.node, htbase := 0, htlen := 0, wq := 0 }
    let d : Cmd := { op := 16, ctx := c, node := x.node, launch := x.launch, stage := x.stage, inst := x.inst, flag := 32
                     fcore := coreOf c, baddr := 0, block := [0, h], pos := 2 ^ 32 + s.portId, mark := s.portId, org := o, begun := false
                     since := 0, void := false, retry := none, moved := 0, pointer := 0, data := [] }
    ({ s with portId := s.portId + 1 }).setQueue (coreOf c) 13 { q with cmds := q.cmds ++ [d] }) s

/-- A context whose lock work is over may be bound anew (R288) (DEDUCED, log entry 47). -/
def State.locksOver (s : State) (c : Nat) : Bool := !s.holdsLocks c && !s.locksQueued c

end Sys2Proof.Machine
end

