-- ==== Sys2Proof/Machine/Launch.lean ====
section
/-! DEFINITION. Launches: resolving a node, checking launch material, admission, binding, work delivery, rebinding, the end of
an instance, retirement, pre-emption, the watchdog and the oven timer (R41, R95, R223, R305 to R325). -/

namespace Sys2Proof.Machine

/-! ### Work queues and launches -/

def State.hw (s : State) (q : Nat) : Option HwQueue := (s.dev.hwq.find? fun p => p.1 == q).map (·.2)
def State.setHw (s : State) (q : Nat) (x : HwQueue) : State := { s with dev := { s.dev with hwq := tabPut s.dev.hwq q x } }
def State.launch (s : State) (id : Nat) : Option Launch := (s.dev.launches.find? fun p => p.1 == id).map (·.2)

/-- Records pending in a ring (R307). -/
def HwQueue.pending (q : HwQueue) : Nat := (q.ptail + 2 ^ 32 - q.head) % 2 ^ 32

/-- STATE of a queue that runs nothing: ready with something to admit, else empty (R307). -/
def HwQueue.idle (q : HwQueue) : Nat := if q.children ≠ [] ∨ q.pending ≠ 0 then 1 else 0

/-- PROG grows by 1, and the watchdog restarts (R324). -/
def State.progress (s : State) (q : Nat) : State :=
  match s.hw q with
  | none => s
  | some x => s.setHw q { x with prog := (x.prog + 1) % 2 ^ 32, wdFrom := s.dev.clock }

/-- Words of memory in a space. -/
def readWords (s : State) (sp : Space) (va n : Nat) : Except AFault (List Nat) :=
  (readVirtual s sp 0 va (8 * n)).map fun bs => (List.range n).map fun i => leNat ((bs.drop (8 * i)).take 8)

/-- Ranges of a space that the device reads, one after another: each has its effects, substitutions among them (R359). -/
def State.readRanges (s : State) (sp : Space) (die : Nat) (ranges : List (Nat × Nat)) : State :=
  ranges.foldl (fun s r => s.afterRead sp die r.1 r.2) s

/-- Launch material, where a part that does not translate is ERR 7 (R306, R307). -/
def material (s : State) (sp : Space) (va n : Nat) : Except Nat (List Nat) := (readWords s sp va n).mapError fun _ => 7

/-! ### The region tree -/

/-- The nodes from one to the root, with their words, or the error code of R306; reserved bits are ignored (R6, R305)
(DEDUCED, log entry 52). -/
def pathFrom (s : State) : Nat → Nat → Except Nat (List (Nat × List Nat))
  | 0, _ => .error 3
  | fuel + 1, va =>
    if va % 64 ≠ 0 then .error 3
    else match material s s.mgmtSpace va 8 with
      | .error e => .error e
      | .ok w =>
        if bits (w.getD 0 0) 0 57 = 0 then (if bits (w.getD 6 0) 32 6 = 63 then .ok [(va, w)] else .error 3)
        else (pathFrom s fuel (bits (w.getD 0 0) 0 57)).map fun t => (va, w) :: t

/-- What resolving a path reads, to its root or to the node that breaks it (R306). -/
def pathReads (s : State) : Nat → Nat → List (Nat × Nat)
  | 0, _ => []
  | fuel + 1, va =>
    if va % 64 ≠ 0 then []
    else (va, 64) :: match material s s.mgmtSpace va 8 with
      | .error _ => []
      | .ok w => if bits (w.getD 0 0) 0 57 = 0 then [] else pathReads s fuel (bits (w.getD 0 0) 0 57)

/-- The nearest node of a path whose override bit is set (R306). -/
def nearest (path : List (Nat × List Nat)) (ov : Nat) : Nat × List Nat :=
  (path.find? fun p => bitOf (p.2.getD 6 0) (32 + ov)).getD (0, [])

/-- A launch with the values that a queue's node resolves to and nothing else, or the error code of R306. -/
def State.resolve (s : State) (queue node : Nat) : Except Nat Launch :=
  match pathFrom s 16 node with
  | .error e => .error e
  | .ok path =>
    let word (ov i : Nat) : Nat := (nearest path ov).2.getD i 0
    let dom := nearest path 3
    if (s.domain dom.1).isNone then .error 3
    else .ok
      { queue := queue, path := path.map fun p => (p.1, bits (p.2.getD 5 0) 32 11), prio := bits (word 0 5) 44 4
        cmpat := BitVec.ofNat 64 (word 1 1), llim := bits (word 2 4) 32 12 + 1, node := dom.1, priv := bitOf (word 4 5) 48
        wdlim := bits (word 5 6) 0 32, clumask := path.foldl (fun m p => m &&& bits (p.2.getD 5 0) 0 32) (2 ^ 32 - 1)
        ctxmax := path.foldl (fun m p => min m (bits (p.2.getD 5 0) 32 11)) 1024, tqbase := bits (dom.2.getD 2 0) 0 57
        htbase := bits (dom.2.getD 3 0) 0 57, htlen := bits (dom.2.getD 4 0) 0 32, stages := [], grid := 0, fuse := false, compat := false
        carries := [], tag := 0, doneVa := 0, nextIdx := 0, back := [], clusters := [], tails := [], ran := [], stageQ := [] }

/-! ### Launch and stage records -/

/-- Fields of the words of a launch record, with the alignment of its addresses (R308) (DEDUCED, log entry 52). -/
def recordOk (w : List Nat) : Bool :=
  ([[(0, 57), (59, 5)], [(0, 34)], [(0, 57)], [(0, 64)], [(0, 57)], [], [], []].zip w).all (fun p => onlyFields p.1 p.2)
    && w.getD 0 0 % 64 == 0 && w.getD 4 0 % 8 == 0

/-- The cause of an image that does not read: MAPCONF where it does not translate, and what its memory raises (R311, R360). -/
def imageCause (e : AFault) : Cause :=
  if e.code = causeMemErr then { code := e.code, detail := e.detail, faddr := e.faddr, smask := 0 }
  else { code := causeMapConf, detail := 0, faddr := e.faddr, smask := 0 }

/-- A map image in a space: its entries, or whether it could be read, and the cause that it raises (R224, R228)
(DEDUCED, log entry 52). -/
def mapAt (s : State) (sp : Space) (die va : Nat) : Except (Bool × Cause) (List MapEntry) :=
  match readVirtual s sp die va 32 with
  | .error e => .error (false, imageCause e)
  | .ok head =>
    let h := leNat head
    if va % 32 ≠ 0 then .error (true, { code := causeMapConf, detail := 0, faddr := va, smask := 0 })
    else match readVirtual s sp die (va + 32) (32 * (h % 64 + 1)) with
      | .error e => .error (false, imageCause e)
      | .ok body => (imageOf (h + leNat body * 2 ^ 256)).mapError fun p =>
        (true, { code := causeMapConf, detail := p.1, faddr := va + p.2, smask := 0 })

/-- What reading a map image reads (R224, R311). -/
def imageReads (s : State) (sp : Space) (die va : Nat) : List (Nat × Nat) :=
  (va, 32) :: match readVirtual s sp die va 32 with
    | .error _ => []
    | .ok head => if va % 32 ≠ 0 then [] else [(va + 32, 32 * (leNat head % 64 + 1))]

/-- The images of a stage are checked: ERR 7 or ERR 5 (R307, R309). -/
def imagesOk (s : State) (sp : Space) : List Nat → Except Nat Unit
  | [] => .ok ()
  | va :: t =>
    if va = 0 then imagesOk s sp t
    else match mapAt s sp 0 va with
      | .error (ok, _) => .error (if ok then 5 else 7)
      | .ok _ => imagesOk s sp t

/-- What checking the images of a stage reads, to the image that breaks a rule. -/
def imagesReads (s : State) (sp : Space) : List Nat → List (Nat × Nat)
  | [] => []
  | va :: t =>
    if va = 0 then imagesReads s sp t
    else imageReads s sp 0 va ++ match mapAt s sp 0 va with
      | .error _ => []
      | .ok _ => imagesReads s sp t

/-- A dictionary descriptor breaks R96. -/
def dictBad (d : List Nat) : Bool :=
  d.getD 0 0 % 64 != 0 || d.getD 1 0 % 64 != 0 || 65534 < bits (d.getD 2 0) 0 16 || d.getD 2 0 / 2 ^ 16 != 0

/-- A stage record breaks R309; `n` counts the stages (DEDUCED, log entry 52). -/
def stageBad (i n : Nat) (w : List Nat) : Bool :=
  let w2 := w.getD 2 0
  let w3 := w.getD 3 0
  !([[(0, 57)], [(0, 57)], [(0, 23), (24, 40)], [(0, 29), (32, 8)], [], [], [], []].zip w).all (fun p => onlyFields p.1 p.2)
    || w.getD 0 0 % 8 != 0 || 16 < bits w3 21 4 + bits w3 25 4
    || if i = 0 then w2 != 0
      else bits w2 32 32 == 0 || bits w2 32 32 / 2 ^ n != 0 || w2 % 64 != 0 || 2 ^ 23 < bits w2 0 23 + 64 * (bits w2 24 8 + 1)

/-- A stage from its record, its dictionary descriptor and its map addresses (R309). -/
def stageOf (w d maps : List Nat) : Stage :=
  let w2 := w.getD 2 0
  let w3 := w.getD 3 0
  { cbase := d.getD 0 0, dbase := d.getD 1 0, dictn := bits (d.getD 2 0) 0 16, maps := maps, qbase := bits w2 0 23
    qlen := bits w2 24 8, prod := bits w2 32 32, tgrant := bits w3 0 16, gang := bits w3 16 5, barb := bits w3 21 4
    barc := bits w3 25 4, imax := bits w3 32 8 }

/-- Stage `i` of a table of `n`, checked (R309). -/
def loadStage (s : State) (sp : Space) (table i n : Nat) : Except Nat Stage :=
  match material s sp (table + 64 * i) 8 with
  | .error e => .error e
  | .ok w =>
    if stageBad i n w then .error 4
    else match material s sp (w.getD 0 0) 3 with
      | .error e => .error e
      | .ok d =>
        if dictBad d then .error 4
        else match if w.getD 1 0 = 0 then .ok [] else material s sp (w.getD 1 0) 16 with
          | .error e => .error e
          | .ok maps => match imagesOk s sp maps with
            | .error e => .error e
            | .ok _ => .ok (stageOf w d maps)

def loadStages (s : State) (sp : Space) (table n : Nat) : Nat → Nat → Except Nat (List Stage)
  | 0, _ => .ok []
  | k + 1, i => match loadStage s sp table i n with
    | .error e => .error e
    | .ok st => (loadStages s sp table n k (i + 1)).map fun t => st :: t

/-- What loading a stage reads, to the part that breaks a rule (R309). -/
def stageReads (s : State) (sp : Space) (table i n : Nat) : List (Nat × Nat) :=
  (table + 64 * i, 64) :: match material s sp (table + 64 * i) 8 with
    | .error _ => []
    | .ok w =>
      if stageBad i n w then []
      else (w.getD 0 0, 24) :: match material s sp (w.getD 0 0) 3 with
        | .error _ => []
        | .ok d =>
          if dictBad d ∨ w.getD 1 0 = 0 then []
          else (w.getD 1 0, 128) :: match material s sp (w.getD 1 0) 16 with
            | .error _ => []
            | .ok maps => imagesReads s sp maps

def stagesReads (s : State) (sp : Space) (table n : Nat) : Nat → Nat → List (Nat × Nat)
  | 0, _ => []
  | k + 1, i => stageReads s sp table i n ++ match loadStage s sp table i n with
    | .error _ => []
    | .ok _ => stagesReads s sp table n k (i + 1)

/-- CSM of a stage's queue. -/
def Stage.ring (st : Stage) : Option (Nat × Nat × Nat) := some (0, st.qbase, 64 * (st.qlen + 1))

/-- Two stages' queues overlap (R309). -/
def ringsMeet (sts : List Stage) : Bool :=
  let qs := (sts.drop 1).zipIdx
  qs.any fun a => qs.any fun b => a.2 < b.2 && rangesMeet a.1.ring b.1.ring

/-! ### Placing contexts -/

/-- TGRANT, accumulator mode and launch of the contexts bound on a core. -/
def State.boundOn (s : State) (core : Nat) : List (Nat × Bool × Nat) :=
  (List.range 4).filterMap fun i =>
    let x := s.ctx (4 * core + i)
    if x.mode = .unbound then none else some (x.tgrant, x.compat, x.launch)

/-- The place of one more context: the lowest core and then the lowest index whose core keeps the core rules (R311). `free`
tells the contexts that may be taken, `bound` who stands on a core. -/
def placeOne (free : Nat → Bool) (bound : Nat → List (Nat × Bool × Nat)) (cl : Nat) (compat : Bool) (id : Nat)
    (taken : List (Nat × Nat)) (tg : Nat) : Option Nat :=
  ((List.range 32).map fun i => 32 * cl + i).find? fun c =>
    let core := coreOf c
    let others := bound core ++ (taken.filter fun t => coreOf t.1 == core).map fun t => (t.2, compat, id)
    free c && !(taken.any fun t => t.1 == c)
      && others.all fun o => o.1 &&& tg == 0 && o.2.1 == compat && !(compat && o.2.2 == id)

/-- Places of contexts with these grants, in order (R311). -/
def placeAll (free : Nat → Bool) (bound : Nat → List (Nat × Bool × Nat)) (cl : Nat) (compat : Bool) (id : Nat) :
    List Nat → List (Nat × Nat) → Option (List (Nat × Nat))
  | [], taken => some taken
  | tg :: t, taken => match placeOne free bound cl compat id taken tg with
    | none => none
    | some c => placeAll free bound cl compat id t (taken ++ [(c, tg)])

/-- Grants of one gang (R312). -/
def Stage.grants (st : Stage) : List Nat := List.replicate (st.gang + 1) st.tgrant

/-- A context may be bound: its lock work is over too (R288). -/
def State.unbound (s : State) (c : Nat) : Bool :=
  (s.ctx c).mode = .unbound && !(s.core (coreOf c)).removed && s.locksOver c

/-- Contexts that one gang of every stage needs (R310). -/
def Launch.need (l : Launch) : Nat := (l.stages.map fun st => st.gang + 1).sum

/-- The launch fits an empty cluster (ERR 6 of R307). -/
def State.fits (s : State) (l : Launch) : Bool :=
  l.need ≤ l.ctxmax && (List.range Config.clusters).any fun cl =>
    bitOf l.clumask cl && !(s.cluster cl).removed
      && (placeAll (fun c => !(s.core (coreOf c)).removed) (fun _ => []) cl l.compat 0 (l.stages.flatMap Stage.grants) []).isSome

/-- The launch record of a queue's next launch: a tail child's, or one of the ring (R307, R319). -/
def State.nextRecord (s : State) (sp : Space) (q : HwQueue) : Except Nat (List Nat) :=
  match q.children with
  | k :: _ => .ok ((List.range 8).map fun i => leNat ((k.record.drop (8 * i)).take 8))
  | [] => material s sp (q.ring + 64 * (q.head % 2 ^ q.rsz)) 8

/-- The launch that a queue would admit next, or its error code (R306 to R309) (DEDUCED, log entry 52). -/
def State.loadNext (s : State) (queue : Nat) (q : HwQueue) : Except Nat Launch :=
  match s.resolve queue q.node with
  | .error e => .error e
  | .ok l =>
    let sp := s.space l.node
    match s.nextRecord sp q with
    | .error e => .error e
    | .ok w =>
      if !recordOk w then .error 2
      else
        let n := bits (w.getD 0 0) 59 5 + 1
        match loadStages s sp (bits (w.getD 0 0) 0 57) n n 0 with
        | .error e => .error e
        | .ok sts =>
          if ringsMeet sts then .error 4
          else
            let carry : Except Nat (List Word64) :=
              if w.getD 2 0 ≠ 0 then (material s sp (w.getD 2 0) 8).map fun xs => xs.map (BitVec.ofNat 64)
              else .ok ((q.children.head?.bind (·.carries)).getD (List.replicate 8 0))
            match carry with
            | .error e => .error e
            | .ok carries =>
              let l := { l with stages := sts, grid := bits (w.getD 1 0) 0 32, fuse := bitOf (w.getD 1 0) 32
                                compat := bitOf (w.getD 1 0) 33, carries := carries, tag := w.getD 3 0, doneVa := w.getD 4 0 }
              if s.fits l then .ok l else .error 6

/-- What loading a queue's next launch reads of its domain's space, to the part that breaks a rule (R306 to R309). -/
def State.recordReads (s : State) (sp : Space) (q : HwQueue) : List (Nat × Nat) :=
  (if q.children = [] then [(q.ring + 64 * (q.head % 2 ^ q.rsz), 64)] else []) ++ match s.nextRecord sp q with
    | .error _ => []
    | .ok w =>
      let n := bits (w.getD 0 0) 59 5 + 1
      if !recordOk w then []
      else stagesReads s sp (bits (w.getD 0 0) 0 57) n n 0 ++ match loadStages s sp (bits (w.getD 0 0) 0 57) n n 0 with
        | .error _ => []
        | .ok sts => if ringsMeet sts ∨ w.getD 2 0 = 0 then [] else [(w.getD 2 0, 64)]

/-- The effects of the reads that loading a queue's next launch makes (R306, R359) (DEDUCED, log entry 52). -/
def State.afterLoad (s : State) (queue : Nat) (q : HwQueue) : State :=
  let t := s.readRanges s.mgmtSpace 0 (pathReads s 16 q.node)
  match s.resolve queue q.node with
  | .error _ => t
  | .ok l => t.readRanges (s.space l.node) 0 (s.recordReads (s.space l.node) q)

/-! ### Binding -/

/-- The maps of a bind: kept by a further instance of the same stage, else loaded from the stage's images; the first image
that does not translate or breaks R228 is a MAPCONF (R223, R311). -/
def State.bindMaps (s : State) (c : Nat) (sp : Space) (st : Stage) (same : Bool) : Tab (List MapEntry) × List Cause :=
  if same then ((s.ctx c).maps, [])
  else st.maps.zipIdx.foldl (fun r p =>
    if p.1 = 0 then r
    else match mapAt s sp (dieOf (coreOf c)) p.1 with
      | .ok es => (tabPut r.1 p.2 es, r.2)
      | .error (_, e) => (r.1, if r.2 = [] then [e] else r.2)) ([], [])

/-- What loading the maps of a bind reads (R223, R311). -/
def State.bindReads (s : State) (c : Nat) (sp : Space) (st : Stage) (same : Bool) : List (Nat × Nat) :=
  if same then [] else (st.maps.filter (· != 0)).flatMap (imageReads s sp (dieOf (coreOf c)))

/-- A context bound to an instance of a stage of a launch (R41, R223, R311). Its accesses and write-backs still on their way
stay, and a preparation that still runs leaves the slot and runs to its end; in compatibility mode the row pointers return to 0
(R168). -/
def State.bindCtx (s : State) (id : Nat) (l : Launch) (stage gang c : Nat) : State :=
  match l.stages[stage]? with
  | none => s
  | some st =>
    let old := s.ctx c
    let same := old.launch == id && old.stage == stage
    let m := s.bindMaps c (s.space l.node) st same
    let s := s.readRanges (s.space l.node) (dieOf (coreOf c)) (s.bindReads c (s.space l.node) st same)
    let k := s.core (coreOf c)
    let x : Ctx :=
      { Ctx.init with
        mode := .running, launch := id, stage := stage, inst := s.dev.nextInst, node := l.node, prio := l.prio, gang := gang
        compat := l.compat, seq := old.seq + 1, s := (l.carries.zipIdx).foldl (fun t p => tabPut t p.2 p.1) []
        strays := old.strays ++ (if old.preparing then old.prep.toList else [])
        priv := l.priv, cbase := st.cbase, dbase := st.dbase, dictn := st.dictn, tgrant := st.tgrant, cmpat := l.cmpat
        port := old.port, maps := m.1, wbacks := old.wbacks, wbHalt := old.wbHalt, wbRetry := old.wbRetry, boundary := m.2 }
    let s := (s.setCtx c x).setCore (coreOf c) { k with tornDown := false, dict := k.dict.filter (·.1 != l.node + 1), bankPtr := if l.compat then [] else k.bankPtr }
    let y := (s.launch id).getD l
    ({ s with dev := { s.dev with nextInst := s.dev.nextInst + 1 } }).setLaunch id
      { y with ran := if y.ran.contains c then y.ran else y.ran ++ [c] }

/-- A barrier of a cluster given a participant count. -/
def State.setParts (s : State) (cl n : Nat) (bid : Nat) : State :=
  let y := s.cluster cl
  s.setCluster cl { y with bars := tabPut y.bars bid { parts := n, count := 0, waiting := [] } }

/-- Barriers of a stage's gang. -/
def Stage.barriers (st : Stage) : List Nat := (List.range st.barc).map fun i => st.barb + i

/-- A gang binds in one step and takes its barriers (R312). -/
def State.bindGang (s : State) (id : Nat) (l : Launch) (stage cl : Nat) (ctxs : List Nat) : State :=
  match l.stages[stage]? with
  | none => s
  | some st =>
    let gang := s.dev.nextInst
    let s := ctxs.foldl (fun s c => s.bindCtx id l stage gang c) s
    st.barriers.foldl (fun s b => s.setParts cl (st.gang + 1) b) s

/-! ### Admission -/

/-- Contexts bound under a node (R305). -/
def State.boundUnder (s : State) (node : Nat) : Nat :=
  (s.ctxs.filter fun p => p.2.mode ≠ .unbound &&
    match s.launch p.2.launch with
    | some l => l.path.any fun n => n.1 == node
    | none => false).length

/-- `n` more contexts keep every subtree on the launch's path within its bound (R305, R310) (DEDUCED, log entry 53). -/
def State.budget (s : State) (l : Launch) (n : Nat) : Bool := l.path.all fun p => s.boundUnder p.1 + n ≤ p.2

/-- Stage queues and barrier ranges of a launch in a cluster; a stage without barriers has no range. -/
def Launch.ranges (l : Launch) : List (Option (Nat × Nat × Nat)) :=
  (l.stages.drop 1).map Stage.ring ++ l.stages.map fun st => if st.barc = 0 then none else some (1, st.barb, st.barc)

/-- A context of a cluster is bound. -/
def State.clusterBound (s : State) (cl : Nat) : Bool := (List.range 8).any fun r => s.boundOn (8 * cl + r) != []

/-- A queue has a launch to admit and none at work (R307). -/
def HwQueue.ready (q : HwQueue) : Bool := q.state = 1 && q.launch.isNone && q.idle = 1

/-- Queues ready to admit, with their launches. -/
def State.readyLaunches (s : State) : List (Nat × Launch) :=
  s.dev.hwq.filterMap fun p =>
    if p.2.ready then match s.loadNext p.1 p.2 with
      | .ok l => some (p.1, l)
      | .error _ => none
    else none

/-- Where a cluster would bind one gang of every stage, if it may admit the launch now (R310). -/
def State.admits (s : State) (id : Nat) (l : Launch) (cl : Nat) : Option (List (Nat × Nat)) :=
  let y := s.cluster cl
  let clash := s.dev.launches.any fun p => p.2.clusters.contains cl && p.2.ranges.any fun a => l.ranges.any fun b => rangesMeet a b
  let setting := if l.fuse = y.fused then !(s.readyLaunches.any fun p => p.2.fuse != y.fused && bitOf p.2.clumask cl)
    else !s.clusterBound cl
  if bitOf l.clumask cl ∧ cl < Config.clusters ∧ !y.removed ∧ s.budget l l.need ∧ !clash ∧ setting then
    placeAll s.unbound s.boundOn cl l.compat id (l.stages.flatMap Stage.grants) []
  else none

/-- Stage 0 still holds undelivered indices. -/
def Launch.more (l : Launch) : Bool := l.back != [] || l.nextIdx < l.grid

/-- Order in which a cluster takes queues: by priority and then round-robin after the one that it admitted last at that priority
(R322). -/
def State.rank (s : State) (cl q prio : Nat) : Nat :=
  (15 - prio) * 65536 + (q + 65536 - tabGet 0 s.dev.lastAt (16 * cl + prio)) % 65536

/-- The queue from which a cluster takes a launch next: a ready one, or one whose launch runs and still holds undelivered
indices (R310, R322). -/
def State.choice (s : State) (cl : Nat) : Option Nat :=
  let running := s.dev.launches.filter fun p => p.2.more && !p.2.clusters.contains cl
  let all := s.readyLaunches.map (fun p => (p.1, s.dev.nextLaunch, p.2)) ++ running.map fun p => (p.2.queue, p.1, p.2)
  ((all.filter fun p => (s.admits p.2.1 p.2.2 cl).isSome).foldl (fun (b : Option (Nat × Nat)) p =>
    let r := s.rank cl p.1 p.2.2.prio
    match b with
    | some (r', _) => if r < r' then some (r, p.1) else b
    | none => some (r, p.1)) none).map (·.2)

/-- The gangs of the stages bound at the places found, in stage order. -/
def bindStages (id : Nat) (l : Launch) (cl : Nat) : List (Stage × Nat) → List (Nat × Nat) → State → State
  | [], _, s => s
  | (st, i) :: t, places, s =>
    bindStages id l cl t (places.drop (st.gang + 1)) (s.bindGang id l i cl ((places.take (st.gang + 1)).map (·.1)))

def coresOfCluster (cl : Nat) : List Nat := (List.range 8).map (8 * cl + ·)

/-- Dirty lines of a cluster are written back: the stores of its contexts perform (R240; log entry 40). -/
def State.cleanCluster (s : State) (cl : Nat) : State := ((List.range 32).map (32 * cl + ·)).foldl State.performAll s

/-- No store of a context of a cluster waits any more. -/
def State.clusterClean (s : State) (cl : Nat) : Bool := (List.range 32).all fun i => (s.ctx (32 * cl + i)).port.all isMark

/-- A cluster's L1 setting changes: every line leaves its cores, and no way of them is scratchpad (R240). -/
def State.setFused (s : State) (cl : Nat) (fused : Bool) : State :=
  let s := s.setCluster cl { s.cluster cl with fused := fused }
  (coresOfCluster cl).foldl (fun s k => (s.dropLines k).setCore k { (s.dropLines k).core k with nw := 0 }) s

/-- A cluster takes up a launch (R240, R310 to R312, R322). -/
def State.enter (s : State) (id : Nat) (cl : Nat) (places : List (Nat × Nat)) : State :=
  match s.launch id with
  | none => s
  | some l =>
    let l := { l with clusters := l.clusters ++ [cl] }
    let s := s.setLaunch id l
    let s := { s with dev := { s.dev with lastAt := tabPut s.dev.lastAt (16 * cl + l.prio) (l.queue + 1) } }
    bindStages id l cl l.stages.zipIdx places (if (s.cluster cl).fused = l.fuse then s else s.setFused cl l.fuse)

/-- A cluster takes up a launch once its L1 is as the launch asks: a change waits until its stores have performed (R240). -/
def State.enterClean (s : State) (l : Launch) (cl : Nat) (enter : State → State) : State :=
  if (s.cluster cl).fused = l.fuse then enter s
  else
    let s' := s.cleanCluster cl
    if s'.clusterClean cl then enter s' else s

/-- A queue takes its next launch in flight. -/
def State.startLaunchOf (s : State) (q : Nat) (x : HwQueue) (l : Launch) : State :=
  let id := s.dev.nextLaunch
  let x := { x with state := 2, launch := some id, wdFrom := s.dev.clock, wdOnce := false }
  let x := if x.children ≠ [] then { x with children := x.children.drop 1 } else { x with head := (x.head + 1) % 2 ^ 32 }
  let s := (s.setHw q x).setLaunch id l
  { s with dev := { s.dev with nextLaunch := id + 1 } }

/-- LAUNCH_ADMIT: a cluster takes the next launch of a queue, or a launch that runs and still holds undelivered indices; bad
material puts the queue in error state (R306 to R312, R322) (DEDUCED, log entry 51). -/
def execLaunchAdmit (queue cluster : Nat) (s : State) : Result :=
  let s' := s.drainRed fun _ => true
  done s (match s'.hw queue with
    | none => s
    | some x =>
      if x.ready then match s'.loadNext queue x with
        | .error e => (s'.afterLoad queue x).setHw queue { x with state := 4, err := e }
        | .ok l =>
          if s'.choice cluster ≠ some queue then s
          else match s'.admits s'.dev.nextLaunch l cluster with
            | none => s
            | some places => s'.enterClean l cluster fun t => ((t.afterLoad queue x).startLaunchOf queue x l).enter t.dev.nextLaunch cluster places
      else match x.launch with
        | none => s
        | some id => match s'.launch id with
          | none => s
          | some l =>
            if x.state ≠ 2 ∨ s'.choice cluster ≠ some queue ∨ !l.more ∨ l.clusters.contains cluster then s
            else match s'.admits id l cluster with
              | none => s
              | some places => s'.enterClean l cluster fun t => t.enter id cluster places)

/-! ### Stages -/

/-- Bound instances of a stage in a cluster. -/
def State.insts (s : State) (id cl stage : Nat) : List Nat :=
  (s.ctxs.filter fun p => p.2.mode ≠ .unbound && p.2.mode ≠ .ended && p.2.launch == id && p.2.stage == stage
    && clusterOf (coreOf p.1) == cl).map (·.1)

def Launch.queueAt (l : Launch) (cl stage : Nat) : StageQueue := tabGet StageQueue.init l.stageQ (stageKey cl stage)

/-- Occupancy of a stage's queue as slots not free and slots (R316). -/
def Launch.occupancy (l : Launch) (cl stage : Nat) : Nat × Nat :=
  let q := l.queueAt cl stage
  if stage = 0 then (0, 1) else (q.ready.length + q.out.length, ((l.stages[stage]?).map (·.qlen)).getD 0 + 1)

/-- One occupancy is lower than another. -/
def lower (a b : Nat × Nat) : Bool := a.1 * b.2 < b.1 * a.2

/-- QPUSH commands of a launch into a stage in a cluster, with whether each heads its queue. -/
def State.pushes (s : State) (id cl stage : Nat) : List Bool :=
  (List.range 8).flatMap fun r =>
    (((queueOf (s.core (8 * cl + r)) 12).cmds.zipIdx).filter fun p => p.1.op == 11 && p.1.launch == id && p.1.word 1 == stage).map
      fun p => p.2 == 0

/-- A QPUSH waits on the full ring of a stage (R316). -/
def State.pressed (s : State) (id : Nat) (l : Launch) (cl stage : Nat) : Bool :=
  match l.stages[stage]? with
  | none => false
  | some st => (freeSlot st (l.queueAt cl stage)).isNone && (s.pushes id cl stage).contains true

/-- A stage and the stages above 0 that produce for it, directly or not (R314) (DEDUCED, log entry 53). -/
def producers (sts : List Stage) : Nat → List Nat → List Nat
  | 0, d => d
  | n + 1, d =>
    producers sts n (d ++ ((List.range sts.length).filter fun j => j != 0 && !d.contains j
      && d.any fun a => match sts[a]? with | some st => bitOf st.prod j | none => false))

/-- A stage is drained in a cluster (R314) (DEDUCED, log entry 53). -/
def State.drained (s : State) (id : Nat) (l : Launch) (cl stage : Nat) : Bool :=
  if stage = 0 then !l.more
  else
    let d := producers l.stages l.stages.length [stage]
    let produces (j : Nat) : Bool := d.any fun a => match l.stages[a]? with | some st => bitOf st.prod j | none => false
    (d.all fun a => (l.queueAt cl a).ready == [] && s.pushes id cl a == [])
      && (!produces 0 || (!l.more && s.insts id cl 0 == []))
      && d.all fun a => !produces a || (s.insts id cl a).all fun c => (s.ctx c).nextFrom.isSome

/-- A stage has room for instances of one more gang (R309). -/
def State.room (s : State) (id : Nat) (l : Launch) (cl stage : Nat) : Bool :=
  match l.stages[stage]? with
  | none => false
  | some st => st.imax == 0 || (s.insts id cl stage).length + st.gang + 1 ≤ st.imax

/-- Step 1 of R316: the lowest stage, other than `self`, on whose full ring a QPUSH waits, with a higher occupancy. -/
def State.pressedStage (s : State) (id : Nat) (l : Launch) (cl self : Nat) (occ : Nat × Nat) : Option Nat :=
  (List.range l.stages.length).find? fun b => b != 0 && b != self && s.pressed id l cl b && lower occ (l.occupancy cl b)

/-- Step 4 of R316: the stage of highest occupancy among those that hold at least half their slots. -/
def busyStage (l : Launch) (cl self : Nat) : Option Nat :=
  ((List.range l.stages.length).filter fun b =>
      b != 0 && b != self && (l.occupancy cl b).2 ≤ 2 * (l.occupancy cl b).1).foldl (fun best b =>
    match best with
    | none => some b
    | some a => if lower (l.occupancy cl a) (l.occupancy cl b) then some b else best) none

/-! ### The end of an instance -/

/-- Matrix routines and drains that the context queued have ended, and every landing and fixed-latency write has retired
(R95, R313) (DEDUCED, log entry 24). -/
def State.quiet (s : State) (c : Nat) : Bool :=
  let k := s.core (coreOf c)
  (s.ctx c).pend == [] && k.mq.all (·.ctx != c) && (k.routine.map (·.ctx)) != some c && (k.drainRun.map (·.ctx)) != some c

/-- Slots of a context's handles go back to the free list (R167). -/
def State.returnHandles (s : State) (c : Nat) : State :=
  let x := s.ctx c
  let k := s.core (coreOf c)
  (s.setCore (coreOf c) { k with free := k.free ++ (x.handles.map (·.2)).filter fun n => !k.free.contains n }).setCtx c
    { x with handles := [] }

/-- The queue slot that an instance holds returns to its ring (R313) (DEDUCED, log entry 53). -/
def State.returnSlot (s : State) (c : Nat) : State :=
  let x := s.ctx c
  match x.held, s.launch x.launch with
  | some off, some l =>
    let key := stageKey (clusterOf (coreOf c)) x.stage
    let q := tabGet StageQueue.init l.stageQ key
    (s.setLaunch x.launch { l with stageQ := tabPut l.stageQ key { q with out := q.out.erase off } }).setCtx c { x with held := none }
  | _, _ => s

/-- A core with no bound context: its hang bit clears and its timer stops (R325). -/
def State.restCore (s : State) (core : Nat) : State :=
  if s.boundOn core = [] then s.setCore core { s.core core with hang := false, oven := 0 } else s

/-- What every end of an instance does: a release of its locks leaves, its handles and slot return, its causes are discarded, its
core switches and PROG grows (R95, R167, R213, R288, R318, R324). Its transaction lasts until the next bind (R278). -/
def State.endWork (s : State) (c : Nat) : State :=
  let s := ((s.releaseLocks c).returnHandles c).returnSlot c
  let x := s.ctx c
  let s := s.setCtx c { x with mode := .ended, boundary := [], wound := none, bank := none, drain := none, chosen := none
                               nextFrom := none, waitFrom := none, resume := none, goal := none }
  let k := s.core (coreOf c)
  let s := if k.cur = c % 4 then s.setCore (coreOf c) { k with switched := true } else s
  match s.launch x.launch with
  | some l => s.progress l.queue
  | none => s

/-- Members of a context's gang. -/
def State.gangOf (s : State) (c : Nat) : List Nat :=
  let x := s.ctx c
  (s.ctxs.filter fun p => p.2.mode ≠ .unbound && p.2.launch == x.launch && p.2.stage == x.stage && p.2.gang == x.gang).map (·.1)

/-- A context's gang has ended, the releases of its members' locks included (R288, R312). -/
def State.gangOver (s : State) (c : Nat) : Bool := (s.gangOf c).all fun d => (s.ctx d).mode = .ended && s.locksOver d

/-- A gang whose members have all ended is freed, and its barriers lose their participants (R312). -/
def State.freeGang (s : State) (c : Nat) : State :=
  let x := s.ctx c
  let g := s.gangOf c
  if s.gangOver c then
    let s := g.foldl (fun s d => (s.setCtx d { s.ctx d with mode := .unbound }).restCore (coreOf d)) s
    match (s.launch x.launch).bind fun l => l.stages[x.stage]? with
    | some st => st.barriers.foldl (fun s b => s.setParts (clusterOf (coreOf c)) 0 b) s
    | none => s
  else s

/-- Contexts of a cluster that a launch's instances have freed (R316). -/
def State.freed (s : State) (id cl : Nat) (c : Nat) : Bool :=
  s.unbound c && (s.ctx c).launch == id && clusterOf (coreOf c) == cl

/-- One gang of a stage bound among contexts that a test names, if it may be (R310 to R312). -/
def State.addGang (s : State) (id cl stage : Nat) (free : Nat → Bool) : Option State :=
  match s.launch id with
  | none => none
  | some l => match l.stages[stage]? with
    | none => none
    | some st =>
      if !s.budget l (st.gang + 1) then none
      else (placeAll free s.boundOn cl l.compat id st.grants []).map fun ps => s.bindGang id l stage cl (ps.map (·.1))

/-- Every stage that is not finished keeps an instance (R317). -/
def keepStages (id cl : Nat) : List Nat → State → State
  | [], s => s
  | b :: t, s => match s.launch id with
    | none => s
    | some l =>
      if s.insts id cl b != [] || s.drained id l cl b then keepStages id cl t s
      else keepStages id cl t ((s.addGang id cl b s.unbound).getD s)

/-- Freed contexts are bound by steps 1 and 4 of R316. -/
def fillFreed (id cl : Nat) : Nat → State → State
  | 0, s => s
  | n + 1, s => match s.launch id with
    | none => s
    | some l =>
      let take (b : Option Nat) : Option State :=
        b.bind fun b => if s.room id l cl b then s.addGang id cl b (s.freed id cl) else none
      match take (s.pressedStage id l cl 0 (0, 1)) with
      | some s' => fillFreed id cl n s'
      | none => match take (busyStage l cl 0) with
        | some s' => fillFreed id cl n s'
        | none => s

/-- Instances that the end of one lets the scheduler bind (R316, R317). -/
def State.refill (s : State) (id cl : Nat) : State :=
  match s.launch id with
  | none => s
  | some l =>
    if (s.hw l.queue).map (·.state) = some 5 then s
    else fillFreed id cl 32 (keepStages id cl (List.range l.stages.length) s)

/-! ### NEXT -/

/-- What the scheduler does at a NEXT (R313, R316). -/
inductive NextStep
  | work (w : Nat)
  | rebind (stage : Nat)
  | finish
  | park
  deriving DecidableEq, Repr

/-- A context may be rebound to a stage (R278, R311, R312, R316). -/
def State.mayRebind (s : State) (id : Nat) (l : Launch) (c b : Nat) : Bool :=
  let x := s.ctx c
  let cl := clusterOf (coreOf c)
  let others := (List.range 4).filterMap fun i =>
    let d := coreOf c * 4 + i
    if d = c ∨ (s.ctx d).mode = .unbound then none else some (s.ctx d).tgrant
  match l.stages[b]?, l.stages[x.stage]? with
  | some st, some a => a.gang == 0 && st.gang == 0 && s.locksOver c && 1 < (s.insts id cl x.stage).length && s.room id l cl b
      && others.all fun t => t &&& st.tgrant == 0
  | _, _ => false

/-- A gang that is over is freed, and its contexts are bound again where a rule asks it (R312, R316, R317). -/
def State.freeIfOver (s : State) (c : Nat) : State :=
  let x := s.ctx c
  if x.mode = .ended ∧ s.gangOver c then (s.freeGang c).refill x.launch (clusterOf (coreOf c)) else s

/-- A rebinding ends the instance and binds one of another stage, where that still may be; else its NEXT is checked again (R313,
R316) (DEDUCED, log entry 55). -/
def State.rebindTo (s : State) (c b : Nat) : State :=
  let x := s.ctx c
  let cl := clusterOf (coreOf c)
  match s.launch x.launch with
  | none => (s.endWork c).freeGang c
  | some l =>
    if !s.mayRebind x.launch l c b then s.setCtx c { x with mode := .running, goal := none }
    else ((((s.endWork c).freeGang c).bindGang x.launch ((s.launch x.launch).getD l) b cl [c])).refill x.launch cl

/-- The end of an instance that waits for its quiet: of one past its EXIT or a drained NEXT, or of one that its NEXT rebinds; a context
whose instance has ended is freed with its gang (R95, R312, R313) (DEDUCED, log entries 24, 55). -/
def State.endIfQuiet (s : State) (c : Nat) : State :=
  let x := s.ctx c
  if x.mode = .exiting ∧ s.quiet c then match x.goal with
    | some b => s.rebindTo c b
    | none => (s.endWork c).freeIfOver c
  else s.freeIfOver c

/-- A context's instance may end now, or its gang be freed. -/
def State.mayEnd (s : State) (c : Nat) : Bool :=
  let x := s.ctx c
  (x.mode = .exiting && s.quiet c) || (x.mode = .ended && s.gangOver c)

/-- Waiting NEXTs of the stage that come before a context's, by first check and then context number (R314). -/
def State.ahead (s : State) (c : Nat) : Nat :=
  let x := s.ctx c
  (s.ctxs.filter fun p => p.1 != c && p.2.launch == x.launch && p.2.stage == x.stage && p.2.mode ≠ .unbound
    && (x.stage == 0 || clusterOf (coreOf p.1) == clusterOf (coreOf c))
    && match p.2.nextFrom, x.nextFrom with
      | some a, some b => a < b || (a == b && p.1 < c)
      | _, _ => false).length

/-- The work that a stage would deliver in a cluster to a waiting NEXT that `n` others come before (R314). -/
def Launch.workAt (l : Launch) (cl stage n : Nat) : Option Nat :=
  if stage = 0 then match l.back[n]? with
    | some w => some w
    | none => if l.nextIdx + (n - l.back.length) < l.grid then some (l.nextIdx + (n - l.back.length)) else none
  else ((l.queueAt cl stage).ready[n]?).map (2 ^ 63 + ·)

/-- The scheduler's decision at a NEXT (R314, R316). -/
def State.decide (s : State) (c : Nat) : NextStep :=
  let x := s.ctx c
  let cl := clusterOf (coreOf c)
  match s.launch x.launch with
  | none => .finish
  | some l =>
    let may (b : Option Nat) : Option Nat := b.filter fun b => s.mayRebind x.launch l c b
    match may (s.pressedStage x.launch l cl x.stage (l.occupancy cl x.stage)) with
    | some b => .rebind b
    | none =>
      match l.workAt cl x.stage (s.ahead c) with
      | some w => .work w
      | none =>
        if s.drained x.launch l cl x.stage then .finish
        else match may (busyStage l cl x.stage) with
          | some b => .rebind b
          | none => .park

/-- An index leaves those that a launch has to deliver; the lower ones, kept for NEXTs that come before, stay (R314). -/
def Launch.takeIndex (l : Launch) (w : Nat) : Launch :=
  if l.back.contains w then { l with back := l.back.erase w }
  else { l with back := l.back ++ (List.range (w - l.nextIdx)).map (l.nextIdx + ·), nextIdx := w + 1 }

/-- Work chosen for a context is taken from its order (R313). -/
def State.choose (s : State) (c w : Nat) : State :=
  let x := s.ctx c
  let s := s.setCtx c { x with chosen := some w, nextFrom := none, mode := .running }
  match s.launch x.launch with
  | none => s
  | some l =>
    if x.stage = 0 then s.setLaunch x.launch (l.takeIndex w)
    else
      let key := stageKey (clusterOf (coreOf c)) x.stage
      let q := tabGet StageQueue.init l.stageQ key
      s.setLaunch x.launch { l with stageQ := tabPut l.stageQ key { q with ready := q.ready.erase (w % 2 ^ 32), out := q.out ++ [w % 2 ^ 32] } }

/-- The issue check of a NEXT, with whether its bundle may issue (R313) (DEDUCED, log entry 55). -/
def State.nextCheck (s : State) (c : Nat) : State × Bool :=
  let x := s.ctx c
  if x.chosen.isSome then (s, true)
  else
    let s := if x.nextFrom.isSome then s else s.setCtx c { x with nextFrom := some (s.core (coreOf c)).el }
    match s.decide c with
    | .work w => (s.choose c w, true)
    | .finish => (s.setCtx c { s.ctx c with mode := .exiting, goal := none, nextFrom := none }, false)
    | .park => (s.setCtx c { s.ctx c with mode := .yielded }, false)
    | .rebind b => ((s.setCtx c { s.ctx c with mode := .exiting, goal := some b, nextFrom := none }).endIfQuiet c, false)

/-- NEXT: its check, where it has not been made, and at commit the work word into s[S]; the slot delivered before returns to
its ring (R313). -/
def execNext (sr : BitVec 6) (s : State) : Result :=
  let c := s.fl.ctx
  let r := s.nextCheck c
  done s (if !r.2 then r.1.endFlight
    else
      let s := r.1.returnSlot c
      let x := s.me
      let w := x.chosen.getD 0
      let s := s.setMe { x with chosen := none, held := if bitOf w 63 then some (w % 2 ^ 32) else none }
      let s := (s.writeS sr.toNat w 4).dropLines s.myCore
      match s.launch x.launch with
      | some l => s.progress l.queue
      | none => s)

/-- NEXT_WAKE: a parked NEXT is checked again (R313). -/
def execNextWake (ctx : Nat) (s : State) : Result :=
  let x := s.ctx ctx
  done s (if x.mode = .yielded ∧ s.decide ctx ≠ .park then s.setCtx ctx { x with mode := .running } else s)

/-! ### Tail launches -/

/-- The tail records of a launch with one more, which replaces that of the same instance; none where it would be a seventeenth
(R319). -/
def addTail (ts : List TailRec) (t : TailRec) : Option (List TailRec) :=
  if ts.any fun u => u.ctx == t.ctx && u.inst == t.inst then
    some (ts.map fun u => if u.ctx = t.ctx ∧ u.inst = t.inst then t else u)
  else if 16 ≤ ts.length then none else some (ts ++ [t])

/-- TAIL (R319) (DEDUCED, log entry 37). -/
def execTail (a : BitVec 5) (s : State) : Result :=
  let va := s.opA 0 a.toNat
  done s (match s.placeAligned 3 .read false 64 va 64 with
    | .error e => s.accessFault e
    | .ok (srcs, ts) =>
      match s.commitRead s.fl.ctx va srcs ts with
      | (s, .error e) => s.accessFault e
      | (s, .ok bytes) =>
      let x := s.me
      let carries := if leNat ((bytes.drop 16).take 8) = 0 then some ((List.range 8).map x.sreg) else none
      match s.launch x.launch with
      | none => s
      | some l => match addTail l.tails { ctx := s.fl.ctx, inst := x.inst, record := bytes, carries := carries } with
        | some tails => s.setLaunch x.launch { l with tails := tails }
        | none => match s.hw l.queue with
          | some q => s.setHw l.queue { q with tovf := true }
          | none => s)

/-- Tail records by context and then by instance (R320). -/
def byTail (t : TailRec) : List TailRec → List TailRec
  | [] => [t]
  | u :: r => if t.ctx < u.ctx ∨ (t.ctx = u.ctx ∧ t.inst < u.inst) then t :: u :: r else u :: byTail t r

/-! ### Retirement and pre-emption -/

/-- A launch may retire: every instance, command, routine and drain of it has ended, its posted receive buffers among them, and every
stage is finished (R317, R321, R350). -/
def State.mayRetire (s : State) (id : Nat) (l : Launch) : Bool :=
  (s.hw l.queue).map (·.state) != some 5
    && (s.ctxs.all fun p => p.2.launch != id || p.2.mode = .unbound)
    && (s.cores.all fun k => k.2.queues.all fun q => q.2.cmds.all fun c => c.launch != id)
    && (s.dev.rx.all fun b => b.launch != id)
    && (l.ran.all fun c => (s.ctx c).wbacks == [])
    && l.clusters.all fun cl => (List.range l.stages.length).all fun b => s.drained id l cl b

/-- A ready queue of higher priority could not be admitted in a cluster of the launch's while the contexts that it ran were bound: the
others do not give it its places (R322) (DEDUCED, log entry 54). -/
def State.outranked (s : State) (l : Launch) : Bool :=
  s.readyLaunches.any fun p => l.prio < p.2.prio && (List.range Config.clusters).any fun cl =>
    bitOf l.clumask cl && bitOf p.2.clumask cl && !(s.cluster cl).removed
      && (placeAll (fun c => s.unbound c && !l.ran.contains c) s.boundOn cl p.2.compat s.dev.nextLaunch
        (p.2.stages.flatMap Stage.grants) []).isNone

/-- The bytes of a save area (R323). -/
def saveBytes (x : HwQueue) (tag : Nat) : List Byte :=
  wordsBytes [x.head + x.children.length * 2 ^ 32, tag, 0, 0, 0, 0, 0, 0] ++
    x.children.flatMap fun k => k.record.take 64 ++ wordsBytes ((k.carries.getD (List.replicate 8 0)).map (·.toNat))

/-- A save area written in the domain of the launch that retired; what does not translate is not written (R322)
(DEDUCED, log entry 54). -/
def State.saveQueue (s : State) (x : HwQueue) (node : Nat) : State :=
  match writeVirtual s (s.space node) 0 x.save (saveBytes x x.lastTag) with
  | .ok s => s
  | .error _ => s

/-- The queue at its launch boundary: saved where PREQ is set, saved and ready again where a queue of higher priority waits,
else ready or empty (R321, R322) (DEDUCED, log entry 54). -/
def State.boundary (s : State) (q : Nat) (l : Launch) (lostDone : Bool) : State :=
  match s.hw q with
  | none => s
  | some x =>
    if x.state = 4 then s
    else if lostDone then s.setHw q { x with state := 4, err := 8 }
    else if x.preq then (s.saveQueue x l.node).setHw q { x with state := 3, preq := false }
    else if x.idle = 1 ∧ s.outranked l then (s.saveQueue x l.node).setHw q { x with state := x.idle }
    else s.setHw q { x with state := x.idle }

/-- LAUNCH_RETIRE: the drain, the DONE write, PROG, the tail children, and the launch boundary (R320 to R322)
(DEDUCED, log entry 51). -/
def execLaunchRetire (launch : Nat) (s : State) : Result :=
  done s (match s.launch launch with
    | none => s
    | some l =>
      if !s.mayRetire launch l then s
      else
        let s0 := s
        let s := l.ran.foldl State.performAll s
        if l.ran.any fun c => !(s.ctx c).port.all isMark then s0
        else
        let s := s.drainRed fun _ => true
        let w := if l.doneVa = 0 then .ok s else writeVirtual s (s.space l.node) 0 l.doneVa (leBytes 8 l.tag) false
        let lost := match w with | .ok _ => false | .error _ => true
        let s := (match w with | .ok s => s | .error _ => s).progress l.queue
        let s := { s with dev := { s.dev with launches := tabErase s.dev.launches launch } }
        match s.hw l.queue with
        | none => s
        | some x =>
          let x := { x with launch := none, lastTag := l.tag, wdOnce := false, children := l.tails.foldr byTail [] ++ x.children }
          (s.setHw l.queue x).boundary l.queue l lost)

/-! ### Watchdog and oven timer -/

/-- A fault that no bundle raises, at the bundle that a context would issue next (R209) (DEDUCED, log entry 48). -/
def State.splitAt (s : State) (c code detail faddr smask : Nat) : Split :=
  let x := s.ctx c
  { code := code, detail := detail, faddr := faddr, smask := smask, sres := 0, epc := x.pc, lit := x.inRun, capv := false
    phase := x.phase, gen := x.phgen, bytes := [], line := 0, mig := false }

/-- A context of a launch that a kill from outside reaches. -/
def Ctx.killable (x : Ctx) : Bool := x.mode ≠ .unbound && x.mode ≠ .killed && x.mode ≠ .ended

/-- Every context of a launch takes a fatal fault, and its queue is killed (R324, R370) (DEDUCED, log entry 65). -/
def State.killLaunch (s : State) (id code : Nat) : State :=
  (s.ctxs.filter fun p => p.2.launch == id && p.2.killable).foldl
    (fun s p => s.takeFatal p.1 (s.splitAt p.1 code 0 0 0)) s

def causeWdKill : Nat := 0x38

/-- WATCHDOG_EXPIRY: the first sets PREQ and restarts the count, the second kills the launch (R324). -/
def execWatchdogExpiry (queue : Nat) (s : State) : Result :=
  done s (match s.hw queue with
    | none => s
    | some x => match x.launch.bind fun id => (s.launch id).map fun l => (id, l) with
      | none => s
      | some (id, l) =>
        if x.state ≠ 2 ∨ l.wdlim = 0 ∨ s.dev.clock - x.wdFrom < l.wdlim * 65536 then s
        else if x.wdOnce then (s.killLaunch id causeWdKill).queueState queue 5
        else s.setHw queue { x with preq := true, wdOnce := true, wdFrom := s.dev.clock })

/-- A core of whose contexts some are bound and none can issue, with nothing of its own at work (R325). -/
def State.coreStill (s : State) (core : Nat) : Bool :=
  let k := s.core core
  s.boundOn core != [] && k.mq == [] && k.routine.isNone && k.drainRun.isNone
    && (List.range 4).all fun i => (s.ctx (4 * core + i)).pend == []

/-- CLOCK_GATE (R325). -/
def execClockGate (core : Nat) (s : State) : Result :=
  let k := s.core core
  done s (if 4096 ≤ k.oven ∧ k.gate = 0 ∧ s.coreStill core then s.setCore core { k with gate := 1 } else s)

/-- POWER_GATE: the hang bit and its log bit set, and the core is power-gated where it may be (R325, R369). -/
def execPowerGate (core : Nat) (s : State) : Result :=
  let k := s.core core
  done s (if 4194304 ≤ k.oven ∧ !k.hang ∧ s.boundOn core ≠ [] then
      let s' := s.setCore core { k with hang := true, gate := if s.coreStill core then 2 else k.gate }
      { s' with dev := { s'.dev with hanglog := s'.dev.hanglog ||| 2 ^ core } }.signal 2 0
    else s)

end Sys2Proof.Machine
end

