-- ==== Sys2Proof/Machine/Walk.lean ====
section
/-! DEFINITION. Accesses that perform, table walks, monitors and the resumption of parked agents (R87, R106, R118, R255, R258,
R332, R338). -/

namespace Sys2Proof.Machine

/-- ACCESS_PERFORM: one access of a context performs, with the FENCEs and posts that waited for it alone (R87, R118, R119,
R258). -/
def execAccessPerform (ctx idx : Nat) (s : State) : Result :=
  done s (if s.portReady ctx idx then (s.performAt ctx idx).settle ctx else s)

/-- TABLE_WALK_COMPLETE: the walk of a slot's read phase ends, and the core's clock, frozen for it, goes on (R106)
(DEDUCED, log entry 17). -/
def execTableWalkComplete (core : Nat) (s : State) : Result := done s (s.freezeOnce core)

/-- HBM_REFRESH: a refresh writes back the dirty row buffers of a bank and keeps them valid; buffers change only timing
(R255) (DEDUCED, log entry 58). -/
def execHbmRefresh (_bank : Nat) (s : State) : Result := done s s

/-- ATS_INVALIDATION_REQUEST: the translations of a range leave the device's address translation cache (R338). -/
def execAtsInvalidationRequest (pasid va bytes : Nat) (s : State) : Result :=
  done s { s with dev := { s.dev with atc := s.dev.atc.filter fun e =>
    !(e.1 == pasid && e.2.1 < va + bytes && va < e.2.1 + e.2.2) } }

/-! ### Resuming -/

def Ctx.parkedNow (x : Ctx) : Bool := x.mode = .parked || x.mode = .parkedFull || x.mode = .parkedLost || x.mode = .parkedMoved

/-- The cause that a restarted agent does not record again: that of a record already written (R332, R362). -/
def recorded (t : Told) (c : Cause) : Option Cause := if t = .written then some c else none

/-- A parked context goes on at its split (R216, R332). -/
def State.resumeCtx (s : State) (c : Nat) : State :=
  let x := s.ctx c
  match x.park with
  | none => s
  | some (f, cause) =>
    if !x.parkedNow then s
    else
      let s := s.reenter c f
      s.setCtx c { s.ctx c with retry := if x.mode = .parked then some cause else none }

/-- A halt whose cause can be served, and which a test names. -/
def Halt.ends (p : Halt → Bool) (h : Halt) : Bool := h.cause.code = causeEngXlate && p h

/-- A halted preparation goes on at the granule that it had reached (R234, R332). -/
def Prep.resume (p : Halt → Bool) (q : Prep) : Prep :=
  match q.halt with
  | some h => if h.ends p then { q with halt := none, retry := recorded h.told h.cause } else q
  | none => q

/-- Halted preparations and write-backs of a context go on (R234, R332). -/
def Ctx.resumeWork (p : Halt → Bool) (x : Ctx) : Ctx :=
  let x := { x with prep := x.prep.map (Prep.resume p), strays := x.strays.map (Prep.resume p) }
  match x.wbHalt with
  | some h => if h.ends p then { x with wbHalt := none, wbRetry := recorded h.told h.cause } else x
  | none => x

def State.resumeWork (s : State) (c : Nat) (p : Halt → Bool) : State := s.setCtx c ((s.ctx c).resumeWork p)

/-- A halted queue's command restarts from its beginning (R129, R335). -/
def State.resumeQueue (s : State) (core q : Nat) : State :=
  let u := s.queue core q
  match u.halted with
  | some h =>
    if h.cause.code ≠ causeEngXlate then s
    else s.setQueue core q { u with halted := none, cmds := match u.cmds with
      | [] => []
      | c :: t => { c with retry := recorded h.told h.cause } :: t }
  | none => s

/-- The walk of the address at which a halted queue's command stopped: the line where it stops again, and whether firmware moves the
page; none where it succeeds (R332). -/
def State.stopsAgain (s : State) (core q : Nat) : Option (Nat × Bool) :=
  let u := s.queue core q
  match u.halted, u.cmds.head? with
  | some h, some c => match lookup s s.seen (s.spaceOf core c.node) h.cause.faddr .read with
    | .stop line _ mig => some (line, mig)
    | _ => none
  | _, _ => none

/-- The command of a halted queue walks again: it restarts where the walk succeeds; where it stops again nothing of it is done anew, and
the queue re-arms on the new line with no second record, but one is due where only firmware's move kept the first from being written
(R332, R333) (DEDUCED, log entry 59). -/
def State.wakeQueue (s : State) (core q : Nat) : State :=
  let u := s.queue core q
  match s.stopsAgain core q, u.halted, u.cmds.head? with
  | some (line, mig), some h, some c =>
    let s := s.setQueue core q { u with halted := some { h with lines := [] } }
    if h.told = .moved ∧ !mig then
      let r := s.haltWork c.ctx c.node c.org.wq q c.pos c.moved c.org none
        { code := causeEngXlate, detail := 0, faddr := h.cause.faddr, line := line, mig := false }
      r.1.setQueue core q { u with halted := some r.2 }
    else s.setQueue core q { u with halted := some { h with lines := s.arm (dieOf core) line } }
  | _, _, _ => s.resumeQueue core q

/-- Every stopped agent that a test on what it watches and on its record names goes on, a queue by `again`. -/
def State.resumeWhere (s : State) (ctxs : Nat → Ctx → Bool) (node : Nat → Bool) (p : Halt → Bool)
    (again : State → Nat → Nat → State := State.resumeQueue) : State :=
  let s := (s.ctxs.filter fun c => ctxs c.1 c.2).foldl (fun s c => s.resumeCtx c.1) s
  let s := { s with ctxs := s.ctxs.map fun (c : Nat × Ctx) => if node c.2.node then (c.1, c.2.resumeWork p) else c }
  (s.cores.flatMap fun k => (k.2.queues.filter fun q => (q.2.halted.map p).getD false
      && (q.2.cmds.head?.map fun c => node c.node).getD false).map fun q => (k.1, q.1)).foldl
    (fun s p => again s p.1 p.2) s

/-- MONITOR_WAKE: every waiter on the line walks again: a context and a preparation go on at the access that stopped, which is walked
first, and a command restarts; what stops again re-arms and writes no second record (R332, R333). -/
def execMonitorWake (line : Nat) (s : State) : Result :=
  done s (s.resumeWhere (fun _ x => x.parkedNow && x.monitor.contains line) (fun _ => true) (fun h => h.lines.contains line)
    State.wakeQueue)

end Sys2Proof.Machine
end

