-- ==== Sys2Proof/Machine/Boundary.lean ====
section
/-! DEFINITION. What comes to a context between bundles: the timeout of a wait, the causes of a bundle boundary, and the retry
of agents parked by a full trap queue (R86, R89, R209, R212, R213, R285, R287, R361, R362). -/

namespace Sys2Proof.Machine

def causeWaitTo : Nat := 0x4
def causeWound : Nat := 0x5

/-- The wait of a context has reached its limit (R86) (DEDUCED, log entry 23). -/
def State.waitExpired (s : State) (c : Nat) : Bool :=
  match (s.ctx c).waitFrom with
  | some (t, limit, _) => (s.ctx c).mode = .running && limit != 0 && t + limit ≤ (s.core (coreOf c)).el
  | none => false

/-- An arrival at a barrier withdrawn (R89). -/
def State.withdraw (s : State) (c bid : Nat) : State :=
  let cl := clusterOf (coreOf c)
  let b := s.barrier cl bid
  let y := s.cluster cl
  s.setCluster cl { y with bars := tabPut y.bars bid { b with count := b.count - 1, waiting := b.waiting.erase c } }

/-- WAITTO: the wait-timeout trap of a WAIT or CBAR, with nothing of its bundle committed; a CBAR withdraws its arrival, but keeps it
where its barrier has completed, so that its retry is not counted in the next use (R86, R89, R213) (DEDUCED, log entry 23). -/
def execWaitTimeout (ctx : Nat) (s : State) : Result :=
  done s (match (s.ctx ctx).waitFrom with
    | none => s
    | some (_, _, detail) =>
      if !s.waitExpired ctx then s
      else
        let x := s.ctx ctx
        let here := (detail % 256, x.trapm)
        let back := bitOf detail 8 && x.arrived.contains here && !x.passed.contains here
        let s := if back then s.withdraw ctx (detail % 256) else s
        let s := s.setCtx ctx { s.ctx ctx with waitFrom := none, arrived := if back then x.arrived.erase here else x.arrived }
        s.takeFault ctx (s.splitAt ctx causeWaitTo detail 0 0))

/-- Causes pending at the next boundary of a context, a wound among them. -/
def Ctx.causes (x : Ctx) : List Cause :=
  x.boundary ++ match x.wound with
    | some o => [{ code := causeWound, detail := o, faddr := 0, smask := 0 }]
    | none => []

/-- Order in which the causes of one boundary are taken (R213). -/
def causeRank (c : Cause) : Nat :=
  match classOf c.code with
  | 2 => 0
  | 1 => 1
  | _ => if c.code = causeWound then 2 else 3

/-- The first of the causes in order (DEDUCED, log entry 84). -/
def firstCause : List Cause → Option Cause
  | [] => none
  | c :: t => match firstCause t with
    | none => some c
    | some d => if causeRank d < causeRank c then some d else some c

/-- The cause that a context takes now: at a boundary, no split of it still waiting for its capture, and none of WOUND and ARITH while a handler runs (R212, R213, R285). -/
def Ctx.due (x : Ctx) : Option Cause :=
  let open' := x.trapping.isNone && (x.mode = .running || x.mode = .yielded) && (match x.resume with
    | some f => f.sres == 0
    | none => true)
  if open' then firstCause (x.causes.filter fun c => !(x.trapm && classOf c.code == 0)) else none

/-- BOUNDARY_TRAP: the first pending cause is taken at the bundle that the context would issue next, or for the MAPCONF of a bind at
stream word 0; a CBAR that waits there keeps its arrival (R89, R205, R209, R213, R285, R287, R311) (DEDUCED, log entry 50). -/
def execBoundaryTrap (ctx : Nat) (s : State) : Result :=
  let x := s.ctx ctx
  done s (match x.due with
    | none => s
    | some c =>
      let s := s.setCtx ctx { x with mode := .running, boundary := x.boundary.erase c
                                     wound := if c.code = causeWound then none else x.wound }
      let s := if c.code = causeMapConf then s else s.enterRun ctx
      let p := s.splitAt ctx c.code c.detail c.faddr c.smask
      s.takeFault ctx { p with qid := if c.code = causeLockErr then 13 else 0xFF })

/-- Records pending in a domain's trap queue; none where its control block does not translate or is not writable (R361,
R362). -/
def State.trapsPending (s : State) (node : Nat) : Option Nat :=
  match placeVirtual s s.seen (s.space node) 0 3 .write false (s.tqBase node + 0x4000) 16 with
  | .error _ => none
  | .ok (srcs, _) =>
    some (pendingRecords (s.recordsWritten node) (bits (srcsNat s.seen srcs) 32 32))

/-- TRAP_QUEUE_RETRY: with fewer than 255 records pending, every agent of the domain that was parked by its full queue is
retried (R362) (DEDUCED, log entry 59). -/
def execTrapQueueRetry (node : Nat) (s : State) : Result :=
  done s (match s.trapsPending node with
    | none => s
    | some n =>
      if 255 ≤ n then s
      else s.resumeWhere (fun _ x => x.mode = .parkedFull && x.node == node) (· == node) (·.told = .full))

end Sys2Proof.Machine
end

