-- ==== Sys2Proof/Machine/Crypto.lean ====
section
/-! DEFINITION. SHA-512 and Ed25519, which R366 and R371 name: the spec takes them from FIPS 180-4 and RFC 8032, whose algorithms stand
here (PRESUMED, log entry 101). -/

namespace Sys2Proof

/-! ### SHA-512 -/

/-- The chaining words that SHA-512 starts with. -/
def shaStart : List Word64 :=
  [0x6A09E667F3BCC908, 0xBB67AE8584CAA73B, 0x3C6EF372FE94F82B, 0xA54FF53A5F1D36F1] ++
  [0x510E527FADE682D1, 0x9B05688C2B3E6C1F, 0x1F83D9ABFB41BD6B, 0x5BE0CD19137E2179]

/-- The constants of the 80 rounds of SHA-512. -/
def shaConsts : List Word64 :=
  [0x428A2F98D728AE22, 0x7137449123EF65CD, 0xB5C0FBCFEC4D3B2F, 0xE9B5DBA58189DBBC] ++
  [0x3956C25BF348B538, 0x59F111F1B605D019, 0x923F82A4AF194F9B, 0xAB1C5ED5DA6D8118] ++
  [0xD807AA98A3030242, 0x12835B0145706FBE, 0x243185BE4EE4B28C, 0x550C7DC3D5FFB4E2] ++
  [0x72BE5D74F27B896F, 0x80DEB1FE3B1696B1, 0x9BDC06A725C71235, 0xC19BF174CF692694] ++
  [0xE49B69C19EF14AD2, 0xEFBE4786384F25E3, 0x0FC19DC68B8CD5B5, 0x240CA1CC77AC9C65] ++
  [0x2DE92C6F592B0275, 0x4A7484AA6EA6E483, 0x5CB0A9DCBD41FBD4, 0x76F988DA831153B5] ++
  [0x983E5152EE66DFAB, 0xA831C66D2DB43210, 0xB00327C898FB213F, 0xBF597FC7BEEF0EE4] ++
  [0xC6E00BF33DA88FC2, 0xD5A79147930AA725, 0x06CA6351E003826F, 0x142929670A0E6E70] ++
  [0x27B70A8546D22FFC, 0x2E1B21385C26C926, 0x4D2C6DFC5AC42AED, 0x53380D139D95B3DF] ++
  [0x650A73548BAF63DE, 0x766A0ABB3C77B2A8, 0x81C2C92E47EDAEE6, 0x92722C851482353B] ++
  [0xA2BFE8A14CF10364, 0xA81A664BBC423001, 0xC24B8B70D0F89791, 0xC76C51A30654BE30] ++
  [0xD192E819D6EF5218, 0xD69906245565A910, 0xF40E35855771202A, 0x106AA07032BBD1B8] ++
  [0x19A4C116B8D2D0C8, 0x1E376C085141AB53, 0x2748774CDF8EEB99, 0x34B0BCB5E19B48A8] ++
  [0x391C0CB3C5C95A63, 0x4ED8AA4AE3418ACB, 0x5B9CCA4F7763E373, 0x682E6FF3D6B2B8A3] ++
  [0x748F82EE5DEFB2FC, 0x78A5636F43172F60, 0x84C87814A1F0AB72, 0x8CC702081A6439EC] ++
  [0x90BEFFFA23631E28, 0xA4506CEBDE82BDE9, 0xBEF9A3F7B2C67915, 0xC67178F2E372532B] ++
  [0xCA273ECEEA26619C, 0xD186B8C721C0C207, 0xEADA7DD6CDE0EB1E, 0xF57D4F7FEE6ED178] ++
  [0x06F067AA72176FBA, 0x0A637DC5A2C898A6, 0x113F9804BEF90DAE, 0x1B710B35131C471B] ++
  [0x28DB77F523047D84, 0x32CAAB7B40C72493, 0x3C9EBE0A15C9BEBC, 0x431D67C49C100D4C] ++
  [0x4CC5D4BECB3E42B6, 0x597F299CFC657E2A, 0x5FCB6FAB3AD6FAEC, 0x6C44198C4A475817]

/-- One round: the eight working words and the sixteen schedule words ahead, of which the first is used and a new one joins at the end. -/
def shaRound (k : Word64) (st : List Word64 × List Word64) : List Word64 × List Word64 :=
  let v (i : Nat) : Word64 := st.1.getD i 0
  let w (i : Nat) : Word64 := st.2.getD i 0
  let big1 (x : Word64) := x.rotateRight 14 ^^^ x.rotateRight 18 ^^^ x.rotateRight 41
  let big0 (x : Word64) := x.rotateRight 28 ^^^ x.rotateRight 34 ^^^ x.rotateRight 39
  let small0 (x : Word64) := x.rotateRight 1 ^^^ x.rotateRight 8 ^^^ x >>> 7
  let small1 (x : Word64) := x.rotateRight 19 ^^^ x.rotateRight 61 ^^^ x >>> 6
  let t1 := v 7 + big1 (v 4) + (v 4 &&& v 5 ^^^ ~~~(v 4) &&& v 6) + k + w 0
  let t2 := big0 (v 0) + (v 0 &&& v 1 ^^^ v 0 &&& v 2 ^^^ v 1 &&& v 2)
  ([t1 + t2, v 0, v 1, v 2, v 3 + t1, v 4, v 5, v 6], st.2.drop 1 ++ [w 0 + small0 (w 1) + w 9 + small1 (w 14)])

/-- A big-endian word. -/
def beWord (bs : List Byte) : Word64 := bs.foldl (fun n b => n <<< 8 ||| b.setWidth 64) 0

/-- One block of 128 bytes taken into the chaining words. -/
def shaBlock (h : List Word64) (block : List Byte) : List Word64 :=
  let w := (List.range 16).map fun i => beWord ((block.drop (8 * i)).take 8)
  let r := (shaConsts.foldl (fun st k => shaRound k st) (h, w)).1
  (h.zip r).map fun p => p.1 + p.2

/-- The blocks of a padded message, in order. -/
def shaBlocks : Nat → List Byte → List Word64 → List Word64
  | 0, _, h => h
  | n + 1, bs, h => shaBlocks n (bs.drop 128) (shaBlock h (bs.take 128))

/-- Bytes of a number, highest first. -/
def beBytes (n x : Nat) : List Byte := ((List.range n).map fun i => BitVec.ofNat 8 (x / 256 ^ i)).reverse

/-- SHA-512 of a message: 64 bytes (R366, R371). -/
def Config.sha512 (m : List Byte) : List Byte :=
  let zeros := (239 - m.length % 128) % 128
  let padded := m ++ [0x80] ++ List.replicate zeros 0 ++ beBytes 16 (8 * m.length)
  (shaBlocks (padded.length / 128) padded shaStart).flatMap fun w => beBytes 8 w.toNat

/-! ### Ed25519 -/

/-- The field's prime, the order of the base point and the curve's constant of Ed25519. -/
def edP : Nat := 2 ^ 255 - 19
def edL : Nat := 2 ^ 252 + 27742317777372353535851937790883648493

/-- A power modulo the prime, over the bits of the exponent. -/
def edPow : Nat → Nat → Nat → Nat
  | 0, _, _ => 1
  | n + 1, b, e => (if e % 2 = 1 then b else 1) * edPow n (b * b % edP) (e / 2) % edP

def edInv (x : Nat) : Nat := edPow 256 (x % edP) (edP - 2)
def edD : Nat := (edP - 121665) * edInv 121666 % edP

/-- A point in extended coordinates: x = X/Z, y = Y/Z, xy = T/Z. -/
structure EdPoint where
  x : Nat
  y : Nat
  z : Nat
  t : Nat
  deriving DecidableEq, Repr

/-- The sum of two points. -/
def EdPoint.add (p q : EdPoint) : EdPoint :=
  let a := (p.y + edP - p.x) * (q.y + edP - q.x) % edP
  let b := (p.y + p.x) * (q.y + q.x) % edP
  let c := 2 * p.t * q.t % edP * edD % edP
  let d := 2 * p.z * q.z % edP
  let e := b + edP - a
  let f := d + edP - c
  let g := d + c
  let h := b + a
  { x := e * f % edP, y := g * h % edP, z := f * g % edP, t := e * h % edP }

/-- A multiple of a point, over the bits of the factor. -/
def EdPoint.mul : Nat → Nat → EdPoint → EdPoint
  | 0, _, _ => { x := 0, y := 1, z := 1, t := 0 }
  | n + 1, k, p => let r := EdPoint.mul n (k / 2) (p.add p)
                   if k % 2 = 1 then r.add p else r

/-- Two points are one. -/
def EdPoint.same (p q : EdPoint) : Bool := p.x * q.z % edP == q.x * p.z % edP && p.y * q.z % edP == q.y * p.z % edP

/-- The x of a y, with its sign bit; none where there is no such point. -/
def edRecover (y sign : Nat) : Option Nat :=
  let x2 := (y * y + edP - 1) % edP * edInv (edD * y % edP * y + 1) % edP
  let x := edPow 256 x2 ((edP + 3) / 8)
  let x := if x * x % edP = x2 then x else x * edPow 256 2 ((edP - 1) / 4) % edP
  if edP ≤ y ∨ x * x % edP ≠ x2 ∨ (x = 0 ∧ sign = 1) then none
  else some (if x % 2 = sign then x else edP - x)

/-- The number that bytes hold, the lowest first. -/
def edNat (bs : List Byte) : Nat := bs.foldr (fun b n => b.toNat + 256 * n) 0
/-- Bytes of a number, lowest first. -/
def edBytes (n x : Nat) : List Byte := (beBytes n x).reverse

/-- A point from its 32 bytes. -/
def edDecode (bs : List Byte) : Option EdPoint :=
  let n := edNat bs
  let y := n % 2 ^ 255
  if bs.length ≠ 32 then none
  else (edRecover y (n / 2 ^ 255)).map fun x => { x := x, y := y, z := 1, t := x * y % edP }

/-- The 32 bytes of a point. -/
def EdPoint.encode (p : EdPoint) : List Byte :=
  let i := edInv p.z
  edBytes 32 (p.y * i % edP + 2 ^ 255 * (p.x * i % edP % 2))

/-- The base point, whose y is 4/5. -/
def edBase : EdPoint :=
  let y := 4 * edInv 5 % edP
  let x := (edRecover y 0).getD 0
  { x := x, y := y, z := 1, t := x * y % edP }

/-- The scalar and the prefix of a seed. -/
def edExpand (seed : List Byte) : Nat × List Byte :=
  let h := Config.sha512 seed
  let a := edNat (h.take 32)
  (a % 2 ^ 254 / 8 * 8 + 2 ^ 254, h.drop 32)

/-- The Ed25519 public key of a seed: 32 bytes (R371). -/
def Config.ed25519Public (seed : List Byte) : List Byte := (EdPoint.mul 256 (edExpand seed).1 edBase).encode

/-- The Ed25519 signature by a seed of a message: 64 bytes (R371). -/
def Config.ed25519Sign (seed msg : List Byte) : List Byte :=
  let k := edExpand seed
  let r := edNat (Config.sha512 (k.2 ++ msg)) % edL
  let rs := (EdPoint.mul 256 r edBase).encode
  let h := edNat (Config.sha512 (rs ++ Config.ed25519Public seed ++ msg)) % edL
  rs ++ edBytes 32 ((r + h * k.1) % edL)

/-- The Ed25519 check of a signature by a public key (R371). -/
def Config.ed25519Verify (key sig msg : List Byte) : Bool :=
  match edDecode key, edDecode (sig.take 32) with
  | some a, some r =>
    let s := edNat (sig.drop 32)
    let h := edNat (Config.sha512 (sig.take 32 ++ key ++ msg)) % edL
    sig.length == 64 && s < edL && (EdPoint.mul 256 s edBase).same (r.add (EdPoint.mul 256 h a))
  | _, _ => false

end Sys2Proof
end

