-- ==== Sys2Proof/Machine/Host.lean ====
section
/-! DEFINITION. The host port: BAR0 and its doorbells, the aperture and the inbound ordering point, and the die links (R307, R339
to R343, R355, R369). -/

namespace Sys2Proof.Machine

/-! ### Doorbells and BAR0 -/

/-- A doorbell sets PTAIL; more records than the ring holds are an overrun, and a queue that runs nothing is ready with records
pending and else empty (R307, R339) (DEDUCED, log entry 56). -/
def State.ring (s : State) (q value : Nat) : State :=
  match s.hw q with
  | none => s
  | some x =>
    let x := { x with ptail := value % 2 ^ 32 }
    if 2 ^ x.rsz < x.pending ∧ x.state ≠ 4 ∧ x.state ≠ 5 then s.setHw q { x with state := 4, err := 1 }
    else s.setHw q { x with state := if x.state = 0 ∨ x.state = 1 then x.idle else x.state }

/-- The response and STATUS of a command; BUSY clears and the mailbox vector is signalled (R369)
(DESIGN CHOICE, log entry 62). -/
def State.answer (s : State) (status : Nat) (response : List Byte) : State :=
  ({ s with dev := { s.dev with mbStatus := status, mbBusy := false
                                mbResp := tabRange 0 [] 0 (response ++ List.replicate (256 - response.length) 0) } }).signal 0 0

/-- The device command of an opcode (R370); none for an opcode that is not listed. -/
def commandOf (op : Nat) : Option Instr :=
  match op with
  | 0x01 => some .ident | 0x02 => some .getcfg | 0x03 => some .mgmtroot | 0x10 => some .domcreate | 0x11 => some .domteardown
  | 0x12 => some .qcreate | 0x13 => some .qdestroy | 0x14 => some .qclear | 0x15 => some .qpreempt | 0x16 => some .qresume
  | 0x17 => some .qkill | 0x20 => some .resume | 0x21 => some .kill | 0x22 => some .xinval | 0x23 => some .outcome
  | 0x30 => some .migrate | 0x40 => some .apbind | 0x41 => some .epbind | 0x42 => some .grpdef | 0x43 => some .nsattach
  | 0x44 => some .setvec | 0x50 => some .errget | 0x51 => some .selftest | 0x52 => some .startrec | 0x60 => some .attest
  | 0x61 => some .fwstage | 0x70 => some .pwrlimit
  | _ => none

/-- Word `i` of the command in the mailbox (DEDUCED, log entry 66). -/
def State.mbWord (s : State) (i : Nat) : Nat := leNat ((List.range 8).map fun j => tabGet 0 s.dev.mbCmd (8 * i + j))

/-- GO: the device sets BUSY and runs the command of the opcode; reserved bits of word 0 are ignored (R6, R369)
(DEDUCED, log entry 66). -/
def State.go (s : State) : State :=
  if s.dev.mbBusy then s
  else
    let s := { s with dev := { s.dev with mbBusy := true } }
    { s with agenda := .event ((commandOf (s.mbWord 0 % 256)).getD .mailboxUnknownOpcode) :: s.agenda }

/-- Bits of HANGLOG cleared (R369). -/
def State.clearHangLog (s : State) (mask : Nat) : State :=
  let h := (List.range 256).foldl (fun h b => if bitOf mask b ∧ bitOf h b then h - 2 ^ b else h) s.dev.hanglog
  { s with dev := { s.dev with hanglog := h } }

/-- Pending vectors whose mask bit is clear are signalled, in ascending order (R339) (PRESUMED, log entry 96). -/
def Dev.unmask (d : Dev) (vs : List Nat) : Dev :=
  vs.foldl (fun d v => if bitOf d.pba v then { d with pba := d.pba - 2 ^ v }.interrupt v else d) d

/-- A write of bytes at an offset of BAR0 (R339, R369). Locations that are read-only or reserved drop it
(DESIGN CHOICE, log entry 57). -/
def State.writeBar0 (s : State) (off : Nat) (data : List Byte) : State :=
  let n := data.length
  if off + n ≤ 0x100 then
    if s.dev.mbBusy then s
    else { s with dev := { s.dev with mbCmd := (data.zipIdx).foldl (fun t p => tabSet 0 t (off + p.2) p.1) s.dev.mbCmd } }
  else if off = 0x200 then (if (data.headD 0).toNat % 2 = 1 then s.go else s)
  else if 0x10C0 ≤ off ∧ off + n ≤ 0x10E0 then s.clearHangLog (leNat data * 2 ^ (8 * (off - 0x10C0)))
  else if 0x100000 ≤ off ∧ off < 0x180000 then
    (if off % 8 = 0 ∧ (n = 4 ∨ n = 8) then s.ring ((off - 0x100000) / 8) (leNat (data.take 4)) else s)
  else if 0x200000 ≤ off ∧ off + n ≤ 0x208000 then
    let o := off - 0x200000
    let d := { s.dev with bar0 := (data.zipIdx).foldl (fun (t : Tab Byte) (p : Byte × Nat) => tabPut t (o + p.2) p.1) s.dev.bar0 }
    { s with dev := d.unmask (((List.range n).map fun i => (o + i) / 16).eraseDups) }
  else s

/-- HANG: a bit for each core (R325, R369). -/
def State.hangBits (s : State) : Nat := (s.cores.map fun k => if k.2.hang then 2 ^ k.1 else 0).sum

/-- A doorbell as it reads: zero for a queue that firmware has not created (R339). -/
def State.doorbell (s : State) (q : Nat) : Nat :=
  match s.hw q with
  | some x => x.ptail + x.head * 2 ^ 32
  | none => 0

/-- The field of BAR0 that holds an offset: its first byte, its bytes and its value; none for a reserved offset (R339, R369)
(DESIGN CHOICE, log entry 57). -/
def State.barField (s : State) (off : Nat) : Option (Nat × Nat × Nat) :=
  let d := s.dev
  let fields : List (Nat × Nat × Nat) :=
    [(0x200, 8, (if d.mbBusy then 2 else 0) + d.mbStatus * 2 ^ 16), (0x1000, 32, s.hangBits), (0x1020, 8, d.aperr), (0x1028, 8, d.aperrAddr)
     , (0x1030, 8, d.tqlost), (0x1038, 8, d.tqlostBase), (0x1040, 8, d.ststep), (0x1080, 8, d.pwr), (0x10C0, 32, d.hanglog)
     , (0x208000, 256, d.pba)]
  if 0x100000 ≤ off ∧ off < 0x180000 then some (off / 8 * 8, 8, s.doorbell ((off - 0x100000) / 8))
  else fields.find? fun f => f.1 ≤ off && off < f.1 + f.2.1

/-- A byte of BAR0 as it reads; reserved offsets read zero (R339, R369). -/
def State.barByte (s : State) (off : Nat) : Byte :=
  if off < 0x100 then tabGet 0 s.dev.mbCmd off
  else if off < 0x200 then tabGet 0 s.dev.mbResp (off - 0x100)
  else if 0x200000 ≤ off ∧ off < 0x208000 then s.dev.tableByte (off - 0x200000)
  else match s.barField off with
    | some (base, _, v) => BitVec.ofNat 8 (v / 2 ^ (8 * (off - base)))
    | none => 0

/-! ### The inbound ordering point -/

/-- A request that must follow an earlier posted write (R342). -/
def mustFollow (x w : Inbound) : Bool :=
  w.kind % 2 = 0 && w.seq < x.seq &&
    (if x.kind % 2 = 1 then x.ido == 0 || x.rid == w.rid else x.ro == 0 && (x.ido == 0 || x.rid == w.rid))

/-- The aperture error counter grows and the address is logged (R340, R369). -/
def State.apertureError (s : State) (va : Nat) : State :=
  { s with dev := { s.dev with aperr := s.dev.aperr + 1, aperrAddr := va } }

/-- Virtual address and domain of an offset in the aperture, while its binding stands (R340). -/
def State.aperture (s : State) (off : Nat) : Option (Nat × Nat) :=
  match s.dev.apbind with
  | some (node, base) => if (s.domain node).isSome then some (node, base + off) else none
  | none => none

/-- A request leaves the ordering point for good. -/
def State.dropInbound (s : State) (x : Inbound) : State :=
  { s with dev := { s.dev with inbound := s.dev.inbound.filter fun y => y.seq != x.seq } }

/-- A request is sent on: a write demotes read-duplicated pages and splits into its routes, a read takes its data, a BAR0 access takes
effect; an access that does not translate, or reaches a unit that is left out, is dropped or aborted, and one that reaches a page being
moved, or that a link or a unit under test holds, stays (R336, R339 to R341, R355, R357, R367) (DEDUCED, log entries 56, 77). -/
def State.sendOn (s : State) (x : Inbound) : State :=
  match x.kind with
  | 2 => (s.dropInbound x).writeBar0 x.addr x.data
  | 3 => (s.dropInbound x).emit [.barData x.addr ((List.range x.len).map fun i => s.barByte (x.addr + i))]
  | k =>
    let fail (s : State) (va : Nat) : State :=
      let s := (s.dropInbound x).apertureError va
      if k = 1 then (s.logAer 15).emit [.readAbort x.seq] else s
    match s.aperture x.addr with
    | none => fail s x.addr
    | some (node, va) =>
      match placeVirtual s s.seen (s.space node) 0 3 (if k = 1 then .read else .write) false va x.len with
      | .error e => if e.mig then s else fail s va
      | .ok (srcs, ts) =>
        let dies := ((srcs.filterMap ByteSrc.place).map homeDie).eraseDups
        if k = 1 ∧ s.iodWaits (srcs.filterMap ByteSrc.place) true ∨ k ≠ 1 ∧ dies.any s.iodHeld then s
        else if k ≠ 1 ∧ (s.goneFault ts va (srcs.filterMap ByteSrc.place)).isSome then fail s va
        else
        let s := s.fills ts
        if k = 1 then match s.take node none 0 va srcs with
          | .error _ => fail s va
          | .ok (bytes, s) => (s.dropInbound x).emit [.readData x.seq bytes]
        else
          let cells := cellsOf srcs x.data
          if dies = [] then s.dropInbound x
          else
            let s := s.demote ts (cells.map (·.1))
            let y := { x with sent := true, cells := cells, routes := dies }
            { s with dev := { s.dev with inbound := s.dev.inbound.map fun z => if z.seq = x.seq then y else z } }

/-- Every request that no longer has to wait is sent on, in sequence (R341). -/
def State.pump (s : State) : State :=
  s.dev.inbound.foldl (fun s x =>
    if x.sent ∨ s.dev.inbound.any (mustFollow x) then s else s.sendOn x) s

/-- A request arrives at the ordering point and takes the next sequence number (R341). After a start whose PCI Express training is degraded
there is no host port: nothing arrives, and writes of the command mailbox are the BMC's, on its own path (R366, R369)
(DEDUCED, log entry 70). -/
def State.arrive (s : State) (kind addr : Nat) (data : List Byte) (len ro ido rid : Nat) : State :=
  if !s.dev.hostUp then (if kind = 2 ∧ addr < 0x208 then s.writeBar0 addr data else s)
  else
  let x : Inbound := { seq := s.dev.inSeq, kind := kind, addr := addr, data := data, len := len, ro := ro, ido := ido, rid := rid
                       cells := [], routes := [], sent := false }
  ({ s with dev := { s.dev with inSeq := s.dev.inSeq + 1, inbound := s.dev.inbound ++ [x] } }).pump

/-- DOORBELL_WRITE (R339, R341). -/
def execDoorbellWrite (queue value ro ido rid : Nat) (s : State) : Result :=
  done s (s.arrive 2 (0x100000 + 8 * (queue % 65536)) (leBytes 8 value) 8 ro ido rid)

/-- APERTURE_WRITE (R340, R341). -/
def execApertureWrite (off : Nat) (data : List (BitVec 8)) (ro ido rid : Nat) (s : State) : Result :=
  done s (s.arrive 0 off data data.length ro ido rid)

/-- APERTURE_READ: a read of BAR2, or of BAR0 (R339 to R341). -/
def execApertureRead (off : BarOffset) (len ro ido rid : Nat) (s : State) : Result :=
  done s (s.arrive (if off.bar = 0 then 3 else 1) off.off [] len ro ido rid)

/-- Bytes of a route of a posted write perform, each in its flit of the link from the IOD (R341, R355). -/
def State.landRoute (s : State) (die : Nat) (cells : List (Nat × Byte)) : State :=
  if cells = [] then s
  else ((s.crossOne (3 + 2 * die) ((cells.map fun c => wordOf c.1).eraseDups)).storeCells cells).sendHost true cells

/-- ROUTE_ACK: the bytes of one route have performed; with its last route the write has performed, and what was held behind it
goes on (R341) (DEDUCED, log entry 56). -/
def execRouteAck (seq route : Nat) (s : State) : Result :=
  done s (match s.dev.inbound.find? fun x => x.seq == seq && x.routes.contains route with
    | none => s
    | some x =>
      if s.iodHeld route ∨ (x.cells.filter fun c => homeDie c.1 == route).any fun c => s.unitBusy c.1 then s
      else
      let s := s.landRoute route (x.cells.filter fun c => homeDie c.1 == route)
      let y := { x with cells := x.cells.filter fun c => homeDie c.1 != route, routes := x.routes.erase route }
      if y.routes = [] then (s.dropInbound x).pump
      else { s with dev := { s.dev with inbound := s.dev.inbound.map fun z => if z.seq = seq then y else z } })

/-- HANGLOG_WRITE, a BAR0 write (R339, R342, R369). -/
def execHanglogWrite (mask : BarWrite (BitVec 256)) (s : State) : Result :=
  done s (s.arrive 2 0x10C0 (leBytes 32 mask.value.toNat) 32 mask.ro mask.ido mask.rid)

/-- MGMT_REGISTER_WRITE: four bytes at an offset of BAR0 (R339, R342, R369). -/
def execMgmtRegisterWrite (off : Nat) (value : BarWrite Nat) (s : State) : Result :=
  done s (s.arrive 2 off (leBytes 4 value.value) 4 value.ro value.ido value.rid)

/-! ### Die links -/

/-- Spares of a unit before any is used: rows of an SRAM bank, columns of an array, a bank of an HBM pseudo-channel, whose banks have 16
rows each besides, and lanes of a direction of a link (R356). -/
def sparesOf : Nat → Nat
  | 0 => 4 | 1 => 4 | 2 => 1 | 4 => 2 | _ => 0

/-- The error record of a unit before an error. -/
def UnitErr.init (kind : Nat) : UnitErr :=
  { correctable := 0, uncorrectable := 0, cls := 0, spares := sparesOf kind, testing := false, chunks := [], parts := [], rows := [] }

/-- The error record of a unit. -/
def State.unitErr (s : State) (kind unit : Nat) : UnitErr := tabGet (UnitErr.init kind) s.dev.errs (errKey kind unit)

def State.setUnitErr (s : State) (kind unit : Nat) (u : UnitErr) : State :=
  { s with dev := { s.dev with errs := tabPut s.dev.errs (errKey kind unit) u } }

/-- FLIT_CRC_ERROR: the link counts the error and goes under its test, in which it carries traffic on its other lanes (R356, R357); the receiver discards a flit and every later one, and the sender replays from it; which of the flits not yet
acknowledged it is, and for how long it replays, is open, but a replay under way fails at its own first flit. A flit whose sixteenth
replay in a row fails makes the link retrain (R355) (DESIGN CHOICE, log entry 97). -/
def execFlitCrcError (link : Nat) (s : State) : Result :=
  let x := s.link link
  let again := s.dev.clock < x.replayUntil
  let flit := if again then x.replayFrom else ((pickOf s.fresh x.kept).map (·.1)).getD x.next
  let y : Link := { x with fails := if again then x.fails + 1 else 0, replayFrom := flit,
                           replayUntil := s.dev.clock + 1 + Config.freeNat (s.fresh + 1) }
  let u := s.unitErr 4 link
  let s' := (({ s with fresh := s.fresh + 2 }).setLink link y).setUnitErr 4 link { u with uncorrectable := u.uncorrectable + 1, testing := true }
  done s (if 16 ≤ y.fails then { s' with agenda := .event (.linkRetrain link) :: s'.agenda } else s')

/-- LINK_RETRAIN: the sixteenth failed replay in a row makes the link retrain: its traffic waits (R355). -/
def execLinkRetrain (link : Nat) (s : State) : Result :=
  let x := s.link link
  done s (if 16 ≤ x.fails then s.setLink link { x with retrain := true } else s)

/-- LINK_RETRAIN_COMPLETE: traffic goes on, with every flit not yet acknowledged sent again, and completion queues whose entries waited are
looked at (R347, R355). -/
def execLinkRetrainComplete (link : Nat) (s : State) : Result :=
  done s ((s.setLink link { s.link link with retrain := false, fails := 0, replayUntil := 0 }).pump.takeAllEnds)

end Sys2Proof.Machine
end

