-- ==== Sys2Proof/Machine/Err.lean ====
section
/-! DEFINITION. Errors and self-tests, the starter record and the start of the module, power and temperature (R356 to R360, R366
to R368, R372). -/

namespace Sys2Proof.Machine

/-! ### Repairable units -/

/-- Banks of the ten SRAM structures of `sramUnit` (R88, R239, R356) (DESIGN CHOICE, log entry 10). -/
def sramBanks : List Nat := [32, 16, 16, 4, 16, 1, 1, 1, 64, 64]

/-- A unit of a kind: an SRAM bank of a core or a cluster, a core's matrix arrays, an HBM pseudo-channel, an STM channel, a direction of a
die link (R356, R360; the numbers of SRAM banks and of directions are log entries 10 and 97). -/
def isUnit (kind unit : Nat) : Bool :=
  match kind with
  | 0 => unit % 2 ^ 16 < (if unit / 2 ^ 22 < 8 then Config.cores else Config.clusters)
      && unit / 2 ^ 16 % 64 < sramBanks.getD (unit / 2 ^ 22) 0
  | 1 => unit < 256 | 2 => unit < 384 | 3 => unit < 32 | 4 => unit < 6 | _ => false

/-- The chunk in which an MSTEP stands after some chunk times, each repeated chunk taking one more. -/
def chunkOf (reps : List Nat) : Nat → Nat → Nat → Nat
  | 0, i, _ => i
  | fuel + 1, i, t => if t < 1 + reps.countP (· == i) then i else chunkOf reps fuel (i + 1) (t - (1 + reps.countP (· == i)))

/-- The chunk that the running MSTEP of a core is in, when its residue check fails (R358) (DEDUCED, log entry 76). -/
def State.chunkNow (s : State) (core : Nat) : List Nat :=
  let k := s.core core
  match k.routine with
  | none => []
  | some r => match k.microAt r with
    | .mstep nch =>
      let c := ((formatPair r.afmt r.bfmt).getD (1, false)).1
      let i := chunkOf r.reps 256 0 ((k.cyc - r.begins) / c)
      if r.begins ≤ k.cyc ∧ i ≤ nch.toNat then [i] else []
    | _ => []

/-- A unit that holds bytes of memory: PM, L1, CSM and L2 banks, HBM and STM; `addr` is then the key of a byte. -/
def holdsMemory (kind unit : Nat) : Bool :=
  match kind with
  | 0 => unit / 2 ^ 22 < 2 || unit / 2 ^ 22 = 8 || unit / 2 ^ 22 = 9
  | 2 => true
  | 3 => true
  | _ => false

/-- DETAIL of MEMERR in a word that an L1 or L2 bank has lost: KIND 0 with its core or cluster; another word's goes by where it lies
(R360). -/
def bankDetail (kind unit : Nat) : Option Nat :=
  if kind = 0 ∧ (unit / 2 ^ 22 = 1 ∨ unit / 2 ^ 22 = 9) then some (unit % 2 ^ 16 * 256) else none

/-- Words of a unit take the poison code (R357). -/
def State.poisonWords (s : State) (kind unit : Nat) (keys : List Nat) : State :=
  let words := (keys.map checkWord).eraseDups
  let put (t : Tab Nat) (w : Nat) : Tab Nat := match bankDetail kind unit with
    | some d => tabPut t w d
    | none => tabErase t w
  { s with dev := { s.dev with poison := (words ++ s.dev.poison).eraseDups, badIn := words.foldl put s.dev.badIn } }

/-- An error that a unit corrects: a single-bit error, which severity 0 names, in a word of an SRAM bank or of HBM (R356). -/
def corrects (kind severity : Nat) : Bool := severity == 0 && (kind == 0 || kind == 2)

/-- The MEMERR of a context whose data an error in a unit without addresses has lost (R360) (DEDUCED, log entry 77). -/
def State.loseData (s : State) (kind unit ctx : Nat) : State :=
  let x := s.ctx ctx
  let e : Cause := { code := causeMemErr, detail := kind + (if kind = 0 then unit % 2 ^ 16 else unit) * 256, faddr := 0, smask := 0 }
  if x.killable then s.setCtx ctx { x with boundary := addCause x.boundary e } else s

/-- ERROR_DETECTED: a single-bit error in SRAM or HBM is corrected and counted; another error is counted, and its 64-bit word takes the poison code, or, in a
unit that holds no memory, a context's data is lost; a chunk of MSTEP is repeated; the unit goes under test, and an error found there
joins its test (R356 to R360). `addr` is the key of the failing byte, the column or lane, or the context (DEDUCED, log entries 76,
77). -/
def execErrorDetected (kind unit severity addr : Nat) (s0 : State) : Result :=
  let s := s0.catchUpUnit kind unit
  let u := s.unitErr kind unit
  let chunks := if kind = 1 then (u.chunks ++ s.chunkNow unit).eraseDups else u.chunks
  let u := if corrects kind severity then { u with correctable := u.correctable + 1 } else { u with uncorrectable := u.uncorrectable + 1 }
  let s' := s.setUnitErr kind unit { u with testing := true, chunks := chunks, parts := u.parts ++ [addr] }
  done s0 (if corrects kind severity ∨ kind = 1 then s'
    else if holdsMemory kind unit then s'.poisonWords kind unit [addr]
    else s'.loseData kind unit (addr % 1024))

/-- A starter record is written over the other copy, with the next SEQ (R368). -/
def State.writeRecord (s : State) (r : StartRec) : State :=
  { s with dev := { s.dev with start := { r with seq := s.dev.start.seq + 1 }, startOther := s.dev.start } }

/-- The unit that contains a failed unit, core, cluster, stack, STM channel or link, marked for removal at the next start (R357). -/
def StartRec.mark (r : StartRec) (kind unit : Nat) : StartRec :=
  match kind with
  | 0 => if unit / 2 ^ 22 < 8 then { r with cores := r.cores ||| 2 ^ (unit % 2 ^ 16) } else { r with clusters := r.clusters ||| 2 ^ (unit % 2 ^ 16) }
  | 1 => { r with cores := r.cores ||| 2 ^ unit }
  | 2 => { r with hbms := r.hbms ||| 2 ^ (unit / 32) }
  | 3 => { r with channels := r.channels ||| 2 ^ unit }
  | _ => { r with links := r.links ||| 2 ^ unit }

/-- A failed part takes a spare of its unit, where one is left: a row of an HBM bank the bank's spare rows and then the spare bank, whose
rows are unused (R356, R357) (DEDUCED, log entry 76). The unit's record, and the spare's number. -/
def UnitErr.spare (u : UnitErr) (kind part : Nat) : Option (UnitErr × Nat) :=
  let bank := Config.hbmBank (part / 8)
  let used := tabGet 0 u.rows bank
  if kind = 2 ∧ used < 16 then some ({ u with rows := tabPut u.rows bank (used + 1) }, 64 * bank + used)
  else if u.spares = 0 then none
  else some ({ u with spares := u.spares - 1, rows := if kind = 2 then tabPut u.rows bank 0 else u.rows }, 2 ^ 20 + u.spares)

/-- The row, column or lane of a failed part: 128 bytes of a memory stand for a row of it (DESIGN CHOICE, log entry 10). -/
def rowOf (kind unit part : Nat) : Nat := if holdsMemory kind unit then part / 1024 * 1024 + part % 8 else part

/-- Failed parts are retired to spares in order: the unit's record, the assignments made, and the parts for which none was left. -/
def retireParts (kind unit : Nat) : List Nat → UnitErr → List (Nat × Nat × Nat) → List Nat → UnitErr × List (Nat × Nat × Nat) × List Nat
  | [], u, got, left => (u, got, left)
  | p :: t, u, got, left => match u.spare kind p with
    | some (u, n) => retireParts kind unit t u ((errKey kind unit, n, p) :: got) left
    | none => retireParts kind unit t u got (left ++ [p])

/-- Chunks of a core's MSTEP repeated, or left out with MEMERR where no column is left to compute them (R358)
(DEDUCED, log entry 76). -/
def State.repeatChunks (s : State) (core : Nat) (chunks : List Nat) (out : Bool) : State :=
  let k := s.core core
  match k.routine with
  | none => s
  | some r =>
    if chunks = [] then s
    else if out then
      let x := s.ctx r.ctx
      (s.setCore core { k with routine := some { r with bad := chunks ++ r.bad } }).setCtx r.ctx
        { x with boundary := addCause x.boundary { code := causeMemErr, detail := 1 + core * 256, faddr := 0, smask := 0 } }
    else s.setCore core { k with routine := some { r with reps := r.reps ++ chunks } }

/-- Parts that a failed test finds: those that failed since it began, or, of a test that no error began, the one that the event names as 1
more than its key, column or lane (R357, R370) (DEDUCED, log entry 76). -/
def UnitErr.found (u : UnitErr) (failed : Nat) : List Nat := if u.parts = [] then [failed - 1] else u.parts

/-- A SELFTEST command has waited for its unit's test: it has taken effect and is answered (R369, R370). -/
def State.answerTest (s : State) (kind unit : Nat) : State :=
  if s.dev.testCmd = some (kind, unit) then ({ s with dev := { s.dev with testCmd := none } }).answer 0 [] else s

/-- SELF_TEST_COMPLETE: a pass classes the error transient, a fail lasting; each failed row, bank, column or lane is retired to a spare and
the assignment recorded; with no spare left its words are poisoned and its unit is marked for removal. `failed` is 0 for a pass. A
SELFTEST of the unit is then answered, and completion queues whose entries waited for the unit are looked at (R347, R357, R358, R370)
(DEDUCED, log entry 76). -/
def execSelfTestComplete (kind unit failed : Nat) (s0 : State) : Result :=
  let s := s0.catchUpUnit kind unit
  let u := s.unitErr kind unit
  let rest : UnitErr := { u with testing := false, chunks := [], parts := [], cls := if failed = 0 then 1 else 2 }
  let found := u.found failed
  let r := if failed = 0 then (rest, [], []) else retireParts kind unit ((found.map (rowOf kind unit)).eraseDups) rest [] []
  let out := r.2.2 != []
  done s0 (if !u.testing then s
    else
      let s' := s.setUnitErr kind unit r.1
      let s' := if kind = 1 then s'.repeatChunks unit u.chunks out else s'
      let s' := if holdsMemory kind unit ∧ out then
          s'.poisonWords kind unit (found.filter fun p => r.2.2.contains (rowOf kind unit p)) else s'
      let d := { s'.dev.start with spareLog := r.2.1 ++ s'.dev.start.spareLog }
      let s' := if failed = 0 then s' else s'.writeRecord (if out then d.mark kind unit else d)
      (s'.answerTest kind unit).takeAllEnds)

/-! ### The starter record's bytes -/

/-- One step of the CRC-32 of IEEE 802.3, over one bit (R368). -/
def crcBits : Nat → Nat → Nat
  | 0, c => c
  | n + 1, c => crcBits n (if c % 2 = 1 then c / 2 ^^^ 0xEDB88320 else c / 2)

/-- CRC-32 of IEEE 802.3 (R368). -/
def crc32 (bs : List Byte) : Nat := (bs.foldl (fun c b => crcBits 8 (c ^^^ b.toNat)) 0xFFFFFFFF) ^^^ 0xFFFFFFFF

/-- The removal masks of a record: bytes 0x090 to 0x0BB (R368, R370). -/
def StartRec.masks (r : StartRec) : List Byte :=
  leBytes 32 r.cores ++ leBytes 8 (r.clusters % 2 ^ 32 + r.hbms % 2 ^ 12 * 2 ^ 32) ++ leBytes 4 r.channels

/-- The 4 KiB of a record (R368). -/
def StartRec.bytes (r : StartRec) : List Byte :=
  let steps := (List.range 8).flatMap fun i =>
    let p := r.steps.getD i (0, 0, 0)
    leBytes 16 (p.1 % 256 + p.2.1 % 256 * 2 ^ 8 + p.2.2 % 65536 * 2 ^ 16)
  let body := leBytes 8 r.seq ++ steps ++ r.masks ++ List.replicate 68 0 ++ (List.range 3840).map (Config.calibration r.spareLog)
  leBytes 4 0x5253584B ++ leBytes 4 (crc32 body) ++ body

/-! ### Start -/

/-- Steps that have an alternative method: all but 1, 2 and 7 (R366). -/
def hasAlternative (step : Nat) : Bool := step != 1 && step != 2 && step != 7

/-- One step taken on a start: its next entry, and whether it went through, by the entry it had and by the failure of its
normal and of its alternative method (R366). `code` is the failure code (DEDUCED, log entry 69). -/
def stepEntry (step code : Nat) (p : Nat × Nat × Nat) (fails alt : Bool) : (Nat × Nat × Nat) × Bool :=
  match p.1 with
  | 0 => if fails then ((1, p.2.1 + 1, code), false) else ((0, 0, p.2.2), true)
  | 3 => ((3, p.2.1, p.2.2), true)
  | _ =>
    if !hasAlternative step then ((3, p.2.1, p.2.2), true)
    else if alt then ((3, p.2.1 + 1, code), false) else ((2, p.2.1, p.2.2), true)

/-- A step in its degraded configuration at which the module halts (R366). -/
def haltsDegraded (step : Nat) : Bool := step == 1 || step == 2 || step == 8

/-- The steps of a start from one on: their entries, and the step at which the start ends, 0 where all went through
(DEDUCED, log entry 69). -/
def runSteps (fails other : Nat → Bool) (code : Nat → Nat) (old : List (Nat × Nat × Nat)) :
    List Nat → List (Nat × Nat × Nat) → List (Nat × Nat × Nat) × Nat
  | [], acc => (acc, 0)
  | i :: is, acc =>
    let o := stepEntry i (code i) (old.getD (i - 1) (0, 0, 0)) (fails i) (other i)
    if o.2 && !(haltsDegraded i && o.1.1 == 3) then runSteps fails other code old is (acc ++ [o.1])
    else (acc ++ [o.1] ++ old.drop i, i)

/-- An image that ROM runs: its signature holds and its version is not below the fused minimum (R371). -/
def imageOk (image : List Byte) : Bool :=
  let p := Config.imageParts image
  Config.ed25519Verify Config.romKey p.2.1 p.2.2 && Config.fwMinimum ≤ p.1

def Dev.primary (d : Dev) : List Byte := d.staged.getD (Config.firmware 0)

/-- The image that runs (R371). -/
def Dev.runningImage (d : Dev) : List Byte := if d.runImage = 2 then Config.firmware 1 else d.runStaged.getD (Config.firmware 0)

/-- The record that a start uses: the valid copy of higher SEQ, else a fresh one, which has the larger SEQ that can be read until the start
writes it with the next (R368). Bits 0 and 1 of `copies`: the
record in use and the other copy are valid; bits 2 and 3: their SEQ fields can be read (DEDUCED, log entry 69). -/
def Dev.recordFor (d : Dev) (copies : Nat) : StartRec :=
  let a := bitOf copies 0
  let b := bitOf copies 1
  if a && (!b || d.startOther.seq ≤ d.start.seq) then d.start
  else if b then d.startOther
  else
    let seq := max (if bitOf copies 2 then d.start.seq else 0) (if bitOf copies 3 then d.startOther.seq else 0)
    { StartRec.init with seq := seq, steps := (0, 0, 0xFFFF) :: List.replicate 7 (0, 0, 0) }

/-- Units of a degraded step are removed by the record (R366, R367). -/
def StartRec.remove (r : StartRec) (cores clusters hbms channels : Nat) : StartRec :=
  let deg (i : Nat) : Bool := (r.steps.getD (i - 1) (0, 0, 0)).1 == 3
  { r with hbms := if deg 5 then r.hbms ||| hbms else r.hbms
           channels := if deg 6 then r.channels ||| channels else r.channels
           cores := if deg 7 then r.cores ||| cores else r.cores
           clusters := if deg 7 then r.clusters ||| clusters else r.clusters }

/-- Die-to-die calibration in its degraded configuration: the lanes of each direction that fail, as far as its spares reach, are
moved to spares, and the assignments recorded (R356, R366) (DEDUCED, log entry 69). -/
def retireLanes (free : Nat → Nat) (r : StartRec) (errs : Tab UnitErr) : StartRec × Tab UnitErr :=
  if (r.steps.getD 3 (0, 0, 0)).1 ≠ 3 then (r, errs)
  else (List.range 6).foldl (fun (o : StartRec × Tab UnitErr) d =>
    let u := tabGet (UnitErr.init 4) o.2 (errKey 4 d)
    let lanes := (List.range (free (3 * d) % (u.spares + 1))).map fun i => free (3 * d + 1 + i)
    let g := retireParts 4 d lanes u [] []
    ({ o.1 with spareLog := g.2.1 ++ o.1.spareLog }, tabPut o.2 (errKey 4 d) g.1)) (r, errs)

/-- HBM, STM or host memory, which a start does not reset (R15, R42). -/
def inMemory (k : Nat) : Bool := k % 8 == 0 || k % 8 == 1 || k % 8 == 5

/-- The machine as a start leaves it: every core, cluster and context reset, the units that the record removes left out, HBM, STM, host
memory and flash as they were; a fresh record applies no spare assignment, and firmware sets the port's timeout (R15, R42, R345, R366 to
R368) (DEDUCED, log entry 68; DEDUCED, log entry 69; DEDUCED, log entry 70). A mark that R357 has put on a die link stays in the
record and removes nothing, as no rule says what such a start leaves out (DESIGN CHOICE, log entry 107). -/
def State.restart (s : State) (r : StartRec) (code used : Nat) (fresh : Bool) : State :=
  let gone (c : Nat) : Bool := bitOf r.cores c || bitOf r.clusters (c / 8)
  let cores := ((List.range Config.cores).filter gone).map fun c => (c, { Core.init with removed := true })
  let clusters := ((List.range Config.clusters).filter (bitOf r.clusters)).map fun c => (c, { Cluster.init with removed := true })
  let image := if (r.steps.getD 7 (0, 0, 0)).1 = 2 then 2 else 1
  let up := code = 0 ∧ ¬ (List.range Config.clusters).all (bitOf r.clusters)
  let kept (p : Nat × UnitErr) : Nat × UnitErr :=
    let u : UnitErr := { p.2 with testing := false, chunks := [], parts := [] }
    (p.1, if fresh then { u with spares := sparesOf (p.1 % 8), rows := [] } else u)
  let laned := retireLanes (fun i => Config.freeNat (s.fresh + 8 + i)) r (s.dev.errs.map kept)
  let dev : Dev := { Dev.init with
    start := laned.1, startOther := if used = 0 then s.dev.start else s.dev.startOther, errs := laned.2
    stacksGone := r.hbms, channelsGone := r.channels, out := s.dev.out, poison := s.dev.poison.filter inMemory
    badIn := s.dev.badIn.filter fun p => inMemory p.1, hostUp := (r.steps.getD 2 (0, 0, 0)).1 ≠ 3
    timeout := max 1 (min 4000 Config.hostTimeout)
    staged := s.dev.staged, runImage := image, runStaged := s.dev.staged, powered := up, ststep := if code = 0 then 8 else code + 256 }
  { State.reset with cores := cores, clusters := clusters, dev := dev, mem := s.mem.filter fun p => inMemory p.1
                     fresh := s.fresh + 26, portId := s.portId }

/-- START: the steps from fuses to firmware ready (R366 to R368). `copies` tells which copies of the starter record are valid, bit
i − 1 of `fails` and of `other` that step i fails by its normal and by its alternative method, and the masks which units fail
in steps 5 to 7; steps 2 and 8 fail as well where a digest or an image does not hold (R366, R371) (DEDUCED, log entry 69). -/
def execStartModule (copies fails other cores clusters hbms channels : Nat) (s : State) : Result :=
  let old := s.dev.recordFor copies
  let fail (i : Nat) : Bool := bitOf fails (i - 1) || (i == 2 && Config.sha512 Config.rom != Config.romDigest)
    || (i == 8 && !imageOk s.dev.primary)
  let alt (i : Nat) : Bool := bitOf other (i - 1) || (i == 8 && !imageOk (Config.firmware 1))
  let o := runSteps fail alt (fun i => Config.freeNat (s.fresh + i) % 65536) old.steps [1, 2, 3, 4, 5, 6, 7, 8] []
  let r : StartRec := ({ old with seq := old.seq + 1, steps := o.1 } : StartRec).remove cores clusters hbms channels
  let used := if old = s.dev.start then 0 else 1
  .next (s.restart r o.2 used (copies % 4 = 0))

/-! ### Power -/

/-- POWER_PERIOD: at each 150,000-cycle period of the IOD's clock the average power against the limit moves every core's duty by one
sixteenth; within a period nothing is compared (R372) (DEDUCED, log entry 68; DESIGN CHOICE, log entry 78). -/
def execPowerPeriod (watts : Nat) (s0 : State) : Result :=
  let now := s0.dev.clock / 150000
  let d := s0.dev.duty
  let d' := if s0.dev.limit < watts then max 4 (d - 1) else if 100 * watts < 95 * s0.dev.limit then min 16 (d + 1) else d
  let s := if d' = d then s0 else s0.catchUpAll
  let s' := { s with dev := { s.dev with pwr := watts, duty := d', period := now } }
  done s0 (if now ≤ s0.dev.period then s0 else if d' = d then s' else s'.signal 3 0)

/-- THERMAL_THROTTLE: at 105 °C the duty is 4/16 (R372) (DEDUCED, log entry 68). -/
def execThermalThrottle (s0 : State) : Result := 
  let s := s0.catchUpAll
  done s0 ({ s with dev := { s.dev with duty := 4 } }.signal 3 0)

/-- THERMAL_SHUTDOWN: at 120 °C the BMC removes power (R372). -/
def execThermalShutdown (s : State) : Result := done s { s with dev := { s.dev with powered := false } }

end Sys2Proof.Machine
end

