-- ==== Sys2Proof/Machine/Cmd.lean ====
section
/-! DEFINITION. The device commands of the mailbox (R326, R331, R337, R340, R346, R348, R351, R364, R365, R369 to R372). A
command reads its words W1, W2 and so on in the mailbox; STATUS 2 is a field outside its range, 3 an object absent or in the
wrong state. -/

namespace Sys2Proof.Machine

/-! ### Objects -/

/-- A node address that a command may name: the management space is set and the node translates in it (R370)
(DEDUCED, log entry 63). -/
def State.nodeOk (s : State) (va : Nat) : Bool :=
  s.dev.mgmt.isSome && match readVirtual s s.mgmtSpace 0 va 64 with | .ok _ => true | .error _ => false

/-- A node that carries a fault domain (R370) (DEDUCED, log entry 63). -/
def State.domainOk (s : State) (va : Nat) : Bool := s.nodeOk va && (s.domain va).isSome

/-- A command that needs an object: STATUS 3 without it (R370). -/
def State.require (s : State) (b : Bool) (k : State) : State := if b then k else s.answer 3 []

/-- A command whose fields must lie in their ranges: STATUS 2 otherwise (R370). -/
def State.fields (s : State) (b : Bool) (k : State) : State := if b then k else s.answer 2 []

/-- A root table word: a table address and LOC 0 or 1, other bits zero (R326, R370). -/
def rootOk (w : Nat) : Bool := onlyFields [(4, 2), (12, 40)] w && bits w 4 2 < 2

/-- A link or a unit under test holds a byte of an aperture write on its route (R355, R357). -/
def State.routeHeld (s : State) (c : Nat × Byte) : Bool := s.iodHeld (homeDie c.1) || s.unitBusy c.1

/-- Aperture writes that were sent on perform: the bytes still on their routes land, but for those that are held (R331, R341, R355). -/
def State.landInbound (s : State) : State :=
  let s' := s.dev.inbound.foldl (fun t x => x.routes.foldl (fun t d =>
    t.landRoute d (x.cells.filter fun c => homeDie c.1 == d && !s.routeHeld c)) t) s
  { s' with dev := { s'.dev with inbound := s'.dev.inbound.map fun x => { x with cells := x.cells.filter s.routeHeld } } }

/-- An access of the port used a translation of a space. -/
def PortItem.uses (i : PortItem) (space : Nat) : Bool := i.via.any fun t => t.space == space

/-- Accesses through a domain's translations perform, as far as nothing holds them, whichever domain their contexts serve by now, with the
reductions at their ports, the aperture writes on their routes and what drives have sent (R265, R331). -/
def State.settleDomain (s : State) (node : Nat) : State :=
  (((s.ctxs.filter fun p => p.2.node == node || p.2.port.any (PortItem.uses · (node + 1))).foldl (fun s p => s.performAll p.1) s).drainRed
    fun _ => true).landInbound.takeAllEnds

/-- A translation of a domain's that covers part of a range. -/
def Trans.inRange (t : Trans) (node va bytes : Nat) : Bool := t.space == node + 1 && t.base < va + bytes && va < t.base + t.size

/-- Read commands that a drive has still to complete, or whose bytes the engine has still to write (R346). -/
def Dev.reads (d : Dev) : List NvmeRead := d.nvme.flatMap (·.2) ++ d.nvmeDone.flatMap fun p => p.2.map (·.read)

/-- No access that used a translation of a range of a domain waits any more: none of a context, which may serve another domain by now, no
aperture write on its route and no Read command with its list of places (R331, R347). -/
def State.rangeStill (s : State) (node va bytes : Nat) : Bool :=
  (s.ctxs.all fun p => p.2.port.all fun i => i.via.all fun t => !t.inRange node va bytes)
    && (s.dev.inbound.all fun x => x.cells == []) && s.dev.reads.all fun r => r.via.all fun t => !t.inRange node va bytes

/-- Translations of a range of an address space leave every cache, and the walk caches keep nothing (R330, R331). -/
def State.dropRange (s : State) (node va bytes : Nat) : State :=
  { s with tlb := s.tlb.filter fun t => !(t.space == node + 1 && t.base < va + bytes && va < t.base + t.size), walks := [] }

/-! ### Identity, configuration and errors -/

/-- MAILBOX_UNKNOWN_OPCODE (R370). -/
def execMailboxUnknownOpcode (s : State) : Result := done s (s.answer 1 [])

/-- IDENT: part number, firmware version and SEQ, eight bytes each (R370) (DESIGN CHOICE, log entry 62). -/
def execIdent (s : State) : Result :=
  done s (s.answer 0 (leBytes 8 Config.partNumber ++ leBytes 8 (Config.imageParts s.dev.runningImage).1 ++ leBytes 8 s.dev.start.seq))

/-- GETCFG (R370). -/
def execGetcfg (s : State) : Result := done s (s.answer 0 s.dev.start.masks)

/-- Spares that a unit has left; of an HBM pseudo-channel its spare bank and the rows of the bank that has fewest (R356)
(DESIGN CHOICE, log entry 62). -/
def UnitErr.left (u : UnitErr) (kind : Nat) : Nat :=
  u.spares + if kind = 2 then 16 - (u.rows.map (·.2)).foldl max 0 else 0

/-- ERRGET: counts, class and spares left, eight bytes each (R370) (DESIGN CHOICE, log entry 62). -/
def execErrget (s : State) : Result :=
  let kind := s.mbWord 1 % 16
  let unit := s.mbWord 2
  let u := s.unitErr kind unit
  done s (s.fields (isUnit kind unit)
    (s.answer 0 (leBytes 8 u.correctable ++ leBytes 8 u.uncorrectable ++ leBytes 8 u.cls ++ leBytes 8 (u.left kind))))

/-- SELFTEST: the unit goes under test, and the command stays BUSY until SELF_TEST_COMPLETE has its class and what it retires (R357, R370)
(DEDUCED, log entry 66). -/
def execSelftest (s0 : State) : Result :=
  let kind := s0.mbWord 1
  let unit := s0.mbWord 2
  let s := s0.catchUpUnit kind unit
  done s0 (s.fields (isUnit kind unit) ({ s.setUnitErr kind unit { s.unitErr kind unit with testing := true } with
      dev := { (s.setUnitErr kind unit { s.unitErr kind unit with testing := true }).dev with testCmd := some (kind, unit) } }))

/-- STARTREC: bytes 0x000 to 0x0FF of the record; CLEAR resets the step entries (R366, R370) (DEDUCED, log entry 68). -/
def execStartrec (s : State) : Result :=
  let r := s.dev.start
  let s' := if s.mbWord 1 % 2 = 1 then s.writeRecord { r with steps := StartRec.init.steps } else s
  done s (s'.answer 0 (r.bytes.take 256))

/-- PWRLIMIT: 1,000 to 2,800 W (R370, R372). -/
def execPwrlimit (s : State) : Result :=
  let w := s.mbWord 1 % 4096
  done s (s.fields (1000 ≤ w && w ≤ 2800) ({ s with dev := { s.dev with limit := w } }.answer 0 []))

/-- SETVEC: an event signals a vector (R370). -/
def execSetvec (s : State) : Result :=
  let event := s.mbWord 1 % 16
  let node := if event = 1 then s.mbWord 2 else 0
  let vs := s.dev.vectors.filter fun v => !(v.1 == event && v.2.1 == node)
  done s (s.fields (event < 4) (s.require (event != 1 || s.domainOk node)
    ({ s with dev := { s.dev with vectors := (event, node, s.mbWord 3 % 2048) :: vs } }.answer 0 [])))

/-! ### Attestation and images -/

/-- Key of a bus address of host memory, reached without a PASID (R371) (DESIGN CHOICE, log entry 21). -/
def busKey (a : Nat) : Nat := keyOf (.host (2 ^ 20) a)

/-- The Ed25519 seed of the identity key pair (R371). -/
def identitySeed : List Byte := (Config.sha512 (leBytes 32 Config.secret.toNat ++ [0x4B, 0x58, 0x37, 0x30, 0x30, 0x2D, 0x49, 0x44])).take 32

/-- Bytes 0x000 to 0x15F of the attestation report (R371). -/
def State.report (s : State) : List Byte :=
  ((List.range 4).flatMap fun i => leBytes 8 (s.mbWord (i + 1))) ++ leBytes 8 s.dev.start.seq ++ List.replicate 24 0
    ++ Config.sha512 Config.rom ++ Config.sha512 s.dev.runningImage ++ Config.sha512 s.dev.start.bytes
    ++ Config.sha512 (s.dev.start.masks ++ leBytes 8 s.dev.limit) ++ Config.ed25519Public identitySeed

/-- ATTEST: the report and its signature written to host memory with RO 0 (R370, R371). -/
def execAttest (s : State) : Result :=
  let w := s.mbWord 5
  let bytes := s.report ++ Config.ed25519Sign identitySeed s.report
  done s (s.fields (w % 64 == 0)
    ((s.storeVia [] ((bytes.zipIdx).map fun p => (busKey (w + p.2), p.1)) false).answer 0 []))

/-- FWSTAGE: an image of host memory is verified and becomes the primary image (R371). -/
def execFwstage (s0 : State) : Result :=
  let keys := (List.range (s0.mbWord 2)).map fun i => busKey (s0.mbWord 1 + i)
  let image := keys.map s0.byte
  let s := s0.askHost keys
  done s0 (if imageOk image then { s with dev := { s.dev with staged := some image } }.answer 0 [] else s.answer 4 [])

/-! ### Spaces and domains -/

/-- MGMTROOT, accepted only while no queue exists (R326, R370). -/
def execMgmtroot (s : State) : Result :=
  let w := s.mbWord 1
  let root := (bits w 12 40 * 2 ^ 12, bits w 4 2, s.mbWord 2 % 2 ^ 20)
  done s (s.fields (rootOk w) (s.require (s.dev.hwq.isEmpty)
    ({ s with dev := { s.dev with mgmt := some root }, tlb := s.tlb.filter fun t => t.space ≠ 0 }.answer 0 [])))

/-- DOMCREATE: a fault domain on a node whose OV bit 35 is set (R326, R370) (DEDUCED, log entry 67). -/
def execDomcreate (s : State) : Result :=
  let va := s.mbWord 1
  let w := s.mbWord 2
  let ov := match readVirtual s s.mgmtSpace 0 (va + 48) 8 with
    | .ok bs => bitOf (leNat bs) 35
    | .error _ => false
  let d : Domain := { node := va, root := bits w 12 40 * 2 ^ 12, loc := bits w 4 2, pasid := s.mbWord 3 % 2 ^ 20, live := true
                      subst := 0, pidx := 0, rovf := 0, fovf := 0 }
  done s (s.fields (rootOk w) (s.require (s.nodeOk va && ov && (s.domain va).isNone)
    ({ s with dev := { s.dev with domains := d :: s.dev.domains.filter fun d => d.node ≠ va }
              tlb := s.tlb.filter fun t => t.space ≠ va + 1 }.answer 0 [])))

/-- OUTCOME (R364). -/
def execOutcome (s : State) : Result :=
  let va := s.mbWord 1
  done s (s.require (s.domainOk va) ((s.writeOutcome va).answer 0 []))

/-- Cells that write zero to the listed bytes of the PM of cores. -/
def State.zeroPm (s : State) (cores : List Nat) : List (Nat × Byte) :=
  (((s.mem ++ s.wlog).map (·.1)).eraseDups.filter fun k => match pmCoreOf k with
    | some c => cores.contains c
    | none => false).map fun k => (k, 0)

/-- PM of cores holds no bad word any more: each has been written whole (R357). -/
def State.cleanPm (s : State) (cores : List Nat) : State :=
  let ours (w : Nat) : Bool := w % 8 == 2 && cores.contains (w / 8 / 2 ^ 17)
  { s with dev := { s.dev with poison := s.dev.poison.filter fun w => !ours w, badIn := s.dev.badIn.filter fun p => !ours p.1 } }

/-- Teardown writes zero to the frozen PM of cores, which then count as torn down (R238, R365) (DEDUCED, log entry 64). -/
def State.thawPm (s : State) (cores : List Nat) : State :=
  let s := cores.foldl (fun s k => s.setCore k { s.core k with frozen := false, tornDown := false }) s
  cores.foldl (fun s k => s.setCore k { s.core k with tornDown := true }) ((s.pokes (s.zeroPm cores)).cleanPm cores)

/-- A core without the matrix work of contexts (DEDUCED, log entry 64). -/
def Core.dropWork (k : Core) (cs : List Nat) : Core :=
  { k with mq := k.mq.filter fun e => !cs.contains e.ctx
           routine := k.routine.filter fun r => !cs.contains r.ctx
           drainRun := k.drainRun.filter fun d => !cs.contains d.ctx
           arrayEnds := if (k.mq.filter fun e => isArray e.op && e.begun && cs.contains e.ctx) = [] then k.arrayEnds else none }

/-- A core without the commands of a fault domain, halted where they stand (R365) (DEDUCED, log entry 64). -/
def Core.dropCmds (k : Core) (node : Nat) : Core :=
  { k with queues := k.queues.map fun q =>
      let drops (c : Cmd) : Bool := c.node == node
      (q.1, { q.2 with cmds := q.2.cmds.filter fun c => !drops c
                       halted := if (q.2.cmds.head?.map drops).getD false then none else q.2.halted }) }

/-- A context of a domain that is torn down: killed without a record, its locks gone at every home, its handles returned and
its slots empty, and no longer bound (R365) (DEDUCED, log entry 64). -/
def State.tearCtx (s : State) (c : Nat) : State :=
  let s := (s.performAll c)
  let s := (List.range (s.ctx c).wbacks.length).foldl (fun s _ => s.performBack c) s
  let s := s.kill c
  let s := (s.clusters.map (·.1)).foldl (fun s h => if (s.home h).has c fun _ => true then s.lockReleaseAll h c else s) s
  let s := s.returnHandles c
  s.setCtx c { s.ctx c with mode := .unbound, prep := none, strays := [], wbacks := [], wbHalt := none, wbRetry := none, pend := [], port := []
                            txn := none, wound := none, monitor := [], held := none, echo := [], goal := none }

/-- A queue bound to a node of a domain (R365). -/
def State.queueIn (s : State) (node : Nat) (q : Nat) (x : HwQueue) : Bool :=
  match x.launch.bind s.launch with
  | some l => l.node == node
  | none => match s.resolve q x.node with
    | .ok l => l.node == node
    | .error _ => false

/-- Read commands of a domain's STGRDs leave the queue pairs, and APBIND's binding to it goes (R340, R365). -/
def State.tearOutside (s : State) (node : Nat) : State :=
  let gone (r : NvmeRead) : Bool := (s.queue r.core 17).cmds.any fun c => c.pos == r.pos && c.node == node
  { s with dev := { s.dev with
      nvme := s.dev.nvme.map fun p => (p.1, p.2.filter fun r => !gone r)
      nvmeDone := s.dev.nvmeDone.map fun p => (p.1, p.2.filter fun e => !gone e.read)
      rx := s.dev.rx.filter fun r => r.node ≠ node
      apbind := s.dev.apbind.filter fun b => b.1 != node } }

/-- Contributions that wait for the PM of cores go with it (R238). -/
def State.dropReds (s : State) (cores : List Nat) : State :=
  { s with red := s.red.filter fun e => !(e.keys.any fun k => match pmCoreOf k with
      | some o => cores.contains o
      | none => false) }

/-- The end of a fault domain, in the order of R365 (DEDUCED, log entry 64). -/
def State.tearDown (s : State) (node : Nat) : State :=
  let s := s.writeOutcome node
  let qs := (s.dev.hwq.filter fun q => s.queueIn node q.1 q.2).map (·.1)
  let cs := (s.ctxs.filter fun p => p.2.mode ≠ .unbound && p.2.node == node).map (·.1)
  let ks := (cs.map coreOf).eraseDups
  let frozen := ks.filter fun k => freezes s node k || ((s.core k).frozen && (s.core k).frozenBy == node)
  let s := (cs.foldl State.tearCtx s).tearOutside node
  let s := { s with cores := s.cores.map fun (k : Nat × Core) => (k.1, ((k.2 : Core).dropWork cs).dropCmds node) }
  let s := ks.foldl State.restCore ((s.dropReds frozen).thawPm frozen)
  let s := qs.foldl (fun s q => s.queueState q 5) s
  let s := { s with tlb := s.tlb.filter fun t => t.space ≠ node + 1, walks := [] }
  { s with dev := { s.dev with domains := s.dev.domains.map fun d => if d.node = node then { d with live := false } else d } }

/-- DOMTEARDOWN (R365). -/
def execDomteardown (s : State) : Result :=
  let va := s.mbWord 1
  done s (s.require (s.domainOk va) ((s.tearDown va).answer 0 []))

/-- XINVAL: it completes once every access that used a translation of the range has performed, and stays BUSY until then (R331)
(DEDUCED, log entry 66). -/
def execXinval (s : State) : Result :=
  let va := s.mbWord 1
  done s (s.require (s.domainOk va)
    (let t := s.settleDomain va
     if t.rangeStill va (s.mbWord 2) (s.mbWord 3) then (t.dropRange va (s.mbWord 2) (s.mbWord 3)).answer 0 [] else t))

/-- APBIND: BAR2 names a domain and an aligned base (R340). -/
def execApbind (s : State) : Result :=
  let va := s.mbWord 1
  let base := s.mbWord 2
  done s (s.fields (base % 65536 == 0 && base < 2 ^ 57) (s.require (s.domainOk va)
    ({ s with dev := { s.dev with apbind := some (va, base) } }.answer 0 [])))

/-! ### Migration -/

/-- A physical address that a page of a size may have (R328). -/
def pageAt (loc pa size : Nat) : Bool := pa % size == 0 && pa + size ≤ if loc = 0 then 576 * 2 ^ 30 else 2 ^ 41

/-- Cells that copy a range of bytes: those of every byte that either range lists. -/
def State.copyCells (s : State) (src dst bytes : Nat) : List (Nat × Byte) :=
  let offs (k : Nat) : List Nat :=
    (if k % 8 = src % 8 ∧ src ≤ k ∧ k < src + 8 * bytes then [k - src] else [])
      ++ if k % 8 = dst % 8 ∧ dst ≤ k ∧ k < dst + 8 * bytes then [k - dst] else []
  ((s.mem ++ s.wlog).flatMap fun c => offs c.1).eraseDups.map fun o => (dst + o, s.byte (src + o))

/-- Poison of the words of a page goes with them to its copy (R357). -/
def State.copyPoison (s : State) (src dst bytes : Nat) : State :=
  s.poisonWords 2 0 ((s.dev.poison.map fun w => w / 8 * 64 + w % 8).filter (fun k => k % 8 = src % 8 ∧ src ≤ k ∧ k < src + 8 * bytes)
    |>.map fun k => dst + (k - src))

/-- A leaf's entry written: wakes of R332 follow from the write. -/
def State.putEntry (s : State) (key e : Nat) : State := s.storeCells (cellsAt (keysFrom key 8) e)

/-- Step 1 of R337: the leaf of a page takes MIG 1 and R 0. -/
def State.startMove (s : State) (t : Trans) : State :=
  let e := readLe s.seen t.entry 8
  let s := s.putEntry t.entry (e - (if bitOf e 2 then 4 else 0) + if bitOf e 7 then 0 else 128)
  { s with dev := { s.dev with moving := some t } }

/-- Steps 3 and 4 of R337: the copy, the shadow word, and the entry. -/
def State.endMove (s : State) (t : Trans) (loc pa : Nat) (dup : Bool) (pa2 : Nat) : State :=
  let src := physKey t.loc 0 t.pa
  let put (s : State) (pa : Nat) : State :=
    let dst := physKey loc 0 pa
    if dst = src then s else (s.storeCells (s.copyCells src dst t.size)).copyPoison src dst t.size
  let s := put s pa
  let s := if dup then put s pa2 else s
  let lvl := if t.size = 2 ^ 30 then 2 else if t.size = 2 ^ 21 then 1 else 0
  let s := if dup then s.putEntry (t.entry + 8 * (8 * 2 ^ levelBits lvl)) pa2 else s
  let e := 7 + (if t.w then 8 else 0) + loc * 2 ^ 4 + (if dup then 2 ^ 6 else 0) + (if t.tol then 2 ^ 8 else 0) + pa
  let s := s.putEntry t.entry e
  { s with dev := { s.dev with moving := none } }

/-- MIGRATE: one page between HBM and STM, or duplicated again. The command makes the first step of R337 and stays BUSY; it completes
once the invalidation has, with the copy and the final entry, after which held aperture accesses go on (R328, R336, R337, R340)
(DEDUCED, log entry 66). -/
def execMigrate (s : State) : Result :=
  let node := s.mbWord 1
  let w := s.mbWord 4
  let loc := w % 4
  let dup := bitOf w 2
  let pa2 := bits w 16 35 * 2 ^ 16
  let pa := s.mbWord 3
  let dieOfPa (a : Nat) : Bool := a / (48 * 2 ^ 30) < 6
  done s (match s.dev.moving with
    | some t =>
      let u := s.settleDomain node
      if u.rangeStill node t.base t.size then (((u.dropRange node t.base t.size).endMove t loc pa dup pa2).pump).answer 0 [] else u
    | none => s.fields (loc < 2 && (!dup || loc == 0))
      (s.require (s.domainOk node) (match walk s.seen (s.space node) (s.mbWord 2) .read with
        | .ok t => s.require (t.loc < 2)
            (s.fields (pageAt loc pa t.size && (!dup || (pageAt 0 pa2 t.size && dieOfPa pa != dieOfPa pa2))) (s.startMove t))
        | _ => s.answer 3 [])))

/-! ### Work queues -/

/-- A queue that a command names by its whole word 1; STATUS 2 for a number past the last, 3 for a queue that does not exist
(R370) (DEDUCED, log entry 66). -/
def State.withQueue (s : State) (f : Nat → HwQueue → State) : State :=
  let q := s.mbWord 1
  s.fields (q < 65536) (match s.hw q with
    | some x => f q x
    | none => s.answer 3 [])

/-- QCREATE (R307, R370). -/
def execQcreate (s : State) : Result :=
  let q := s.mbWord 1 % 65536
  let w := s.mbWord 2
  let node := bits (s.mbWord 3) 0 57
  let x : HwQueue := {
    ring := bits w 0 57, rsz := bits w 57 5, head := 0, ptail := 0, node := node, save := bits (s.mbWord 4) 0 57, state := 0, err := 0
    tovf := false, preq := false, prog := 0, launch := none, children := [], lastTag := 0, wdFrom := 0, wdOnce := false }
  done s (s.fields (x.ring % 64 == 0 && x.rsz ≤ 16 && x.save % 64 == 0)
    (s.require (s.nodeOk node && (s.hw q).isNone) ((s.setHw q x).answer 0 [])))

/-- QDESTROY (R370). -/
def execQdestroy (s : State) : Result :=
  done s (s.withQueue fun q x => s.require (x.state == 0 || x.state == 3 || x.state == 4 || x.state == 5)
    ({ s with dev := { s.dev with hwq := tabErase s.dev.hwq q, launches := match x.launch with
        | some id => tabErase s.dev.launches id
        | none => s.dev.launches } }.answer 0 []))

/-- QCLEAR (R370). -/
def execQclear (s : State) : Result :=
  done s (s.withQueue fun q x => s.require (x.state == 4 || x.state == 5)
    (let s := match x.launch with
      | some id => { s with dev := { s.dev with launches := tabErase s.dev.launches id } }
      | none => s
     let y := { x with err := 0, tovf := false, launch := none, wdOnce := false }
     (s.setHw q { y with state := y.idle }).answer 0 []))

/-- QPREEMPT: PREQ is set; the queue is saved at its next launch boundary (R322, R370). -/
def execQpreempt (s : State) : Result :=
  done s (s.withQueue fun q x => (s.setHw q { x with preq := true }).answer 0 [])

/-- QRESUME: a saved queue goes on with its saved children and its ring (R323, R370) (DEDUCED, log entry 54). -/
def execQresume (s : State) : Result :=
  done s (s.withQueue fun q x => s.require (x.state == 3) ((s.setHw q { x with state := x.idle }).answer 0 []))

/-- QKILL (R370) (DEDUCED, log entry 65). -/
def execQkill (s : State) : Result :=
  done s (s.withQueue fun q x =>
    let s := match x.launch with
      | some id => s.killLaunch id causeWdKill
      | none => s
    (s.queueState q 5).answer 0 [])

/-! ### Agents -/

def causeCmdKill : Nat := 0x39

/-- RESUME of a context with its preparation and write-backs, or of a halted engine queue (R129, R216, R234, R332, R370)
(DEDUCED, log entry 66). -/
def execResume (s : State) : Result :=
  let w := s.mbWord 1
  let c := w % 1024
  let q := bits w 16 8
  let core := w % 256
  done s (if bitOf w 63 then
      s.fields (q < 20) (s.require (((s.queue core q).halted.map fun h => h.cause.code == causeEngXlate).getD true)
        ((s.resumeQueue core q).answer 0 []))
    else s.require (s.ctx c).killable (((s.resumeCtx c).resumeWork c fun _ => true).answer 0 []))

/-- KILL (R209, R370) (DEDUCED, log entry 65). -/
def execKill (s : State) : Result :=
  let c := s.mbWord 1 % 1024
  done s (s.require (s.ctx c).killable ((s.takeFatal c (s.splitAt c causeCmdKill 0 0 0)).answer 0 []))

/-! ### Network and storage -/

/-- EPBIND: an endpoint's remote package and port, and the domain of an endpoint that receives here (R348)
(DEDUCED, log entry 46). -/
def execEpbind (s : State) : Result :=
  let ep := s.mbWord 1 % 2 ^ 32
  let node := s.mbWord 3
  done s (s.require (node == 0 || s.domainOk node)
    ({ s with dev := { s.dev with endpoints := (ep, s.mbWord 2, node) :: s.dev.endpoints.filter fun e => e.1 ≠ ep } }.answer 0 []))

/-- GRPDEF: a group's members in order of rank (R351) (DEDUCED, log entries 46, 63). -/
def execGrpdef (s : State) : Result :=
  let g := s.mbWord 1 % 256
  let n := bits (s.mbWord 1) 8 8 + 1
  done s (match readWords s s.mgmtSpace (s.mbWord 2) n with
    | .error _ => s.answer 3 []
    | .ok ws => s.require s.dev.mgmt.isSome
      ({ s with dev := { s.dev with
          groups := tabPut s.dev.groups g (ws.map fun w => (bits w 0 32, bits w 32 8))
          collSeq := s.dev.collSeq.filter fun p => p.1 / 256 ≠ g
          collParts := s.dev.collParts.filter fun p => p.group ≠ g } }.answer 0 []))

/-- NSATTACH: a namespace of a port's drive is attached or detached (R346). -/
def execNsattach (s : State) : Result :=
  let port := s.mbWord 1 % 8
  let ns := s.mbWord 2
  let is (n : Nat × Nat × Nat × Nat) : Bool := n.1 == port && n.2.1 == ns
  let has := s.dev.nsids.any is
  done s (s.fields (ns != 0 && ns < 2 ^ 32 - 1)
    (if s.mbWord 3 % 2 = 1 then
      s.require has ({ s with dev := { s.dev with nsids := s.dev.nsids.filter fun n => !is n } }.answer 0 [])
    else match Config.drive port ns with
      | some (size, big) => s.require (Config.controller port && !has)
          ({ s with dev := { s.dev with nsids := (port, ns, size, if big then 4096 else 512) :: s.dev.nsids } }.answer 0 [])
      | none => s.answer 3 []))

end Sys2Proof.Machine
end

