-- ==== Sys2Proof/Machine/Ctrl.lean ====
section
/-! DEFINITION. Instructions of the CTRL slot other than those of phases and work: branches, calls, loops, traps and
returns, system registers and DICTSW (R46 to R48, R90 to R96, R205, R289). -/

namespace Sys2Proof.Machine

def execCnop (s : State) : Result := done s s

/-! ### Branches -/

/-- The PC at a signed offset from the bundle's first word (R90). -/
def State.relative (s : State) (off bitsN : Nat) : Nat := wrapInt ((s.fl.pc : Int) + signExt off bitsN) 32

/-- A taken branch: the next bundle's first word is an index word (R60, R90). -/
def State.goto (s : State) (pc : Nat) : State := { s with fl := { s.fl with target := some (pc, false) } }

/-- A taken branch that may leave loop bodies (R93). -/
def State.branch (s : State) (pc : Nat) : State :=
  let x := s.me
  (s.setMe { x with loops := popOut pc 9 x.loops }).goto pc

def execBr (off : BitVec 26) (s : State) : Result := done s (s.branch (s.relative off.toNat 26))

/-- The conditions of R69 on the signed value. -/
def condMet (cond : BitVec 3) (v : Nat) : Bool :=
  let i := signExt v 64
  match cond.toNat with
  | 0 => i == 0 | 1 => i != 0 | 2 => i < 0 | 3 => 0 ≤ i | 4 => 0 < i | 5 => i ≤ 0 | 6 => v % 2 == 1 | _ => v % 2 == 0

def execBrc (r : BitVec 6) (cond : BitVec 3) (off : BitVec 17) (s : State) : Result :=
  done s (if condMet cond (s.opS 0 r.toNat) then s.branch (s.relative off.toNat 17) else s)

def execBri (r : BitVec 6) (s : State) : Result := done s (s.branch (s.opS 0 r.toNat % 2 ^ 32))

/-- CALL: the link is the word after the bundle, with latency 1; a call inside a run is illegal (R90). -/
def execCall (a : BitVec 5) (off : BitVec 21) (s : State) : Result :=
  done s (if s.fl.seqRun then s.illegal 2 else (s.writeA a.toNat s.fl.seqPc 1).goto (s.relative off.toNat 21))

def execRet (a : BitVec 5) (s : State) : Result := done s (s.goto (s.opA 0 a.toNat % 2 ^ 32))

/-! ### Loops -/

/-- The levels that a loop start pushes (R92). -/
def State.levels (s : State) (iter endOff : Nat) (counts : List Nat) (down : Bool) : List LoopLevel :=
  (counts.zipIdx).map fun p =>
    { iter := iter + p.2, start := s.fl.seqPc, startLit := s.fl.seqRun, stop := (s.fl.pc + endOff) % 2 ^ 32, count := p.1
      down := down, done := 0, group := s.me.nextGroup }

/-- A loop start (R92, R93, R289, R291): a zero count skips the body after the walk over it; LOOPSTK where the bundle ends
an active level, the stack overflows or an iterator is in use; else the levels are pushed (DEDUCED, log entry 43). -/
def State.startLoop (s : State) (iter endOff : Nat) (counts : List Nat) (pops : Nat) (down : Bool) : State :=
  let x := s.me
  let ends := x.loops.any fun l => l.stop == s.fl.pc
  if counts.contains 0 then
    match s.walkBody endOff with
    | .error e => ((s.keep s.fl.ctx (s.walkFetched endOff)).freezeOnce s.myCore).slotFault e.code e.detail e.faddr e.line e.mig
    | .ok (none, got) => ((s.keep s.fl.ctx got).freezeOnce s.myCore).illegal 2
    | .ok (some (pc, run), got) =>
      if ends then s.slotFault causeLoopStk iter 0
      else
        let s := ((s.setMe { x with cq := x.cq.drop pops }).keep s.fl.ctx got).freezeOnce s.myCore
        { s with fl := { s.fl with target := some (pc, run) } }
  else if ends || 8 < x.loops.length + counts.length
      || x.loops.any (fun l => iter ≤ l.iter && l.iter < iter + counts.length) then
    s.slotFault causeLoopStk iter 0
  else s.setMe ({ x with cq := x.cq.drop pops }.pushLevels (s.levels iter endOff counts down))

/-- The count of LOOP and LREV, read afresh where the loop start is re-executed after a fault of its walk (R69, R92). -/
def State.loopCount (s : State) (imm : BitVec 1) (cnt : BitVec 10) : Nat :=
  if imm = 1 then cnt.toNat + 1 else (s.me.sreg (cnt.toNat % 64)).toNat % 2 ^ 32

def execLoop (i : BitVec 3) (imm : BitVec 1) (cnt : BitVec 10) (e : BitVec 12) (s : State) : Result :=
  done s (s.startLoop i.toNat e.toNat [s.loopCount imm cnt] 0 false)

def execLrev (i : BitVec 3) (imm : BitVec 1) (cnt : BitVec 10) (e : BitVec 12) (s : State) : Result :=
  done s (s.startLoop i.toNat e.toNat [s.loopCount imm cnt] 0 true)

/-- The first entries of the count queue; a missing entry counts 0 (R92, R289). -/
def popped (q : List Nat) (n : Nat) : List Nat := (List.range n).map fun i => q.getD i 0

def execLoopq (i : BitVec 3) (e : BitVec 12) (s : State) : Result :=
  done s (s.startLoop i.toNat e.toNat (popped s.me.cq 1) 1 false)

def execLnest (i n : BitVec 3) (e : BitVec 12) (s : State) : Result :=
  done s (s.startLoop i.toNat e.toNat (popped s.me.cq (n.toNat + 1)) (n.toNat + 1) false)

/-- LREPLAY: the record of the iterator, in the opposite direction (R92, R292). -/
def execLreplay (i : BitVec 3) (e : BitVec 12) (s : State) : Result :=
  let r := tabGet (0, false) s.me.lrec i.toNat
  done s (s.startLoop i.toNat e.toNat [r.1] 0 (!r.2))

/-! ### Traps and returns -/

def causeTrap : Nat := 0x1

/-- TRAP: its slot commits, and the bundle splits at slot 2 (R95, R205, R213). -/
def execTrap (code : BitVec 16) (s : State) : Result :=
  let f := s.fl
  done s (State.split (State.capture { s with fl := { f with slot := 2, rest := f.rest.drop 1 } }) f.ctx
    { code := causeTrap, detail := code.toNat, faddr := 0, smask := 2, sres := 2, epc := f.pc, lit := f.lit, capv := true
      phase := f.phase, gen := f.gen, bytes := [], line := 0, mig := false })

/-- RTE: the return follows the commit of its whole bundle, at once where no slot stands after it (R215). -/
def execRte (s : State) : Result :=
  let s' := { s with fl := { s.fl with after := .rte } }
  done s (if s.fl.rest.length ≤ 1 then s'.finish else s')

/-- EXIT: the instance ends after its bundle, once its routines, drains and landings have ended (R95). -/
def execExit (s : State) : Result := done s { s with fl := { s.fl with after := .exit } }

/-! ### System registers -/

/-- SYS.ID of a context (R47). -/
def sysId (c : Nat) : Nat :=
  c + c % 4 * 2 ^ 10 + coreOf c % 8 * 2 ^ 17 + clusterOf (coreOf c) * 2 ^ 20 + dieOf (coreOf c) * 2 ^ 25

/-- SYS.STATUS (R47). -/
def Ctx.status (x : Ctx) : Nat :=
  x.sres % 16 * 2 ^ 12 + (if x.lit then 2 ^ 11 else 0) + (if x.trapm then 2 ^ 10 else 0) + (if x.capv then 2 ^ 9 else 0)
    + if x.priv then 2 ^ 8 else 0

/-- The value of a system register; none for a number that R46 does not assign (DEDUCED, log entry 94). -/
def State.sysRead (s : State) (c n : Nat) : Option Nat :=
  let x := s.ctx c
  let k := s.core (coreOf c)
  match n with
  | 0x00 => some (sysId c)
  | 0x01 => some x.status
  | 0x02 => some x.fpsf
  | 0x03 => some x.fpte
  | 0x04 => some x.chksb
  | 0x05 => some x.tvec.toNat
  | 0x06 => some x.epc.toNat
  | 0x07 => some x.cause.toNat
  | 0x08 => some x.phase
  | 0x09 => some x.phgen.toNat
  | 0x0A => some x.waitto
  | 0x0B => some x.cbase
  | 0x0C => some x.dbase
  | 0x0D => some x.dictn
  | 0x0E => some x.tgrant
  | 0x0F => some (k.fcyc * 2 ^ 32 + k.fcnt)
  | 0x10 => some k.cyc
  | 0x11 => some x.tfb.toNat
  -- HNL reads as 0xFF (R274); the other rows read as stored (log entry 94)
  | 0x12 => some (x.cmpat.toNat ||| 0xFF)
  | _ => none

/-- Registers that SWR may name (R46). -/
def sysWritable (n : Nat) : Bool := [0x01, 0x02, 0x03, 0x04, 0x05, 0x06, 0x0A, 0x11, 0x12].contains n

/-- A context with a system register written (R46, R47, R95, R212). -/
def Ctx.sysWrite (x : Ctx) (n v : Nat) : Ctx :=
  match n with
  | 0x01 => { x with sres := bits v 12 4, lit := bitOf v 11, trapm := bitOf v 10, capv := bitOf v 9 }
  | 0x02 => { x with fpsf := bits v 0 6 }
  | 0x03 => { x with fpte := bits v 0 6 }
  | 0x04 => { x with chksb := bits v 0 2 }
  | 0x05 => { x with tvec := BitVec.ofNat 64 v }
  | 0x06 => { x with epc := BitVec.ofNat 64 v }
  | 0x0A => { x with waitto := bits v 0 32 }
  | 0x11 => { x with tfb := BitVec.ofNat 64 (v / 256 * 256) }
  | 0x12 => { x with cmpat := BitVec.ofNat 64 v }
  | _ => x

def execSrd (r : BitVec 6) (sysn : BitVec 8) (s : State) : Result :=
  done s (match s.sysRead s.fl.ctx sysn.toNat with
    | some v => s.writeS r.toNat v 2
    | none => s.illegal 2)

def causePrivReg : Nat := 0x26

/-- SWR: a PRIV register needs privilege; a read-only or absent one makes the bundle illegal (R46). -/
def execSwr (r : BitVec 6) (sysn : BitVec 8) (s : State) : Result :=
  let n := sysn.toNat
  done s (if !sysWritable n then s.illegal 2
    else if n = 0x12 ∧ !s.me.priv then s.slotFault causePrivReg n 0
    else s.setMe (s.me.sysWrite n (s.opS 0 r.toNat)))

def causeDictDesc : Nat := 0x2C

/-- DICTSW: alignment and translation at the read phase; the descriptor is read at commit, after every earlier store of the
context, and is checked; the code stream begins anew, and the entries of the context's space leave the dictionary cache (R61, R96)
(DEDUCED, log entries 37, 40). -/
def execDictsw (a : BitVec 5) (s : State) : Result :=
  let va := s.opA 0 a.toNat
  done s (match s.placeAligned 3 .read false 8 va 24 with
    | .error e => s.accessFault e
    | .ok (srcs, ts) => match s.commitRead s.fl.ctx va srcs ts with
      | (s, .error e) => s.accessFault e
      | (s, .ok bs) =>
        let w := leNat bs
        let cbase := bits w 0 64
        let dbase := bits w 64 64
        let dictn := bits w 128 16
        if cbase % 64 ≠ 0 ∨ dbase % 64 ≠ 0 ∨ 65534 < dictn ∨ bits w 144 48 ≠ 0 then s.slotFault causeDictDesc 0 0
        else
          let s := s.setMine { s.mine with dict := s.mine.dict.filter fun e => e.1 != s.me.node + 1 }
          let s := s.setMe { s.me with cbase := cbase, dbase := dbase, dictn := dictn, icWords := [] }
          s.goto 0)

end Sys2Proof.Machine
end

