-- ==== Sys2Proof/Machine/Fetch.lean ====
section
/-! DEFINITION. BUNDLE_FETCH: gathering a bundle, the checks before it issues, what makes it illegal, the checking scoreboard,
and its issue (R51 to R61, R64, R84 to R89, R108, R118, R122, R148, R154, R155, R206, R215, R217 to R219, R229, R231, R313,
R318). -/

namespace Sys2Proof.Machine

/-! ### The bundle's image -/

/-- A bundle gathered: none where its stream word names no bundle (R57). -/
structure Image where
  raw : Option RawBundle
  pc : Nat
  lit : Bool
  seqPc : Nat
  seqRun : Bool
  deriving DecidableEq, Repr

/-- Stream words from a PC on, with what fetching them read, up to the first that does not translate, and its fault (R59, R217). -/
def gatherWords (s : State) (c : Nat) : Nat → Nat → List Nat × Fetched × Option AFault
  | 0, _ => ([], Fetched.none, none)
  | n + 1, pc => match s.streamWord c pc with
    | .error e => ([], Fetched.none, some e)
    | .ok (w, f) =>
      let r := gatherWords s c n ((pc + 1) % 2 ^ 32)
      (w :: r.1, f.append r.2.1, r.2.2)

/-- The literal at a template's PC; what was fetched stays, also where a later word of it does not translate (R58, R61)
(DEDUCED, log entries 15, 40). -/
def State.gatherLiteral (s : State) (c pc : Nat) : State × Except AFault Image :=
  match gatherWords s c 1 pc with
  | (_, f, some e) => (s.keep c f, .error e)
  | (t, f, none) =>
    let w := t.headD 0
    let n := literalLength w
    match gatherWords s c n ((pc + 1) % 2 ^ 32) with
    | (_, g, some e) => (s.keep c (f.append g), .error e)
    | (ws, g, none) => (s.keep c (f.append g),
        .ok { raw := some (rawOfLiteral w ws), pc := pc, lit := true, seqPc := (pc + 1 + n) % 2 ^ 32, seqRun := !bitOf w 2 })

/-- An entry joins the dictionary cache of a core, which holds 2,048; which one a full cache gives up is open (R12, R61)
(DESIGN CHOICE, log entry 7). -/
def State.holdEntry (s : State) (core : Nat) (e : Nat × Nat × Nat) : State :=
  let k := s.core core
  let rest := k.dict.filter fun d => !(d.1 == e.1 && d.2.1 == e.2.1)
  if rest.length < 2048 then s.setCore core { k with dict := e :: rest }
  else ({ s with fresh := s.fresh + 1 }).setCore core { k with dict := e :: rest.filter fun d => some d ≠ pickOf s.fresh rest }

/-- The dictionary entry of an index. One that the core's dictionary cache holds gives its old or its new bundle (R12, R61)
(DEDUCED, log entry 40). -/
def State.gatherEntry (s : State) (c index : Nat) : State × Except AFault Nat :=
  let x := s.ctx c
  let core := coreOf c
  let va := x.dbase + 48 * index
  let get (s : State) (n : Nat) (f : Fetched) : State × Except AFault Nat :=
    ((s.keep c f).holdEntry core (x.node + 1, va, n), .ok n)
  match (s.core core).dict.find? fun e => e.1 == x.node + 1 && e.2.1 == va, s.code c va 48 with
  | none, .error e => (s, .error e)
  | none, .ok (n, f) => get s n f
  | some e, .ok (n, f) =>
    let t := { s with fresh := s.fresh + 1 }
    if n = e.2.2 then (s, .ok n) else if Config.freeBool s.fresh then get t n f else (t, .ok e.2.2)
  | some e, .error _ => (s, .ok e.2.2)

/-- The whole image of a context's next bundle (R57 to R60). -/
def State.gather (s : State) (c : Nat) : State × Except AFault Image :=
  let s := s.enterRun c
  let x := s.ctx c
  if x.inRun then s.gatherLiteral c x.pc
  else match s.streamWord c x.pc with
    | .error e => (s, .error e)
    | .ok (w, f) =>
      let s := s.keep c f
      let image (r : Option RawBundle) : Image := { raw := r, pc := x.pc, lit := false, seqPc := (x.pc + 1) % 2 ^ 32, seqRun := false }
      if x.dictn ≤ w then (s, .ok (image none))
      else match s.gatherEntry c w with
        | (s, .error e) => (s, .error e)
        | (s, .ok n) => (s, .ok (image (some (rawOfEntry (leBytes 48 n)))))

/-! ### Illegal bundles -/

abbrev Slots := List (Nat × Instr)

def maskOf (slots : List Nat) : Nat := (slots.eraseDups.map (2 ^ ·)).sum

/-- Slots that write a register which another slot writes (R51). -/
def sharedWrites (is : Slots) : List Nat :=
  (is.filter fun p => (defs p.2).any fun d => is.any fun q => q.1 != p.1 && (defs q.2).any fun e => e.1 == d.1).map (·.1)

/-- Read and write ports of a file (R44). -/
def portsOf : RegFile → Option (Nat × Nat)
  | .s => some (8, 4) | .a => some (6, 4) | .v => some (8, 4) | .m => some (4, 2) | .t => some (2, 1) | .sys => some (1, 1)
  | _ => none

/-- Slots that use a port of a file in a direction, the tile ports through the MEM slots only, each with its ports (R44). -/
def portUsers (f : RegFile) (write : Bool) (is : Slots) : List (Nat × Nat) :=
  is.filterMap fun p =>
    let n := if write then (defs p.2).countP fun d => d.1.file == f else (uses p.2).countP fun u => u.2.file == f
    if n = 0 ∨ (f = .t ∧ p.1 ≠ 4 ∧ p.1 ≠ 5) then none else some (p.1, n)

/-- Slots that use an exceeded port (R44, R51). -/
def portExcess (is : Slots) : List Nat :=
  [RegFile.s, .a, .v, .m, .t, .sys].flatMap fun f => match portsOf f with
    | none => []
    | some (r, w) =>
      let rd := portUsers f false is
      let wr := portUsers f true is
      (if r < (rd.map (·.2)).sum then rd.map (·.1) else []) ++ if w < (wr.map (·.2)).sum then wr.map (·.1) else []

/-- Tiles that an instruction names, with the companions that its encoding fixes (R64, R149). -/
def tilesOf (i : Instr) : List Nat :=
  (((uses i).map (·.2) ++ (defs i).map (·.1)).filter fun r => r.file == .t || r.file == .tctl).map (·.num)

/-- What makes one slot illegal beside its encoding: a number that R46 does not assign, or a read-only register written; a tile
that is not granted; the accumulator mode; a CALL inside a run; a body end inside the starting bundle (R46, R64, R80, R90,
R92, R144, R149). -/
def slotIllegal (x : Ctx) (im : Image) (is : Slots) (i : Instr) : Bool :=
  let ends (e : BitVec 12) : Bool := e.toNat < (im.seqPc + 2 ^ 32 - im.pc) % 2 ^ 32
  (tilesOf i).any (fun t => !bitOf x.tgrant t) || match i with
    | .srd _ n => !(n.toNat ≤ 0x12)
    | .swr _ n => !sysWritable n.toNat
    | .call _ _ => im.seqRun
    | .loop _ _ _ e | .lrev _ _ _ e | .lreplay _ e => ends e
    | .loopq _ e | .lnest _ _ e => ends e || is.any fun p => match p.2 with | .vhist .. => true | _ => false
    | .vhist .. => is.any fun p => match p.2 with | .loopq .. => true | .lnest .. => true | _ => false
    | .acz _ | .acrel _ => x.compat
    | .acbrd .. | .acbwr .. => !x.compat
    | _ => false

/-- The slots that decode, each with its number. -/
def decodedSlots (raw : RawBundle) : Slots :=
  (decodeSlots raw.words).zipIdx.filterMap fun d => match d.1 with
    | .ok i => some (d.2, i)
    | .bad _ => none

/-- The slots that do not decode (R51, R64). -/
def undecoded (raw : RawBundle) : List Nat :=
  match decodeBundle raw with
  | .bad slots => slots
  | .ok _ => []

/-- The slots of a bundle, or the mask with which it is illegal at decode: the bits of the slots that do not decode and of those that
break another rule (R51, R57, R58, R64, R218) (DEDUCED, log entry 71). -/
def decodeImage (x : Ctx) (im : Image) : Decoded Nat Slots :=
  match im.raw with
  | none => .bad 0
  | some raw =>
    let all := decodedSlots raw
    let bad := undecoded raw ++ sharedWrites all ++ portExcess all ++ (all.filter fun p => slotIllegal x im all p.2).map (·.1)
    if bad ≠ [] then .bad (maskOf bad) else if raw.padHeader then .bad 0 else .ok all

/-! ### The read phase of the whole bundle -/

/-- The state as a slot of the bundle in flight sees it. -/
def State.atSlot (s : State) (k : Nat) : State := { s with fl := { s.fl with slot := k } }

/-- Bytes of PM that a MEM slot accesses (R52). -/
def State.banksOf (s : State) (is : Slots) (k : Nat) : List Nat :=
  match is.find? fun p => p.1 == k with
  | none => []
  | some p => match (s.atSlot p.1).plan p.2 with
    | some (.ok (srcs, _)) => ownBanks s.myCore (placedKeys srcs)
    | _ => []

/-- Counts and end of the loop that slot 1 starts, if it starts one. -/
def State.loopForm (s : State) (is : Slots) : List Nat × Nat :=
  match is.find? fun p => p.1 == 1 with
  | none => ([], 0)
  | some p => match p.2 with
    | .loop _ imm cnt e | .lrev _ imm cnt e => ([(s.atSlot 1).loopCount imm cnt], e.toNat)
    | .loopq _ e => (popped s.me.cq 1, e.toNat)
    | .lnest _ n e => (popped s.me.cq (n.toNat + 1), e.toNat)
    | .lreplay i e => ([(tabGet (0, false) s.me.lrec i.toNat).1], e.toNat)
    | _ => ([], 0)

/-- A loop start of slot 1 whose walk finds no end (R92). -/
def State.walkMisses (s : State) (is : Slots) : Bool :=
  (s.loopForm is).1.contains 0 && match (s.atSlot 1).walkBody (s.loopForm is).2 with
    | .ok (none, _) => true
    | _ => false

/-- The mask of what the read phase finds illegal: a bank conflict, or a walk that finds no end (R51, R92)
(DEDUCED, log entry 71). -/
def State.readIllegal (s : State) (is : Slots) : Option Nat :=
  let b := s.banksOf is 5
  if (s.banksOf is 4).any b.contains then some 0x030 else if s.walkMisses is then some 2 else none

/-- The ranges that a slot translates at its read phase, each as it comes out, with SP and first address (R96, R106, R121, R228,
R319). -/
def State.spans (s : State) (p : Nat × Instr) : List (Nat × Nat × Placed) :=
  let s := s.atSlot p.1
  match p.2 with
  | .tail a => [(3, s.opA 0 a.toNat, s.placeAligned 3 .read false 64 (s.opA 0 a.toNat) 64)]
  | .dictsw a => [(3, s.opA 0 a.toNat, s.placeAligned 3 .read false 8 (s.opA 0 a.toNat) 24)]
  | .mapld _ a => [(3, s.opA 0 a.toNat, s.placeAligned 3 .read false 32 (s.opA 0 a.toNat) 2080)]
  | .cinv sp _ a nl | .cwb sp _ a nl =>
    [(sp.toNat, s.opA 0 a.toNat, s.placeParts sp.toNat .write 1 (formLines (s.opA 0 a.toNat) nl.toNat))]
  | .pref sp _ a nl =>
    (formLines (s.opA 0 a.toNat) nl.toNat).map fun l => (sp.toNat, l.1, s.placeMine sp.toNat .read false l.1 l.2)
  | .ldv sp ac v a arr nr ord pi addr =>
    let b := s.opA 0 a.toNat
    ((s.plan (.ldv sp ac v a arr nr ord pi addr)).map fun r =>
      (sp.toNat, effective ord.toNat pi.toNat b (ldvMoved b nr addr), r)).toList
  | i => ((s.plan i).map fun r => (0, 0, r)).toList

/-- A byte that a load finds absent took a walk, but in W space one of PM that reads so (R112, R226, R238). -/
def State.absentWalked (s : State) (sp ea : Nat) (srcs : List ByteSrc) : Bool :=
  (srcs.zipIdx).any fun p => p.1 == .absent
    && (sp != 1 || s.myView.map.any fun e => e.kind == 3 && e.wbase ≤ ea + p.2 && ea + p.2 < e.wbase + 128 * (e.len + 1))

/-- A cache of the translating core or of its cluster holds a translation (R330). -/
def State.holds (s : State) (t : Trans) : Bool :=
  s.tlb.any fun u => (u.holder == t.holder || u.holder == clusterHolder t.holder) && { u with holder := t.holder } == t

/-- Translating a range took a walk: a translation that no cache of the core holds, a leaf that is not resident, or a fault that a walk
ends in (R106, R330) (DEDUCED, log entry 17). -/
def State.spanWalks (s : State) (r : Nat × Nat × Placed) : Bool :=
  match r.2.2 with
  | .ok (srcs, ts) => ts.any (fun t => !s.holds t) || s.absentWalked r.1 r.2.1 srcs
  | .error e => e.code = causeProt || (e.code = causeXlate && e.line != 0)

/-- What the read phase of a bundle has to walk for, if anything: the translations that the walks find (R106, R330). -/
def State.missing (s : State) (is : Slots) : Option (List Trans) :=
  let rs := is.flatMap s.spans
  if s.me.walked || !rs.any s.spanWalks then none
  else some (rs.flatMap fun r => match r.2.2 with
    | .ok (_, ts) => ts
    | .error _ => [])

/-! ### The checking scoreboard -/

/-- Registers that a write on its way sets. -/
def RegWrite.regs : RegWrite → List Reg
  | .s n _ => [⟨.s, n⟩] | .a n _ => [⟨.a, n⟩] | .v n _ => [⟨.v, n⟩] | .m n _ => [⟨.m, n⟩] | .p n _ => [⟨.p, n⟩]
  | .tctl n _ => [⟨.tctl, n⟩] | .tile n _ => [⟨.t, n⟩]
  | _ => []

/-- Registers that an instruction reads: those of an MCALL's arguments among them, and the companion of a block tile that a transform
unit reads (R55, R114, R148, R149, R155). -/
def State.readsOf (s : State) (p : Nat × Instr) : List Reg :=
  match p.2 with
  | .mcall entry =>
    let s := s.atSlot p.1
    let kinds := (s.mine.committedKinds entry.toNat).getD 0
    (List.range 8).flatMap fun j => match kindOf kinds j with
      | 0 => []
      | 1 => let t := (s.opP j).toNat % 16
             [⟨.p, j⟩, ⟨.t, t⟩, ⟨.tctl, t⟩]
      | _ => [⟨.p, j⟩]
  | .xcvt _ ta _ | .xreblk _ ta _ =>
    (uses p.2).map (·.2) ++ if isBlockFmt (tcFmt (s.mine.tctlOf ta.toNat)) then [⟨.t, ta.toNat + 1⟩] else []
  | i => (uses i).map (·.2)

/-- Registers of an instruction in the order of its fields in the encoding (R219) (DEDUCED, log entry 74). -/
def State.fieldRegs (s : State) (p : Nat × Instr) : List Reg :=
  let ds := (defs p.2).map (·.1)
  let us := s.readsOf p
  match p.2 with
  | .amov _ dir _ => if dir = 0 then ds ++ us else us ++ ds
  | .swr .. => us ++ ds
  | .vefq .. => ds.take 1 ++ us ++ ds.drop 1
  | .ldt .. => ds.take 1 ++ us.drop 1 ++ us.take 1 ++ ds.drop 1
  | .st .. | .stt .. | .stt2 .. | .red .. => us.drop 1 ++ us.take 1 ++ ds
  | .stv .. => us.drop 1 ++ us.take 1 ++ ds
  | .stvs .. => us.drop 2 ++ us.take 2 ++ ds
  | .stvg .. => (us.drop 1).take 1 ++ us.take 1 ++ us.drop 2 ++ ds
  | .ldv .. => ds.take 1 ++ us ++ ds.drop 1
  | .amo .. => ds ++ us.drop 1 ++ us.take 1
  | _ => ds ++ us

/-- The register with which a slot trips the scoreboard (R55, R215, R219). -/
def State.trips (s : State) (p : Nat × Instr) : Option Reg :=
  let x := s.me
  let timed := bitOf x.chksb 1
  let late (r : Reg) : Bool := x.pend.any fun d => d.w.regs.contains r && s.fl.t < d.due
    && (d.kind = .fixed || d.kind = .xfm || timed)
  let reads := (s.readsOf p).filter fun r => s.fl.cap.isNone || r.file == .t || r.file == .sys
  (s.fieldRegs p).find? fun r => (reads.contains r && late r)
    || (defs p.2).any fun d => d.1 == r && x.pend.any fun e => e.w.regs.contains r && s.fl.t + d.2 ≤ e.due

/-- Number of a file in DETAIL of SCOREBD (R209). -/
def fileCode : RegFile → Nat
  | .s => 0 | .a => 1 | .v => 2 | .m => 3 | .t => 4 | .tctl => 4 | _ => 5

def causeScoreBd : Nat := 0x3

/-- The scoreboard trap of a bundle, if a slot trips: every slot that does, and the register of the lowest (R55, R219)
(DEDUCED, log entry 74). -/
def State.scoreboard (s : State) (is : Slots) : Option Cause :=
  if !bitOf s.me.chksb 0 then none
  else
    let ts := is.filterMap fun p => (s.trips p).map fun r => (p.1, r)
    match ts with
    | [] => none
    | (_, r) :: _ =>
      some { code := causeScoreBd, detail := fileCode r.file * 2 ^ 9 + r.num % 2 ^ 9, faddr := 0, smask := maskOf (ts.map (·.1)) }

/-! ### Checks before issue -/

/-- What a check of a context's next bundle comes to: it issues (or takes a fault), the context gives way, or the core waits
(R108, R318). -/
inductive Check
  | go | block | hold
  deriving DecidableEq, Repr

/-- What a release of the context waits for has performed: its accesses, the reductions that it contributed to, and the write-backs of
maps that it left (R233, R261, R262). -/
def State.released (s : State) (c : Nat) : Bool :=
  (s.ctx c).port = [] && !((s.ctx c).wbacks.any (·.advanced.isSome)) && !(s.red.any (·.ctxs.contains c))

/-- Every context counted at a barrier passes it (R89). -/
def Ctx.pass (bid : Nat) (x : Ctx) : Ctx :=
  { x with passed := (x.arrived.filter fun a => a.1 == bid) ++ x.passed.filter fun a => a.1 != bid }

/-- A CBAR's arrival, counted once and released; the last one completes the barrier (R89) (DEDUCED, log entry 23). -/
def State.arriveAt (s : State) (c bid : Nat) : State :=
  let cl := clusterOf (coreOf c)
  let b := s.barrier cl bid
  let here := (bid, (s.ctx c).trapm)
  if b.parts = 0 ∨ (s.ctx c).arrived.contains here then s
  else
    let s := (s.performAll c).drainOf c
    if !s.released c then s
    else
      let s := s.setCtx c { s.ctx c with arrived := here :: (s.ctx c).arrived }
      let y := s.cluster cl
      let put (b : Barrier) : State := s.setCluster cl { y with bars := tabPut y.bars bid b }
      if b.parts ≤ b.count + 1 then
        (c :: b.waiting).foldl (fun s d => s.setCtx d ((s.ctx d).pass bid)) (put { b with count := 0, waiting := [] })
      else put { b with count := b.count + 1, waiting := b.waiting ++ [c] }

/-- A wait of slot 0 that keeps its bundle from issuing, with the DETAIL of its timeout (R85, R86, R89, R209). -/
def State.waits (s : State) (c : Nat) (is : Slots) : Option Nat × Bool :=
  match is with
  | (0, .wait f cnt) :: _ => (some f.toNat, (s.core (coreOf c)).flagOf f.toNat < cnt.toNat)
  | (0, .cbar bid) :: _ =>
    (some (256 + bid.toNat), (s.barrier (clusterOf (coreOf c)) bid.toNat).parts != 0
      && !(s.ctx c).passed.contains (bid.toNat, (s.ctx c).trapm))
  | _ => (none, false)

/-- Landing-buffer entries in use on a core (R108). -/
def State.landingsUsed (s : State) (core : Nat) : Nat :=
  ((List.range 4).map fun j => (s.ctx (4 * core + j)).pend.countP fun p => p.kind = .load).sum

/-- Everything that a DRAIN waits for has performed (R118, R233). -/
def State.drainOver (s : State) (c : Nat) : Bool :=
  let x := s.ctx c
  x.port = [] && x.wbacks = [] && !(s.red.any (·.ctxs.contains c)) && x.pend.all fun p => p.kind = .fixed || p.kind = .xfm

/-- The slots before slot 11 that store to memory, committed: the operand block as slot 11 will read it (R122)
(DEDUCED, log entry 73). -/
def State.foresee (s : State) (is : Slots) : State :=
  is.foldl (fun s p =>
    let s := s.atSlot p.1
    let r : Result := match p.2 with
      | .st sp ac sr a ord pi addr => execSt sp ac sr a ord pi addr s
      | .stv sp ac v a ord pi addr => execStv sp ac v a ord pi addr s
      | .stvs sp ac v a sr esz => execStvs sp ac v a sr esz s
      | .stvg sp ac v a x esz => execStvg sp ac v a x esz s
      | .stt sp ac t a pi off => execStt sp ac t a pi off s
      | .stt2 sp ac t a pi off => execStt2 sp ac t a pi off s
      | .amo sp ac d sr a scope aop w64 acq rel => execAmo sp ac d sr a scope aop w64 acq rel s
      | .red sp ac sr a scope aop w64 rel ord => execRed sp ac sr a scope aop w64 rel ord s
      | _ => .next s
    match r with
    | .next t => if t.fl.live then t else s
    | _ => s) s

/-- ENG opcode and base register of an engine instruction. -/
def engForm : Instr → Option (Nat × BitVec 5)
  | .cpy a _ => some (1, a) | .mcast a _ => some (2, a) | .bte a _ => some (3, a) | .tld a _ => some (4, a)
  | .tst a _ => some (5, a) | .cmpx a _ => some (6, a) | .cmpw a _ => some (7, a) | .tgath a _ => some (8, a)
  | .tscat a _ => some (9, a) | .qfence a _ => some (10, a) | .qpush a _ => some (11, a) | .lkbegin a _ => some (12, a)
  | .lkreq a _ => some (13, a) | .lkupg a _ => some (14, a) | .lkrel a _ => some (15, a) | .lkrelall a _ => some (16, a)
  | .coll a _ => some (17, a) | .nettx a _ => some (18, a) | .netrxp a _ => some (19, a) | .stgrd a _ => some (20, a)
  | .vdec a _ => some (21, a) | .pgreq a _ => some (22, a)
  | _ => none

/-- The queues that an engine command will enter have room (R122) (DEDUCED, log entry 73). Of a CPY whose block cannot be read, not lying
aligned in own PM, queue 0 is tested (DEDUCED, log entry 100). -/
def State.engineRoom (s : State) (is : Slots) : Bool :=
  match is.findSome? fun p => if p.1 = 11 then engForm p.2 else none with
  | none => true
  | some (op, a) =>
    let s := if op = 1 ∨ op = 10 then s.foresee (is.filter fun p => p.1 < 11) else s
    let w := ((s.atSlot 11).blockAt op ((s.atSlot 11).opA 0 a.toNat)).getD []
    (queuesOf op w).all s.mine.queueRoom

/-- Room in the matrix queue, and free slots for handles not yet mapped (R154, R155, R167). -/
def State.matrixRoom (s : State) (p : Nat × Instr) : Bool :=
  let free (hs : List Nat) : Bool := s.me.compat || (s.me.unmapped hs).length ≤ s.mine.free.length
  match p.2 with
  | .mcall entry =>
    let ps := (List.range 8).map (s.atSlot p.1).opP
    !s.mine.matrixFull && free (outHandles ((s.mine.committedKinds entry.toNat).getD 0) ps).eraseDups
  | .acz h => !s.mine.matrixFull && free [h.toNat]
  | .acrel _ | .acwb .. | .acadj .. | .mpsld _ => !s.mine.matrixFull
  | _ => true

/-- The transform unit of an instruction (R148). -/
def xfmUnit : Instr → Option Nat
  | .xexp .. => some 0 | .xcvt .. => some 1 | .xtrn .. => some 2 | .xreblk .. => some 2
  | _ => none

/-- Work on accumulators that merges flags: a routine or a drain (R33). -/
def MatrixOp.merges : MatrixOp → Bool
  | .call .. => true
  | .drain .. => true
  | _ => false

/-- Whether a slot gives the core's engines and units what they need to take it (R33, R148, R154, R229, R232). -/
def State.slotReady (s : State) (p : Nat × Instr) : Bool :=
  s.matrixRoom p
    && (match xfmUnit p.2 with
      | some u => tabGet 0 s.mine.xfmNext u ≤ s.fl.t
      | none => true)
    && match p.2 with
      | .srd _ n => n != 0x02 || (s.mine.mq.all (fun e => e.ctx != s.fl.ctx || !e.op.merges) && (s.mine.routine.map (·.ctx)) != some s.fl.ctx
          && (s.mine.drainRun.map (·.ctx)) != some s.fl.ctx)
      | .phprep _ | .phset _ => !s.me.preparing
      | _ => true

/-! ### Renewing a hold of banks -/

/-- Who waits at a bank of PM: an access of a context's port, the command at the head of an engine queue with the granule at which it
waits, an LKBEGIN of queue 13 with its result, a preparation, and a matrix drain. -/
inductive Waiter
  | access (ctx id : Nat)
  | engine (core queue granule : Nat)
  | lock (core idx : Nat)
  | prep (ctx : Nat)
  | drain (core granule : Nat)
  deriving DecidableEq, Repr

/-- A key lies in a bank of a core's PM. -/
def inBank (core bank k : Nat) : Bool := pmCoreOf k == some core && k / 8 / 32 % 32 == bank

/-- Keys of the granule at which a preparation waits (R88, R230). -/
def State.prepWaits (s : State) (c : Nat) : List Nat :=
  let cl := clusterOf (coreOf c)
  match (s.ctx c).working with
  | none => []
  | some (_, p) =>
    if p.halt.isSome ∨ p.moved ∨ !p.whole ∨ (s.core (coreOf c)).el < p.due then []
    else match p.step cl with
      | none => []
      | some (snap, e, _, g) => p.stepKeys cl snap e g

/-- The granule of a bank at which a running drain's writes wait (R88, R170). -/
def Core.drainWaits (k : Core) (core bank : Nat) : Option Nat :=
  (k.drainRun.bind fun d => (d.cells.map (·.1)).find? (inBank core bank)).map granuleOf

/-- Those who wait at a bank that a core holds, each with a number by which it came: that of its access, that of its command's
enqueuing, and for a preparation, which draws none, one after those (R88) (DEDUCED, log entry 38). -/
def State.bankWaiters (s : State) (core bank : Nat) : List (Nat × Waiter) :=
  (s.ctxs.flatMap fun (p : Nat × Ctx) =>
      if coreOf p.1 = core then []
      else (p.2.port.zipIdx).filterMap fun q =>
        if canPerform p.2.port q.2 && (opKeys q.1.op).any (inBank core bank) then some (q.1.id, .access p.1 q.1.id) else none)
    ++ (s.cores.flatMap fun (k : Nat × Core) => k.2.queues.flatMap fun (q : Nat × Queue) => match s.cmdWaits k.1 q.1 with
      | some key => if inBank core bank key then (q.2.cmds.take 1).map fun d => (d.mark, .engine k.1 q.1 (granuleOf key)) else []
      | none => [])
    ++ ((s.queue core 13).cmds.zipIdx.filterMap fun q =>
      if ((s.lockReady core q.2).filter (·.op == 12)).any fun c => (resKeys core c).any (inBank core bank) then some (q.1.mark, .lock core q.2)
      else none)
    ++ (s.cores.filterMap fun (k : Nat × Core) =>
      if k.1 = core then none else (k.2.drainWaits core bank).map fun g => (((k.2.mq.head?).map (·.mark)).getD s.portId, .drain k.1 g))
    ++ s.ctxs.filterMap fun (p : Nat × Ctx) => if (s.prepWaits p.1).any (inBank core bank) then some (s.portId, .prep p.1) else none

/-- The first of those who wait. -/
def oldest (ws : List (Nat × Waiter)) : Option Waiter :=
  (ws.foldl (fun (m : Option (Nat × Waiter)) w => match m with
    | none => some w
    | some v => if w.1 < v.1 then some w else some v) none).map (·.2)

/-- Granules are let through for the engines of a core. -/
def State.letThrough (s : State) (core : Nat) (gs : List Nat) : State :=
  let k := s.core core
  s.setCore core { k with through := (gs ++ k.through).eraseDups }

/-- A granule of a drain's waiting writes is written. -/
def State.serveDrain (s : State) (core g : Nat) : State :=
  let k := s.core core
  match k.drainRun with
  | none => s
  | some d => (s.setCore core { k with drainRun := some { d with cells := d.cells.filter fun c => granuleOf c.1 != g } }).drainStore
      (d.cells.filter fun c => granuleOf c.1 == g)

/-- An engine that has waited is served: the granule at which it waits is let through, and no other of its command (R88, R237). -/
def State.serveEngine (s : State) : Waiter → State
  | .engine core q g => ((s.letThrough core [g]).beginNext core q).finishHead core q
  | .lock core idx => match s.lockReady core idx with
    | some c => (s.letThrough core ((resKeys core c).map granuleOf).eraseDups).acceptLock core idx
    | none => s
  | _ => s

/-- Another one who has waited is served, where nothing holds it: an access, one granule of a preparation, one of a drain's writes. -/
def State.serve (s : State) : Waiter → State
  | .access c id => s.performThrough c id
  | .prep c => match (s.ctx c).working with
    | some (_, p) => if p.stage = 0 then s.beginPrep c else s.endPrep c
    | none => s
  | .drain core g => s.serveDrain core g
  | _ => s

/-- A BANKLK that renews a hold: at each bank that both name the oldest who waits is served, engines granule by granule and the others with
the hold lifted; with whether anyone was, so that the bundle waits (R88, R237) (DEDUCED, log entry 38). -/
def State.renewBanks (s : State) (c : Nat) (is : Slots) : State × Bool :=
  match (s.ctx c).bank, is with
  | some (b, n, _), (0, .banklk _ bank0 nb) :: _ =>
    let both := (List.range 32).filter fun k => (k + 32 - b) % 32 < n && (k + 32 - bank0.toNat) % 32 < nb.toNat + 1
    let ws := (both.filterMap fun k => oldest (s.bankWaiters (coreOf c) k)).eraseDups
    let s := ws.foldl State.serveEngine s
    (ws.foldl State.serve (s.setCtx c { s.ctx c with bank := none }), ws ≠ [])
  | _, _ => (s, false)

/-- A bundle that cannot issue: its context's BANKLK ends, and the timeout of its wait counts from now (R86, R88)
(DEDUCED, log entry 23). -/
def State.blocked (s : State) (c : Nat) (wait : Option Nat) : State :=
  let x := s.ctx c
  s.setCtx c { x with bank := none, waitFrom := match wait with
    | none => x.waitFrom
    | some d => match x.waitFrom with
      | none => some ((s.core (coreOf c)).el, x.waitto, d)
      | some w => some w }

/-! ### Issue -/

/-- The flight of a gathered bundle: the slots that a resumed bundle has still to commit, its capture, and, where it resumes inside
the bundle, the map of the frame (R215) (DESIGN CHOICE, log entry 5; DEDUCED, log entry 72). -/
def Image.flight (im : Image) (x : Ctx) (c cyc nw : Nat) (mem : Tab Byte) (is : Slots) : Flight :=
  let f := x.resume
  let sres := (f.map (·.sres)).getD 0
  let inside := f.filter fun g => 0 < g.sres && g.sres < 12
  { live := true, ctx := c, pc := im.pc, lit := im.lit, seqPc := im.seqPc, seqRun := im.seqRun
    stall := (im.raw.map (·.stall)).getD 0, t := cyc, slot := 0, rest := is.filter fun p => sres ≤ p.1, mem := mem, nw := nw
    map := (inside.map (·.map)).getD x.phase, phase := (inside.map (·.map)).getD x.phase, gen := (inside.map (·.gen)).getD x.phgen
    cap := (inside.filter (·.capv)).map (·.bytes), target := f.bind (·.target), after := (f.map (·.after)).getD .none }

/-- No-ops do not need a step of their own. -/
def isNop : Instr → Bool
  | .snop | .cnop | .scnop | .lnop | .vnop | .xnop | .slnop | .mnop | .enop => true
  | _ => false

/-- The bundle issues (R48, R53, R91, R318, R325): its iteration's echoes take their registers, what waited for it ends, no bundle of
the core issues in the cycles of its STALL, and its slots stand in flight (DESIGN CHOICE, log entry 5). -/
def State.issue (s : State) (c : Nat) : State :=
  let s := s.echoes c
  let x := s.ctx c
  let core := coreOf c
  let from' := s.fl.t + 1 + s.fl.stall
  let s := s.setCtx c { x with seq := x.seq + 1, waitFrom := none, drain := none, nextFrom := none, resume := none, walked := false
                               nextAt := from' }
  let s := s.setCore core { s.core core with cur := c % 4, switched := false, oven := 0, gate := 0, hang := false, nextAt := from' }
  let rest := match s.fl.rest.filter fun p => !isNop p.2 with
    | [] => [(0, .snop)]
    | l => l
  { s with fl := { s.fl with rest := rest, mem := s.readMem } }

/-- A fault that stops the gathered bundle before a slot commits. A fetch fault keeps what a resumed bundle has committed
(R205, R217 to R219) (DEDUCED, log entries 16, 48). -/
def State.refuse (s : State) (c : Nat) (pc : Nat) (lit : Bool) (code detail faddr smask line : Nat) (mig : Bool) : State :=
  let x := s.ctx c
  let p : Split := { code := code, detail := detail, faddr := faddr, smask := smask, sres := 0, epc := pc, lit := lit, capv := false
                     phase := x.phase, gen := x.phgen, bytes := [], line := line, mig := mig }
  let p := match x.resume with
    | some f => if code = causeFetch then { p with sres := f.sres, capv := f.capv, phase := f.map, gen := f.gen, bytes := f.bytes
                                                   target := f.target, after := f.after } else p
    | none => p
  (s.setCtx c { x with resume := none, walked := false }).takeFault c p

/-- A slot 1 that reads memory at its commit: its bundle waits until the accesses of earlier bundles have performed, since it must see every
store among them while the bundle's own loads see no later one (R50, R96, R228, R319) (DEDUCED, log entry 37). -/
def readsAtCommit (is : Slots) : Bool :=
  is.any fun p => match p.2 with
    | .mapld .. => true
    | .tail _ => true
    | .dictsw _ => true
    | _ => false

/-- The accesses that slot 1 is to see perform; with whether some are left. -/
def State.clearPort (s : State) (c : Nat) (is : Slots) : State × Bool :=
  if readsAtCommit is then let s := s.performAll c; (s, !(s.ctx c).port.all isMark) else (s, false)

/-- The DETAIL of the timeout of a WAIT or a CBAR in the next bundle of a context that a DRAIN or the image of a MAPLD holds: the
wait counts from its first blocked cycle (R86) (DEDUCED, log entry 23). -/
def State.heldWait (s : State) (c : Nat) : Option Nat :=
  match (s.gather c).2 with
  | .error _ => none
  | .ok im => match decodeImage (s.ctx c) im with
    | .bad _ => none
    | .ok is => (s.waits c (is.filter fun p => (((s.ctx c).resume.map (·.sres)).getD 0) ≤ p.1)).1

/-- BUNDLE_FETCH of a context whose core may issue: what becomes of its next bundle, and the state after (R51 to R61). A trap entry or
a return holds the core until the writes on their way have retired, and a split whose capture waits for loads keeps its context from going
on (R208, R214) (DEDUCED, log entries 17, 39, 71). -/
def State.tryIssue (s : State) (c : Nat) : State × Check :=
  let core := coreOf c
  let s := if (s.ctx c).drain.isSome then s.drainOf c else s
  if (s.ctx c).mode ≠ .running then (s, .block)
  else if (s.ctx c).trapping.isSome then
    let s := s.finishSplit c
    (s, if (s.ctx c).trapping.isSome then .block else .go)
  else if (s.ctx c).settling && (s.ctx c).pend != [] then (s, .hold)
  else if ((s.ctx c).drain.isSome && !s.drainOver c) || (s.core core).cyc < (s.ctx c).imageAt then (s.blocked c (s.heldWait c), .block)
  else match (s.setCtx c { s.ctx c with settling := false }).gather c with
    | (s, .error e) => (s.refuse c (s.ctx c).pc (s.ctx c).inRun e.code e.detail e.faddr 0 e.line e.mig, .go)
    | (s, .ok im) => match decodeImage (s.ctx c) im with
      | .bad mask => (s.refuse c im.pc im.lit 0x20 0 0 mask 0 false, .go)
      | .ok is =>
        let k := s.core core
        let s := { s with fl := im.flight (s.ctx c) c k.cyc k.nw s.readMem is }
        let is := s.fl.rest
        let s := match is with
          | (0, .cbar bid) :: _ => s.arriveAt c bid.toNat
          | _ => s
        let cleared := s.clearPort c is
        let s := cleared.1
        let wait := s.waits c is
        let stop (s : State) (r : Check) : State × Check := (s.endFlight.blocked c wait.1, r)
        -- the registers that the read phase finds
        let seen := s.echoes c
        if wait.2 || cleared.2 then stop s .block
        else if 64 < s.landingsUsed core + (is.map fun p => landingEntries p.2).sum then stop s .hold
        else if !(is.all seen.slotReady) || !seen.engineRoom is then stop s .block
        else
          let adv := is.findSome? fun p => match p.2 with
            | .phadv k => if s.me.prepared (targetMap s.me k.toNat) then none else some (targetMap s.me k.toNat)
            | _ => none
          match adv with
          | some map =>
            let s' := s.phadvHold map
            if (s'.ctx c).mode = .running then (s'.blocked c wait.1, .block) else (s', .go)
          | none => match s.renewBanks c is with
            | (s, true) => stop s .block
            | (s, false) => match seen.missing is with
              | some ts =>
                let s := (s.fills ts).endFlight
                ({ (s.setCtx c { s.ctx c with walked := true }) with agenda := .event (.tableWalkComplete core) :: s.agenda }, .hold)
              | none => match seen.readIllegal is with
                | some mask =>
                  let s := if seen.walkMisses is then (s.keep c ((seen.atSlot 1).walkFetched (seen.loopForm is).2)).freezeOnce core else s
                  (s.endFlight.refuse c im.pc im.lit 0x20 0 0 mask 0 false, .go)
                | none => match seen.scoreboard is with
                  | some e => (s.endFlight.refuse c im.pc im.lit e.code e.detail 0 e.smask 0 false, .go)
                  | none =>
                    if is.any fun p => match p.2 with | .next _ => true | _ => false then
                      match s.nextCheck c with
                      | (s, true) => (s.issue c, .go)
                      | (s, false) => stop s .block
                    else (s.issue c, .go)

/-- BUNDLE_FETCH (R59). -/
def execBundleFetch (ctx : Nat) (s : State) : Result := done s (s.tryIssue ctx).1

end Sys2Proof.Machine
end

