-- ==== Sys2Proof/Machine/Sca.lean ====
section
/-! DEFINITION. Instructions of the SCA slots (R97 to R103, R70). Operands are read at the read phase, results retire with
the latency of R97 to R103. -/

namespace Sys2Proof.Machine

/-- A two-operand scalar instruction: `d := f a b`, with a latency (R97). -/
def scalar2 (f : Nat → Nat → Nat) (lat : Nat) (d a b : BitVec 6) (s : State) : Result :=
  done s (s.writeS d.toNat (f (s.opS 0 a.toNat) (s.opS 8 b.toNat)) lat)

/-- A one-operand scalar instruction of latency 1 (R97, R98). -/
def scalar1 (f : Nat → Nat) (d a : BitVec 6) (s : State) : Result :=
  done s (s.writeS d.toNat (f (s.opS 0 a.toNat)) 1)

/-- A 64-bit value read as two's complement. -/
def int64 (x : Nat) : Int := signExt x 64
/-- An integer wrapped to 64 bits (R62). -/
def wrap64 (i : Int) : Nat := wrapInt i 64

/-- Signed quotient toward zero (R97). -/
def divQ (a b : Nat) : Nat := if b % 2 ^ 64 = 0 then 2 ^ 64 - 1 else wrap64 ((int64 a).tdiv (int64 b))
/-- Signed remainder with the sign of the dividend (R97). -/
def remQ (a b : Nat) : Nat := if b % 2 ^ 64 = 0 then a else wrap64 ((int64 a).tmod (int64 b))
/-- High half of the signed product (R97). -/
def mulHigh (a b : Nat) : Nat := wrap64 (int64 a * int64 b / 2 ^ 64)
/-- Shifts by a count of 0 to 63 (R97). -/
def shl64 (a n : Nat) : Nat := a * 2 ^ (n % 64) % 2 ^ 64
def shr64 (a n : Nat) : Nat := a / 2 ^ (n % 64)
def sra64 (a n : Nat) : Nat := wrap64 (int64 a / 2 ^ (n % 64))
def boolNat (b : Bool) : Nat := if b then 1 else 0

def execAdd (d a b : BitVec 6) (s : State) : Result := scalar2 (· + ·) 1 d a b s
def execSub (d a b : BitVec 6) (s : State) : Result := scalar2 (fun x y => wrap64 (x - y)) 1 d a b s
def execAddi (d a : BitVec 6) (imm : BitVec 14) (s : State) : Result :=
  scalar1 (fun x => wrap64 (x + imm.toInt)) d a s
def execMul (d a b : BitVec 6) (s : State) : Result := scalar2 (· * ·) 3 d a b s
def execMulh (d a b : BitVec 6) (s : State) : Result := scalar2 mulHigh 3 d a b s
def execDivq (d a b : BitVec 6) (s : State) : Result := scalar2 divQ 18 d a b s
def execRemq (d a b : BitVec 6) (s : State) : Result := scalar2 remQ 18 d a b s
def execAnd (d a b : BitVec 6) (s : State) : Result := scalar2 (· &&& ·) 1 d a b s
def execOr (d a b : BitVec 6) (s : State) : Result := scalar2 (· ||| ·) 1 d a b s
def execXor (d a b : BitVec 6) (s : State) : Result := scalar2 (· ^^^ ·) 1 d a b s
def execAndi (d a : BitVec 6) (imm : BitVec 14) (s : State) : Result := scalar1 (· &&& imm.toNat) d a s
def execOri (d a : BitVec 6) (imm : BitVec 14) (s : State) : Result := scalar1 (· ||| imm.toNat) d a s
def execXori (d a : BitVec 6) (imm : BitVec 14) (s : State) : Result := scalar1 (· ^^^ imm.toNat) d a s
def execShl (d a b : BitVec 6) (s : State) : Result := scalar2 shl64 1 d a b s
def execShr (d a b : BitVec 6) (s : State) : Result := scalar2 shr64 1 d a b s
def execSra (d a b : BitVec 6) (s : State) : Result := scalar2 sra64 1 d a b s
def execShli (d a sh : BitVec 6) (s : State) : Result := scalar1 (shl64 · sh.toNat) d a s
def execShri (d a sh : BitVec 6) (s : State) : Result := scalar1 (shr64 · sh.toNat) d a s
def execSrai (d a sh : BitVec 6) (s : State) : Result := scalar1 (sra64 · sh.toNat) d a s
def execMin (d a b : BitVec 6) (s : State) : Result := scalar2 (fun x y => if int64 y < int64 x then y else x) 1 d a b s
def execMax (d a b : BitVec 6) (s : State) : Result := scalar2 (fun x y => if int64 x < int64 y then y else x) 1 d a b s
def execMinn (d a b : BitVec 6) (s : State) : Result := scalar2 min 1 d a b s
def execMaxn (d a b : BitVec 6) (s : State) : Result := scalar2 max 1 d a b s
def execCmpeq (d a b : BitVec 6) (s : State) : Result := scalar2 (fun x y => boolNat (x == y)) 1 d a b s
def execCmplt (d a b : BitVec 6) (s : State) : Result := scalar2 (fun x y => boolNat (int64 x < int64 y)) 1 d a b s
def execCmpltn (d a b : BitVec 6) (s : State) : Result := scalar2 (fun x y => boolNat (x < y)) 1 d a b s
/-- SEL reads three scalar ports (R97). -/
def execSel (d a b c : BitVec 6) (s : State) : Result :=
  done s (s.writeS d.toNat (if s.opS 0 a.toNat ≠ 0 then s.opS 8 b.toNat else s.opS 16 c.toNat) 1)

/-- MOVI (R98). -/
def execMovi (d : BitVec 6) (imm : BitVec 20) (s : State) : Result := done s (s.writeS d.toNat (wrap64 imm.toInt) 1)
/-- `x` with the bits from `lo` on replaced by the `n` bits of `v` (R98). -/
def insertBits (x lo n v : Nat) : Nat := x / 2 ^ (lo + n) * 2 ^ (lo + n) + v % 2 ^ n * 2 ^ lo + x % 2 ^ lo
/-- MOVHI keeps the other bits of D, so D is read (R98). -/
def execMovhi (d : BitVec 6) (q : BitVec 2) (imm : BitVec 16) (s : State) : Result :=
  done s (s.writeS d.toNat (insertBits (s.opS 24 d.toNat) (16 * q.toNat) 16 imm.toNat) 1)
def clz64 (x : Nat) : Nat := if x % 2 ^ 64 = 0 then 64 else 63 - (x % 2 ^ 64).log2
def popCount (n x : Nat) : Nat := ((List.range n).map fun i => x / 2 ^ i % 2).sum
def execClz (d a : BitVec 6) (s : State) : Result := scalar1 clz64 d a s
def execPopc (d a : BitVec 6) (s : State) : Result := scalar1 (popCount 64) d a s
/-- BFX: LEN + 1 bits from POS, zero- or sign-extended (R98). -/
def execBfx (d a pos len : BitVec 6) (sgn : BitVec 1) (s : State) : Result :=
  scalar1 (fun x =>
    let v := bits x pos.toNat (len.toNat + 1)
    if sgn = 1 then wrap64 (signExt v (len.toNat + 1)) else v) d a s
/-- BFI keeps the other bits of D, so D is read (R98). -/
def execBfi (d a pos len : BitVec 6) (s : State) : Result :=
  done s (s.writeS d.toNat (insertBits (s.opS 24 d.toNat) pos.toNat (len.toNat + 1) (s.opS 0 a.toNat)) 1)

/-- AADD (R99). -/
def execAadd (ad aa : BitVec 5) (r : BitVec 6) (s : State) : Result :=
  done s (s.writeA ad.toNat (s.opA 0 aa.toNat + s.opS 8 r.toNat) 1)
/-- AMOV: DIR 0 writes A from S, DIR 1 S from A (R70, R99). -/
def execAmov (a : BitVec 5) (dir : BitVec 1) (r : BitVec 6) (s : State) : Result :=
  done s (if dir = 0 then s.writeA a.toNat (s.opS 8 r.toNat) 1 else s.writeS r.toNat (s.opA 0 a.toNat) 1)
/-- ALEA (R99). -/
def execAlea (ad aa : BitVec 5) (r : BitVec 6) (sh : BitVec 3) (s : State) : Result :=
  done s (s.writeA ad.toNat (s.opA 0 aa.toNat + s.opS 8 r.toNat * 2 ^ sh.toNat) 1)

/-- A scalar FP32 result: the code in `d[31:0]`, zeros above, its flags merged at commit (R100, R33). -/
def scalarFloat (d : BitVec 6) (r : Res Val) (s : State) : Result :=
  let n := narrowRes r 0 false
  done s ((s.writeS d.toNat n.val 4).mergeSlot n.flags)
/-- The FP32 value in the low half of a scalar operand (R100). -/
def f32Of (x : Nat) : Val := decodeFloat (x % 2 ^ 32) 0
def execFadd (d a b : BitVec 6) (s : State) : Result :=
  scalarFloat d (addVal (f32Of (s.opS 0 a.toNat)) (f32Of (s.opS 8 b.toNat))) s
def execFmul (d a b : BitVec 6) (s : State) : Result :=
  scalarFloat d (mulVal (f32Of (s.opS 0 a.toNat)) (f32Of (s.opS 8 b.toNat))) s
/-- FMA rounds once (R100). -/
def execFma (d a b c : BitVec 6) (s : State) : Result :=
  scalarFloat d (fmaVal (f32Of (s.opS 0 a.toNat)) (f32Of (s.opS 8 b.toNat)) (f32Of (s.opS 16 c.toNat))) s

/-- FCVT's result: a float code zero-extended, an integer extended by the destination's sign (R101). -/
def fcvtResult (c dfmt sfmt : Nat) (sat : Bool) : Res Nat :=
  let x := decodeElem (c % 2 ^ fmtWidth sfmt) sfmt
  let r := convertTo x dfmt sat
  if isSignedFmt dfmt then ⟨wrap64 (signExt r.val (fmtWidth dfmt)), r.flags⟩ else r
def execFcvt (d a : BitVec 6) (dfmt sfmt : BitVec 5) (sat : BitVec 1) (s : State) : Result :=
  let r := fcvtResult (s.opS 0 a.toNat) dfmt.toNat sfmt.toNat (sat == 1)
  done s ((s.writeS d.toNat r.val 3).mergeSlot r.flags)

/-- TSHAPE writes the tile control register for accesses that issue after the commit (R45, R102). -/
def execTshape (t : BitVec 4) (fmt : BitVec 5) (rows bpr : BitVec 7) (gsz : BitVec 2) (s : State) : Result :=
  done s (s.write (.tctl t.toNat (tcOf fmt.toNat rows.toNat bpr.toNat gsz.toNat)) 1)
/-- MPAR (R103). -/
def execMpar (p : BitVec 3) (r : BitVec 6) (s : State) : Result :=
  done s (s.write (.p p.toNat (BitVec.ofNat 64 (s.opS 8 r.toNat))) 1)

/-- The no-op of an SCA slot (R63). -/
def execScnop (s : State) : Result := done s s

end Sys2Proof.Machine
end

