-- ==== Sys2Proof/Machine/Vec.lean ====
section
/-! DEFINITION. Instructions of the VEC slots (R130 to R147). Operands are read at the read phase, results retire with the
latency of R132, flags merge at commit. -/

namespace Sys2Proof.Machine

def execVnop (s : State) : Result := done s s

/-! ### Elements and masks -/

/-- Elements of a vector register (R130). -/
def laneCount (fmt : Nat) : Nat := 1024 / fmtWidth fmt

/-- Bit j of the mask operand; without one every element is active (R131). -/
def State.active (s : State) (m : BitVec 4) (men : BitVec 1) : Nat → Bool :=
  if men = 1 then
    let x := s.opM 0x180 m.toNat
    fun j => bitOf x j
  else fun _ => true

/-- The old destination of a masked instruction (R131). -/
def State.oldV (s : State) (vd : BitVec 9) (men : BitVec 1) : Nat := if men = 1 then s.opV 0x100 vd.toNat else 0

/-- Element results merged into an old value: an element that is not active keeps its code and sets no flag (R131). -/
def mergeElems (w n : Nat) (act : Nat → Bool) (old : Nat) (f : Nat → Res Nat) : Res Nat :=
  let rs := (List.range n).map fun j => if act j then f j else ⟨elemAt old w j, 0⟩
  ⟨packElems w (rs.map (·.val)), rs.foldl (fun a r => a ||| r.flags) 0⟩

/-- A vector result of the slot in flight with its flags (R132). -/
def State.vecResult (s : State) (vd : BitVec 9) (lat : Nat) (r : Res Nat) : State :=
  (s.writeV vd.toNat r.val lat).mergeSlot r.flags

/-- An element-wise instruction on the elements of VA and VB; `f` takes the two codes (R133). -/
def lanes2 (f : Nat → Nat → Res Nat) (lat : Nat) (vd va vb : BitVec 9) (fmt : BitVec 5) (m : BitVec 4) (men : BitVec 1)
    (s : State) : Result :=
  let w := fmtWidth fmt.toNat
  let a := s.opV 0 va.toNat
  let b := s.opV 0x80 vb.toNat
  done s (s.vecResult vd lat (mergeElems w (laneCount fmt.toNat) (s.active m men) (s.oldV vd men)
    fun j => f (elemAt a w j) (elemAt b w j)))

/-- An element-wise instruction on the elements of VA (R134). -/
def lanes1 (f : Nat → Res Nat) (lat : Nat) (vd va : BitVec 9) (fmt : BitVec 5) (m : BitVec 4) (men : BitVec 1) (s : State) :
    Result :=
  let w := fmtWidth fmt.toNat
  let a := s.opV 0 va.toNat
  done s (s.vecResult vd lat (mergeElems w (laneCount fmt.toNat) (s.active m men) (s.oldV vd men)
    fun j => f (elemAt a w j)))

/-! ### Arithmetic -/

/-- One element of VADD, VSUB or VMUL: rounded once for floats, wrapped for integers (R133). -/
def arith (fmt : BitVec 5) (ff : Val → Val → Res Val) (fi : Int → Int → Int) (a b : Nat) : Res Nat :=
  let f := fmt.toNat
  if isFloatFmt f then narrowRes (ff (decodeFloat a f) (decodeFloat b f)) f false
  else ⟨wrapInt (fi (intOfCode a f) (intOfCode b f)) (fmtWidth f), 0⟩

def execVadd (vd va vb : BitVec 9) (fmt : BitVec 5) (m : BitVec 4) (men : BitVec 1) (s : State) : Result :=
  lanes2 (arith fmt addVal (· + ·)) (latFI fmt 4 2) vd va vb fmt m men s

def execVsub (vd va vb : BitVec 9) (fmt : BitVec 5) (m : BitVec 4) (men : BitVec 1) (s : State) : Result :=
  lanes2 (arith fmt (fun x y => addVal x (negVal y)) (· - ·)) (latFI fmt 4 2) vd va vb fmt m men s

def execVmul (vd va vb : BitVec 9) (fmt : BitVec 5) (m : BitVec 4) (men : BitVec 1) (s : State) : Result :=
  lanes2 (arith fmt mulVal (· * ·)) (latFI fmt 4 3) vd va vb fmt m men s

/-- VFMA: VD is the addend, and the result is rounded once (R133). -/
def execVfma (vd va vb : BitVec 9) (fmt : BitVec 5) (m : BitVec 4) (men : BitVec 1) (s : State) : Result :=
  let f := fmt.toNat
  let w := fmtWidth f
  let a := s.opV 0 va.toNat
  let b := s.opV 0x80 vb.toNat
  let d := s.opV 0x100 vd.toNat
  done s (s.vecResult vd 4 (mergeElems w (laneCount f) (s.active m men) d fun j =>
    let x := elemAt a w j
    let y := elemAt b w j
    let z := elemAt d w j
    if isFloatFmt f then narrowRes (fmaVal (decodeFloat x f) (decodeFloat y f) (decodeFloat z f)) f false
    else ⟨wrapInt (intOfCode x f * intOfCode y f + intOfCode z f) w, 0⟩))

def execVmin (vd va vb : BitVec 9) (fmt : BitVec 5) (m : BitVec 4) (men : BitVec 1) (s : State) : Result :=
  lanes2 (fun a b => ⟨minCode a b fmt.toNat, 0⟩) 2 vd va vb fmt m men s

def execVmax (vd va vb : BitVec 9) (fmt : BitVec 5) (m : BitVec 4) (men : BitVec 1) (s : State) : Result :=
  lanes2 (fun a b => ⟨maxCode a b fmt.toNat, 0⟩) 2 vd va vb fmt m men s

/-- A float code with its sign set, or the canonical NaN (R134). -/
def withSign (c f : Nat) (neg : Bool) : Nat :=
  if isNan (decodeFloat c f) then (fmtNan f).getD 0 else signCode neg (c % 2 ^ (fmtWidth f - 1)) f

def execVabs (vd va : BitVec 9) (fmt : BitVec 5) (m : BitVec 4) (men : BitVec 1) (s : State) : Result :=
  let f := fmt.toNat
  lanes1 (fun a => ⟨if isFloatFmt f then withSign a f false else wrapInt (intOfCode a f).natAbs (fmtWidth f), 0⟩) 2
    vd va fmt m men s

def execVneg (vd va : BitVec 9) (fmt : BitVec 5) (m : BitVec 4) (men : BitVec 1) (s : State) : Result :=
  let f := fmt.toNat
  lanes1 (fun a => ⟨if isFloatFmt f then withSign a f (!bitOf a (fmtWidth f - 1))
    else wrapInt (-(intOfCode a f)) (fmtWidth f), 0⟩) 2 vd va fmt m men s

/-! ### Logic and shifts -/

def execVand (vd va vb : BitVec 9) (fmt : BitVec 5) (m : BitVec 4) (men : BitVec 1) (s : State) : Result :=
  lanes2 (fun a b => ⟨a &&& b, 0⟩) 1 vd va vb fmt m men s

def execVor (vd va vb : BitVec 9) (fmt : BitVec 5) (m : BitVec 4) (men : BitVec 1) (s : State) : Result :=
  lanes2 (fun a b => ⟨a ||| b, 0⟩) 1 vd va vb fmt m men s

def execVxor (vd va vb : BitVec 9) (fmt : BitVec 5) (m : BitVec 4) (men : BitVec 1) (s : State) : Result :=
  lanes2 (fun a b => ⟨a ^^^ b, 0⟩) 1 vd va vb fmt m men s

def execVnot (vd va : BitVec 9) (fmt : BitVec 5) (m : BitVec 4) (men : BitVec 1) (s : State) : Result :=
  lanes1 (fun a => ⟨2 ^ fmtWidth fmt.toNat - 1 - a, 0⟩) 1 vd va fmt m men s

def execVshl (vd va vb : BitVec 9) (fmt : BitVec 5) (m : BitVec 4) (men : BitVec 1) (s : State) : Result :=
  let w := fmtWidth fmt.toNat
  lanes2 (fun a c => ⟨if w ≤ c then 0 else a * 2 ^ c % 2 ^ w, 0⟩) 2 vd va vb fmt m men s

def execVshr (vd va vb : BitVec 9) (fmt : BitVec 5) (m : BitVec 4) (men : BitVec 1) (s : State) : Result :=
  let w := fmtWidth fmt.toNat
  lanes2 (fun a c => ⟨if w ≤ c then 0 else a / 2 ^ c, 0⟩) 2 vd va vb fmt m men s

def execVsra (vd va vb : BitVec 9) (fmt : BitVec 5) (m : BitVec 4) (men : BitVec 1) (s : State) : Result :=
  let w := fmtWidth fmt.toNat
  lanes2 (fun a c => ⟨wrapInt (signExt a w / 2 ^ (min c w)) w, 0⟩) 2 vd va vb fmt m men s

/-! ### Comparison and selection -/

/-- The predicates of R136 on two values. -/
def predicate (fn : Nat) (x y : Val) : Bool :=
  match fn with
  | 0 => eqVal x y
  | 1 => !eqVal x y
  | 2 => ltVal x y
  | 3 => ltVal x y || eqVal x y
  | 4 => ltVal y x
  | 5 => ltVal y x || eqVal x y
  | 6 => isNan x || isNan y
  | _ => !isNan x && !isNan y

/-- A mask from a truth of each element (R131): inactive elements and bits beyond the elements are 0. -/
def maskFrom (n : Nat) (act f : Nat → Bool) : Nat :=
  ((List.range n).map fun j => if act j && f j then 2 ^ j else 0).sum

def execVcmp (md : BitVec 4) (va vb : BitVec 9) (fmt : BitVec 5) (m : BitVec 4) (men : BitVec 1) (fn : BitVec 4) (s : State) :
    Result :=
  let f := fmt.toNat
  let w := fmtWidth f
  let a := s.opV 0 va.toNat
  let b := s.opV 0x80 vb.toNat
  done s (s.writeM md.toNat (maskFrom (laneCount f) (s.active m men) fun j =>
    predicate fn.toNat (decodeElem (elemAt a w j) f) (decodeElem (elemAt b w j) f)) 2)

def execVsel (vd va vb : BitVec 9) (fmt : BitVec 5) (m : BitVec 4) (s : State) : Result :=
  let w := fmtWidth fmt.toNat
  let a := s.opV 0 va.toNat
  let b := s.opV 0x80 vb.toNat
  done s (s.vecResult vd 1 (mergeElems w (laneCount fmt.toNat) (s.active m 1) b fun j => ⟨elemAt a w j, 0⟩))

/-! ### Moves -/

def execVmov (vd va : BitVec 9) (fmt : BitVec 5) (m : BitVec 4) (men : BitVec 1) (s : State) : Result :=
  lanes1 (fun a => ⟨a, 0⟩) 1 vd va fmt m men s

def execVbcast (vd : BitVec 9) (sr : BitVec 6) (fmt : BitVec 5) (m : BitVec 4) (men : BitVec 1) (s : State) : Result :=
  let w := fmtWidth fmt.toNat
  let x := s.opS 0 sr.toNat
  done s (s.vecResult vd 2 (mergeElems w (laneCount fmt.toNat) (s.active m men) (s.oldV vd men) fun _ => ⟨x % 2 ^ w, 0⟩))

/-- VEXT: 0 where the lane's mask bit is 0 (R137). -/
def execVext (sd : BitVec 6) (va : BitVec 9) (sl : BitVec 6) (fmt : BitVec 5) (m : BitVec 4) (men : BitVec 1) (s : State) :
    Result :=
  let f := fmt.toNat
  let j := s.opS 0x80 sl.toNat % laneCount f
  let c := elemAt (s.opV 0 va.toNat) (fmtWidth f) j
  done s (s.writeS sd.toNat (if s.active m men j then (if isFloatFmt f then c else wrapInt (intOfCode c f) 64) else 0) 3)

/-- VINS: nothing is written where the lane's mask bit is 0 (R137). -/
def execVins (vd : BitVec 9) (sr sl : BitVec 6) (fmt : BitVec 5) (m : BitVec 4) (men : BitVec 1) (s : State) : Result :=
  let w := fmtWidth fmt.toNat
  let n := laneCount fmt.toNat
  let j := s.opS 0x80 sl.toNat % n
  let x := s.opS 0 sr.toNat
  done s (if s.active m men j then
    s.vecResult vd 2 (mergeElems w n (fun i => i == j) (s.opV 0x100 vd.toNat) fun _ => ⟨x % 2 ^ w, 0⟩) else s)

def execVperm (vd va vb : BitVec 9) (fmt : BitVec 5) (m : BitVec 4) (men : BitVec 1) (s : State) : Result :=
  let w := fmtWidth fmt.toNat
  let n := laneCount fmt.toNat
  let a := s.opV 0 va.toNat
  let b := s.opV 0x80 vb.toNat
  done s (s.vecResult vd 3 (mergeElems w n (s.active m men) (s.oldV vd men) fun j => ⟨elemAt a w (elemAt b w j % n), 0⟩))

/-! ### Reductions and scans -/

/-- An element widened for a reduction: a float's FP32 code, an integer's 64-bit value, or its code for the bitwise
operations (R138). -/
def redLeaf (fn f c : Nat) : Nat :=
  if isFloatFmt f then (narrow (decodeFloat c f) 0 false).val
  else if 3 ≤ fn then c else wrapInt (intOfCode c f) 64

/-- Combining two nodes (R138). -/
def redComb (fn f l r : Nat) : Res Nat :=
  let wide := if isFloatFmt f then 0 else if isSignedFmt f then 20 else 24
  match fn with
  | 0 => if isFloatFmt f then narrowRes (addVal (decodeFloat l 0) (decodeFloat r 0)) 0 false else ⟨(l + r) % 2 ^ 64, 0⟩
  | 1 => ⟨minCode l r wide, 0⟩
  | 2 => ⟨maxCode l r wide, 0⟩
  | 3 => ⟨l &&& r, 0⟩
  | 4 => ⟨l ||| r, 0⟩
  | _ => ⟨l ^^^ r, 0⟩

/-- Identity of an operation, in the form of a leaf (R138). -/
def redIdentity (fn f : Nat) : Nat :=
  if isFloatFmt f then (match fn with | 1 => 0x7F800000 | 2 => 0xFF800000 | _ => 0)
  else match fn with
    | 1 => wrapInt (intMax f) 64
    | 2 => wrapInt (intMin f) 64
    | 3 => 2 ^ fmtWidth f - 1
    | _ => 0

/-- One level of the tree: absent nodes give way to their neighbours (R138). -/
def redLevel (fn f : Nat) : List (Option Nat) → List (Option Nat) × Flags6
  | l :: r :: t =>
    let rest := redLevel fn f t
    match l, r with
    | none, r => (r :: rest.1, rest.2)
    | l, none => (l :: rest.1, rest.2)
    | some x, some y =>
      let c := redComb fn f x y
      (some c.val :: rest.1, c.flags ||| rest.2)
  | l => (l, 0)

def redTree (fn f : Nat) : Nat → List (Option Nat) → Option Nat × Flags6
  | 0, l => (l.headD none, 0)
  | k + 1, l =>
    let a := redLevel fn f l
    let b := redTree fn f k a.1
    (b.1, a.2 ||| b.2)

def execVred (sd : BitVec 6) (va : BitVec 9) (fmt : BitVec 5) (m : BitVec 4) (men : BitVec 1) (fn : BitVec 4) (s : State) :
    Result :=
  let f := fmt.toNat
  let op := fn.toNat
  let a := s.opV 0 va.toNat
  let act := s.active m men
  let leaves := (List.range (laneCount f)).map fun j =>
    if act j then some (redLeaf op f (elemAt a (fmtWidth f) j)) else none
  let r := redTree op f 7 leaves
  done s ((s.writeS sd.toNat (r.1.getD (redIdentity op f)) (if isFloatFmt f ∧ op = 0 then 10 else 6)).mergeSlot r.2)

/-- A scan's running value and its code in the element format (R139). -/
def scanGo (fn f : Nat) (a old : Nat) (act : Nat → Bool) : Nat → Nat → Nat → List Nat × Flags6
  | 0, _, _ => ([], 0)
  | n + 1, j, run =>
    let w := fmtWidth f
    if act j then
      let c := redComb fn f run (redLeaf fn f (elemAt a w j))
      let out : Res Nat := if isFloatFmt f then narrow (decodeFloat c.val 0) f false else ⟨c.val % 2 ^ w, 0⟩
      -- an integer scan wraps in the element's width
      let run' := if isFloatFmt f then c.val else if 3 ≤ fn then out.val else wrapInt (intOfCode out.val f) 64
      let rest := scanGo fn f a old act n (j + 1) run'
      (out.val :: rest.1, c.flags ||| out.flags ||| rest.2)
    else
      let rest := scanGo fn f a old act n (j + 1) run
      (elemAt old w j :: rest.1, rest.2)

def execVscan (vd va : BitVec 9) (fmt : BitVec 5) (m : BitVec 4) (men : BitVec 1) (fn : BitVec 4) (s : State) : Result :=
  let f := fmt.toNat
  let r := scanGo fn.toNat f (s.opV 0 va.toNat) (s.oldV vd men) (s.active m men) (laneCount f) 0 (redIdentity fn.toNat f)
  done s (s.vecResult vd 12 ⟨packElems (fmtWidth f) r.1, r.2⟩)

/-! ### Conversion and functions -/

/-- VCVT: the narrower side is packed in the low bits, and the bits above a destination's elements are zero (R140). -/
def execVcvt (vd va : BitVec 9) (sfmt fmt : BitVec 5) (m : BitVec 4) (men sat : BitVec 1) (s : State) : Result :=
  let ws := fmtWidth sfmt.toNat
  let wd := fmtWidth fmt.toNat
  let n := 1024 / max (max ws wd) 8
  let a := s.opV 0 va.toNat
  done s (s.vecResult vd 4 (mergeElems wd n (s.active m men) (s.oldV vd men)
    fun j => convertTo (decodeElem (elemAt a ws j) sfmt.toNat) fmt.toNat (sat == 1)))

/-- A correctly rounded function of each element (R141). -/
def lanesFn (g : Val → Res Val) (vd va : BitVec 9) (fmt : BitVec 5) (m : BitVec 4) (men : BitVec 1) (s : State) : Result :=
  lanes1 (fun a => narrowRes (g (decodeFloat a fmt.toNat)) fmt.toNat false) 8 vd va fmt m men s

/-- A result that is an infinity by its rule, not by rounding, sets no OVF: it is exact (R141). -/
def execVrcp (vd va : BitVec 9) (fmt : BitVec 5) (m : BitVec 4) (men : BitVec 1) (s : State) : Result :=
  lanesFn recipVal vd va fmt m men s

def execVrsq (vd va : BitVec 9) (fmt : BitVec 5) (m : BitVec 4) (men : BitVec 1) (s : State) : Result :=
  lanesFn rsqVal vd va fmt m men s

def execVexp2 (vd va : BitVec 9) (fmt : BitVec 5) (m : BitVec 4) (men : BitVec 1) (s : State) : Result :=
  lanesFn exp2OfVal vd va fmt m men s

/-! ### Selection -/

def execVthr (md : BitVec 4) (va : BitVec 9) (sr : BitVec 6) (fmt : BitVec 5) (m : BitVec 4) (men : BitVec 1) (s : State) :
    Result :=
  let f := fmt.toNat
  let w := fmtWidth f
  let a := s.opV 0 va.toNat
  let t := decodeElem (s.opS 0x80 sr.toNat % 2 ^ w) f
  done s (s.writeM md.toNat (maskFrom (laneCount f) (s.active m men) fun j =>
    let x := decodeElem (elemAt a w j) f
    ltVal t x || eqVal t x) 3)

/-- Before of R143. -/
def before (x : Nat → Val) (i j : Nat) : Bool :=
  if isNan (x i) then isNan (x j) && i < j
  else if isNan (x j) then true
  else ltVal (x j) (x i) || (eqVal (x i) (x j) && i < j)

def execVtopk (md : BitVec 4) (va : BitVec 9) (sr : BitVec 6) (fmt : BitVec 5) (m : BitVec 4) (men : BitVec 1) (s : State) :
    Result :=
  let f := fmt.toNat
  let n := laneCount f
  let a := s.opV 0 va.toNat
  let k := s.opS 0x80 sr.toNat
  let act := s.active m men
  let xs := (List.range n).map fun j => decodeElem (elemAt a (fmtWidth f) j) f
  let x := fun j => xs.getD j .nan
  let cands := (List.range n).filter act
  done s (s.writeM md.toNat (maskFrom n act fun j => (cands.filter fun i => before x i j).length < k) 12)

/-- Positions that a VHIST adds to (R144). -/
def histPositions (a sv f : Nat) (act : Nat → Bool) : List Nat :=
  ((List.range (laneCount f)).filter act).filterMap fun j =>
    let p : Int := sv + intOfCode (elemAt a (fmtWidth f) j) f
    if intOfCode (elemAt a (fmtWidth f) j) f < 0 ∨ 63 < p then none else some p.toNat

/-- Counts on their way to a position of the count queue. -/
def pendingCounts (ps : List Pend) (p : Nat) : Nat :=
  (ps.map fun q => match q.w with | .count l => (l.filter (· == p)).length | _ => 0).sum

/-- VHIST: counts join the queue in the next cycle; one that saturates sets OVF at commit (R144, R290). -/
def execVhist (va : BitVec 9) (sr : BitVec 6) (fmt : BitVec 5) (m : BitVec 4) (men : BitVec 1) (s : State) : Result :=
  let ps := histPositions (s.opV 0 va.toNat) (s.opS 0x80 sr.toNat) fmt.toNat (s.active m men)
  let x := s.me
  let passes := ps.any fun p => 2 ^ 32 ≤ x.cq.getD p 0 + pendingCounts x.pend p + (ps.filter (· == p)).length
  done s ((s.write (.count ps) 1).mergeSlot (if passes then flagOvf else 0))

/-! ### Scaling and quantising -/

def execScacc (vd va vb : BitVec 9) (m : BitVec 4) (men : BitVec 1) (s : State) : Result :=
  let a := s.opV 0 va.toNat
  let b := s.opV 0x80 vb.toNat
  let d := s.opV 0x100 vd.toNat
  done s (s.vecResult vd 4 (mergeElems 32 32 (s.active m men) d fun j =>
    scaleAcc (elemAt d 32 j) (signExt (elemAt a 32 j) 32) (elemAt b 16 (2 * j)) (elemAt b 16 (2 * j + 1))))

/-- VEFQ: codes and scales into VD, the new feedback into the low half of VB (R146). -/
def execVefq (vd va vb : BitVec 9) (s : State) : Result :=
  let a := s.opV 0 va.toNat
  let b := s.opV 0x80 vb.toNat
  let blocks := (List.range 8).map fun k => errorFeedback ((List.range 4).map fun i => elemAt a 32 (4 * k + i))
    ((List.range 4).map fun i => elemAt b 16 (4 * k + i))
  let codes := packElems 8 (blocks.flatMap fun r => r.val.2.1)
  let scales := packElems 16 (blocks.map fun r => r.val.1)
  let back := packElems 16 (blocks.flatMap fun r => r.val.2.2)
  let flags := blocks.foldl (fun f r => f ||| r.flags) 0
  done s (((s.writeV vd.toNat (codes + scales * 2 ^ 256) 6).writeV vb.toNat (back + b / 2 ^ 512 * 2 ^ 512) 6).mergeSlot flags)

/-! ### Masks -/

/-- A mask result, ANDed with the mask operand (R147). -/
def State.maskResult (s : State) (md m : BitVec 4) (men : BitVec 1) (x : Nat) : State :=
  s.writeM md.toNat (if men = 1 then x &&& s.opM 0x180 m.toNat else x) 1

def execMand (md ma mb m : BitVec 4) (men : BitVec 1) (s : State) : Result :=
  done s (s.maskResult md m men (s.opM 0 ma.toNat &&& s.opM 0x80 mb.toNat))

def execMor (md ma mb m : BitVec 4) (men : BitVec 1) (s : State) : Result :=
  done s (s.maskResult md m men (s.opM 0 ma.toNat ||| s.opM 0x80 mb.toNat))

def execMxor (md ma mb m : BitVec 4) (men : BitVec 1) (s : State) : Result :=
  done s (s.maskResult md m men (s.opM 0 ma.toNat ^^^ s.opM 0x80 mb.toNat))

def execMnot (md ma m : BitVec 4) (men : BitVec 1) (s : State) : Result :=
  done s (s.maskResult md m men (2 ^ 128 - 1 - s.opM 0 ma.toNat))

/-- Set bits of a number below a bound (R98, R147). -/
def countOnes (x n : Nat) : Nat := ((List.range n).filter fun i => bitOf x i).length

def execMpopc (sd : BitVec 6) (ma m : BitVec 4) (men : BitVec 1) (s : State) : Result :=
  let x := s.opM 0 ma.toNat
  done s (s.writeS sd.toNat (countOnes (if men = 1 then x &&& s.opM 0x180 m.toNat else x) 128) 2)

end Sys2Proof.Machine
end

