-- ==== Sys2Proof/Machine/Dispatch.lean ====
section
/-! DEFINITION. The meaning of each row of the opcode table, one arm per constructor of `Instr`. -/

namespace Sys2Proof.Machine

def exec (i : Instr) (s : State) : Host.Outcome State Fault Refusal :=
  match i with
  | .bundleFetch ctx => Sys2Proof.Machine.execBundleFetch ctx s
  | .writeRetire ctx => Sys2Proof.Machine.execWriteRetire ctx s
  | .landing ctx => Sys2Proof.Machine.execLanding ctx s
  | .lateDataFreeze core => Sys2Proof.Machine.execLateDataFreeze core s
  | .waitTimeout ctx => Sys2Proof.Machine.execWaitTimeout ctx s
  | .boundaryTrap ctx => Sys2Proof.Machine.execBoundaryTrap ctx s
  | .matrixEntryBegin core => Sys2Proof.Machine.execMatrixEntryBegin core s
  | .drainEnd core => Sys2Proof.Machine.execDrainEnd core s
  | .xfmRetire ctx => Sys2Proof.Machine.execXfmRetire ctx s
  | .engineCommandBegin core queue => Sys2Proof.Machine.execEngineCommandBegin core queue s
  | .engineCommandComplete core queue => Sys2Proof.Machine.execEngineCommandComplete core queue s
  | .copyPointerWrite core queue => Sys2Proof.Machine.execCopyPointerWrite core queue s
  | .preparationBegin ctx => Sys2Proof.Machine.execPreparationBegin ctx s
  | .preparationTrue ctx => Sys2Proof.Machine.execPreparationTrue ctx s
  | .writeBackPerform ctx => Sys2Proof.Machine.execWriteBackPerform ctx s
  | .lockHomeAccept core idx => Sys2Proof.Machine.execLockHomeAccept core idx s
  | .ageCountReceive home src => Sys2Proof.Machine.execAgeCountReceive home src s
  | .woundCancelArrival home ctx => Sys2Proof.Machine.execWoundCancelArrival home ctx s
  | .launchAdmit queue cluster => Sys2Proof.Machine.execLaunchAdmit queue cluster s
  | .nextWake ctx => Sys2Proof.Machine.execNextWake ctx s
  | .launchRetire launch => Sys2Proof.Machine.execLaunchRetire launch s
  | .watchdogExpiry queue => Sys2Proof.Machine.execWatchdogExpiry queue s
  | .clockGate core => Sys2Proof.Machine.execClockGate core s
  | .powerGate core => Sys2Proof.Machine.execPowerGate core s
  | .monitorWake line => Sys2Proof.Machine.execMonitorWake line s
  | .pageRequestResponse core page code => Sys2Proof.Machine.execPageRequestResponse core page code s
  | .doorbellWrite queue value ro ido rid => Sys2Proof.Machine.execDoorbellWrite queue value ro ido rid s
  | .apertureWrite off data ro ido rid => Sys2Proof.Machine.execApertureWrite off data ro ido rid s
  | .apertureRead off len ro ido rid => Sys2Proof.Machine.execApertureRead off len ro ido rid s
  | .routeAck seq route => Sys2Proof.Machine.execRouteAck seq route s
  | .hanglogWrite mask => Sys2Proof.Machine.execHanglogWrite mask s
  | .mgmtRegisterWrite off value => Sys2Proof.Machine.execMgmtRegisterWrite off value s
  | .hostErrorCompletion agent idx status => Sys2Proof.Machine.execHostErrorCompletion agent idx status s
  | .hostCompletionTimeout agent idx => Sys2Proof.Machine.execHostCompletionTimeout agent idx s
  | .nvmeCompletion port slot status data => Sys2Proof.Machine.execNvmeCompletion port slot status data s
  | .storageTimeout core => Sys2Proof.Machine.execStorageTimeout core s
  | .packetLanding ep raddr rcore rflag data => Sys2Proof.Machine.execPacketLanding ep raddr rcore rflag data s
  | .packetAck core ack => Sys2Proof.Machine.execPacketAck core ack s
  | .transportTimeout core pos => Sys2Proof.Machine.execTransportTimeout core pos s
  | .untargetedMessage port ep src packet => Sys2Proof.Machine.execUntargetedMessage port ep src packet s
  | .flitCrcError link => Sys2Proof.Machine.execFlitCrcError link s
  | .linkRetrain link => Sys2Proof.Machine.execLinkRetrain link s
  | .errorDetected kind unit severity addr => Sys2Proof.Machine.execErrorDetected kind unit severity addr s
  | .selfTestComplete kind unit failed => Sys2Proof.Machine.execSelfTestComplete kind unit failed s
  | .trapQueueRetry node => Sys2Proof.Machine.execTrapQueueRetry node s
  | .startModule copies fails other cores clusters hbms channels => Sys2Proof.Machine.execStartModule copies fails other cores clusters hbms channels s
  | .powerPeriod watts => Sys2Proof.Machine.execPowerPeriod watts s
  | .thermalThrottle => Sys2Proof.Machine.execThermalThrottle s
  | .thermalShutdown => Sys2Proof.Machine.execThermalShutdown s
  | .snop => Sys2Proof.Machine.execSnop s
  | .wait f cnt => Sys2Proof.Machine.execWait f cnt s
  | .post f inc => Sys2Proof.Machine.execPost f inc s
  | .postp rank f inc => Sys2Proof.Machine.execPostp rank f inc s
  | .banklk cnt bank0 nb => Sys2Proof.Machine.execBanklk cnt bank0 nb s
  | .cbar bid => Sys2Proof.Machine.execCbar bid s
  | .cnop => Sys2Proof.Machine.execCnop s
  | .br off => Sys2Proof.Machine.execBr off s
  | .brc sr cond off => Sys2Proof.Machine.execBrc sr cond off s
  | .bri sr => Sys2Proof.Machine.execBri sr s
  | .call a off => Sys2Proof.Machine.execCall a off s
  | .ret a => Sys2Proof.Machine.execRet a s
  | .loop it imm cnt e => Sys2Proof.Machine.execLoop it imm cnt e s
  | .loopq it e => Sys2Proof.Machine.execLoopq it e s
  | .lnest it n e => Sys2Proof.Machine.execLnest it n e s
  | .lreplay it e => Sys2Proof.Machine.execLreplay it e s
  | .lrev it imm cnt e => Sys2Proof.Machine.execLrev it imm cnt e s
  | .phprep k => Sys2Proof.Machine.execPhprep k s
  | .phadv k => Sys2Proof.Machine.execPhadv k s
  | .phset map => Sys2Proof.Machine.execPhset map s
  | .mapld map a => Sys2Proof.Machine.execMapld map a s
  | .next sr => Sys2Proof.Machine.execNext sr s
  | .tail a => Sys2Proof.Machine.execTail a s
  | .trap code => Sys2Proof.Machine.execTrap code s
  | .rte => Sys2Proof.Machine.execRte s
  | .exit => Sys2Proof.Machine.execExit s
  | .srd sr sysn => Sys2Proof.Machine.execSrd sr sysn s
  | .swr sr sysn => Sys2Proof.Machine.execSwr sr sysn s
  | .dictsw a => Sys2Proof.Machine.execDictsw a s
  | .scnop => Sys2Proof.Machine.execScnop s
  | .add d a b => Sys2Proof.Machine.execAdd d a b s
  | .sub d a b => Sys2Proof.Machine.execSub d a b s
  | .addi d a imm => Sys2Proof.Machine.execAddi d a imm s
  | .mul d a b => Sys2Proof.Machine.execMul d a b s
  | .mulh d a b => Sys2Proof.Machine.execMulh d a b s
  | .divq d a b => Sys2Proof.Machine.execDivq d a b s
  | .remq d a b => Sys2Proof.Machine.execRemq d a b s
  | .and d a b => Sys2Proof.Machine.execAnd d a b s
  | .or d a b => Sys2Proof.Machine.execOr d a b s
  | .xor d a b => Sys2Proof.Machine.execXor d a b s
  | .andi d a imm => Sys2Proof.Machine.execAndi d a imm s
  | .ori d a imm => Sys2Proof.Machine.execOri d a imm s
  | .xori d a imm => Sys2Proof.Machine.execXori d a imm s
  | .shl d a b => Sys2Proof.Machine.execShl d a b s
  | .shr d a b => Sys2Proof.Machine.execShr d a b s
  | .sra d a b => Sys2Proof.Machine.execSra d a b s
  | .shli d a sh => Sys2Proof.Machine.execShli d a sh s
  | .shri d a sh => Sys2Proof.Machine.execShri d a sh s
  | .srai d a sh => Sys2Proof.Machine.execSrai d a sh s
  | .min d a b => Sys2Proof.Machine.execMin d a b s
  | .max d a b => Sys2Proof.Machine.execMax d a b s
  | .minn d a b => Sys2Proof.Machine.execMinn d a b s
  | .maxn d a b => Sys2Proof.Machine.execMaxn d a b s
  | .cmpeq d a b => Sys2Proof.Machine.execCmpeq d a b s
  | .cmplt d a b => Sys2Proof.Machine.execCmplt d a b s
  | .cmpltn d a b => Sys2Proof.Machine.execCmpltn d a b s
  | .sel d a b c => Sys2Proof.Machine.execSel d a b c s
  | .movi d imm => Sys2Proof.Machine.execMovi d imm s
  | .movhi d q imm => Sys2Proof.Machine.execMovhi d q imm s
  | .clz d a => Sys2Proof.Machine.execClz d a s
  | .popc d a => Sys2Proof.Machine.execPopc d a s
  | .bfx d a pos len sgn => Sys2Proof.Machine.execBfx d a pos len sgn s
  | .bfi d a pos len => Sys2Proof.Machine.execBfi d a pos len s
  | .aadd ad aa sr => Sys2Proof.Machine.execAadd ad aa sr s
  | .amov a dir sr => Sys2Proof.Machine.execAmov a dir sr s
  | .alea ad aa sr sh => Sys2Proof.Machine.execAlea ad aa sr sh s
  | .fadd d a b => Sys2Proof.Machine.execFadd d a b s
  | .fmul d a b => Sys2Proof.Machine.execFmul d a b s
  | .fma d a b c => Sys2Proof.Machine.execFma d a b c s
  | .fcvt d a dfmt sfmt sat => Sys2Proof.Machine.execFcvt d a dfmt sfmt sat s
  | .tshape t fmt rows bpr gsz => Sys2Proof.Machine.execTshape t fmt rows bpr gsz s
  | .mpar p sr => Sys2Proof.Machine.execMpar p sr s
  | .lnop => Sys2Proof.Machine.execLnop s
  | .ld sp ac d a arr ord pi addr => Sys2Proof.Machine.execLd sp ac d a arr ord pi addr s
  | .st sp ac sr a ord pi addr => Sys2Proof.Machine.execSt sp ac sr a ord pi addr s
  | .ldv sp ac v a arr nr ord pi addr => Sys2Proof.Machine.execLdv sp ac v a arr nr ord pi addr s
  | .stv sp ac v a ord pi addr => Sys2Proof.Machine.execStv sp ac v a ord pi addr s
  | .ldvs sp ac v a arr sr esz => Sys2Proof.Machine.execLdvs sp ac v a arr sr esz s
  | .stvs sp ac v a sr esz => Sys2Proof.Machine.execStvs sp ac v a sr esz s
  | .ldvg sp ac v a arr x esz => Sys2Proof.Machine.execLdvg sp ac v a arr x esz s
  | .stvg sp ac v a x esz => Sys2Proof.Machine.execStvg sp ac v a x esz s
  | .ldt sp ac t a arr pi off => Sys2Proof.Machine.execLdt sp ac t a arr pi off s
  | .stt sp ac t a pi off => Sys2Proof.Machine.execStt sp ac t a pi off s
  | .stt2 sp ac t a pi off => Sys2Proof.Machine.execStt2 sp ac t a pi off s
  | .amo sp ac d sr a scope aop w64 acq rel => Sys2Proof.Machine.execAmo sp ac d sr a scope aop w64 acq rel s
  | .red sp ac sr a scope aop w64 rel ord => Sys2Proof.Machine.execRed sp ac sr a scope aop w64 rel ord s
  | .drain scope => Sys2Proof.Machine.execDrain scope s
  | .fence scope acls => Sys2Proof.Machine.execFence scope acls s
  | .cvtways nw => Sys2Proof.Machine.execCvtways nw s
  | .cinv sp ac a nl => Sys2Proof.Machine.execCinv sp ac a nl s
  | .cwb sp ac a nl => Sys2Proof.Machine.execCwb sp ac a nl s
  | .pref sp ac a nl => Sys2Proof.Machine.execPref sp ac a nl s
  | .vnop => Sys2Proof.Machine.execVnop s
  | .vadd vd va vb fmt m men => Sys2Proof.Machine.execVadd vd va vb fmt m men s
  | .vsub vd va vb fmt m men => Sys2Proof.Machine.execVsub vd va vb fmt m men s
  | .vmul vd va vb fmt m men => Sys2Proof.Machine.execVmul vd va vb fmt m men s
  | .vfma vd va vb fmt m men => Sys2Proof.Machine.execVfma vd va vb fmt m men s
  | .vmin vd va vb fmt m men => Sys2Proof.Machine.execVmin vd va vb fmt m men s
  | .vmax vd va vb fmt m men => Sys2Proof.Machine.execVmax vd va vb fmt m men s
  | .vabs vd va fmt m men => Sys2Proof.Machine.execVabs vd va fmt m men s
  | .vneg vd va fmt m men => Sys2Proof.Machine.execVneg vd va fmt m men s
  | .vand vd va vb fmt m men => Sys2Proof.Machine.execVand vd va vb fmt m men s
  | .vor vd va vb fmt m men => Sys2Proof.Machine.execVor vd va vb fmt m men s
  | .vxor vd va vb fmt m men => Sys2Proof.Machine.execVxor vd va vb fmt m men s
  | .vnot vd va fmt m men => Sys2Proof.Machine.execVnot vd va fmt m men s
  | .vshl vd va vb fmt m men => Sys2Proof.Machine.execVshl vd va vb fmt m men s
  | .vshr vd va vb fmt m men => Sys2Proof.Machine.execVshr vd va vb fmt m men s
  | .vsra vd va vb fmt m men => Sys2Proof.Machine.execVsra vd va vb fmt m men s
  | .vcmp md va vb fmt m men fn => Sys2Proof.Machine.execVcmp md va vb fmt m men fn s
  | .vsel vd va vb fmt m => Sys2Proof.Machine.execVsel vd va vb fmt m s
  | .vmov vd va fmt m men => Sys2Proof.Machine.execVmov vd va fmt m men s
  | .vbcast vd sr fmt m men => Sys2Proof.Machine.execVbcast vd sr fmt m men s
  | .vext sr va sl fmt m men => Sys2Proof.Machine.execVext sr va sl fmt m men s
  | .vins vd sr sl fmt m men => Sys2Proof.Machine.execVins vd sr sl fmt m men s
  | .vperm vd va vb fmt m men => Sys2Proof.Machine.execVperm vd va vb fmt m men s
  | .vred sr va fmt m men fn => Sys2Proof.Machine.execVred sr va fmt m men fn s
  | .vscan vd va fmt m men fn => Sys2Proof.Machine.execVscan vd va fmt m men fn s
  | .vcvt vd va sfmt fmt m men sat => Sys2Proof.Machine.execVcvt vd va sfmt fmt m men sat s
  | .vrcp vd va fmt m men => Sys2Proof.Machine.execVrcp vd va fmt m men s
  | .vrsq vd va fmt m men => Sys2Proof.Machine.execVrsq vd va fmt m men s
  | .vexp2 vd va fmt m men => Sys2Proof.Machine.execVexp2 vd va fmt m men s
  | .vthr md va sr fmt m men => Sys2Proof.Machine.execVthr md va sr fmt m men s
  | .vtopk md va sr fmt m men => Sys2Proof.Machine.execVtopk md va sr fmt m men s
  | .vhist va sr fmt m men => Sys2Proof.Machine.execVhist va sr fmt m men s
  | .scacc vd va vb m men => Sys2Proof.Machine.execScacc vd va vb m men s
  | .vefq vd va vb => Sys2Proof.Machine.execVefq vd va vb s
  | .mand md ma mb m men => Sys2Proof.Machine.execMand md ma mb m men s
  | .mor md ma mb m men => Sys2Proof.Machine.execMor md ma mb m men s
  | .mxor md ma mb m men => Sys2Proof.Machine.execMxor md ma mb m men s
  | .mnot md ma m men => Sys2Proof.Machine.execMnot md ma m men s
  | .mpopc sr ma m men => Sys2Proof.Machine.execMpopc sr ma m men s
  | .xnop => Sys2Proof.Machine.execXnop s
  | .xexp td ta fmt => Sys2Proof.Machine.execXexp td ta fmt s
  | .xtrn td ta => Sys2Proof.Machine.execXtrn td ta s
  | .xcvt td ta fmt => Sys2Proof.Machine.execXcvt td ta fmt s
  | .xreblk td ta fmt => Sys2Proof.Machine.execXreblk td ta fmt s
  | .slnop => Sys2Proof.Machine.execSlnop s
  | .slatch side v half => Sys2Proof.Machine.execSlatch side v half s
  | .slclr side => Sys2Proof.Machine.execSlclr side s
  | .mnop => Sys2Proof.Machine.execMnop s
  | .mcall entry => Sys2Proof.Machine.execMcall entry s
  | .acz slot => Sys2Proof.Machine.execAcz slot s
  | .acrel slot => Sys2Proof.Machine.execAcrel slot s
  | .acwb slot grp p dst => Sys2Proof.Machine.execAcwb slot grp p dst s
  | .acadj slot grp p dst => Sys2Proof.Machine.execAcadj slot grp p dst s
  | .mpsld p => Sys2Proof.Machine.execMpsld p s
  | .acbrd ba bb v one => Sys2Proof.Machine.execAcbrd ba bb v one s
  | .acbwr ba bb v one => Sys2Proof.Machine.execAcbwr ba bb v one s
  | .enop => Sys2Proof.Machine.execEnop s
  | .cpy a f => Sys2Proof.Machine.execCpy a f s
  | .mcast a f => Sys2Proof.Machine.execMcast a f s
  | .bte a f => Sys2Proof.Machine.execBte a f s
  | .tld a f => Sys2Proof.Machine.execTld a f s
  | .tst a f => Sys2Proof.Machine.execTst a f s
  | .cmpx a f => Sys2Proof.Machine.execCmpx a f s
  | .cmpw a f => Sys2Proof.Machine.execCmpw a f s
  | .tgath a f => Sys2Proof.Machine.execTgath a f s
  | .tscat a f => Sys2Proof.Machine.execTscat a f s
  | .qfence a f => Sys2Proof.Machine.execQfence a f s
  | .qpush a f => Sys2Proof.Machine.execQpush a f s
  | .lkbegin a f => Sys2Proof.Machine.execLkbegin a f s
  | .lkreq a f => Sys2Proof.Machine.execLkreq a f s
  | .lkupg a f => Sys2Proof.Machine.execLkupg a f s
  | .lkrel a f => Sys2Proof.Machine.execLkrel a f s
  | .lkrelall a f => Sys2Proof.Machine.execLkrelall a f s
  | .coll a f => Sys2Proof.Machine.execColl a f s
  | .nettx a f => Sys2Proof.Machine.execNettx a f s
  | .netrxp a f => Sys2Proof.Machine.execNetrxp a f s
  | .stgrd a f => Sys2Proof.Machine.execStgrd a f s
  | .vdec a f => Sys2Proof.Machine.execVdec a f s
  | .pgreq a f => Sys2Proof.Machine.execPgreq a f s
  | .midle cnt => Sys2Proof.Machine.execMidle cnt s
  | .mlda p row0 nrow => Sys2Proof.Machine.execMlda p row0 nrow s
  | .mldb p row0 nrow => Sys2Proof.Machine.execMldb p row0 nrow s
  | .mstep nch => Sys2Proof.Machine.execMstep nch s
  | .mscale side en => Sys2Proof.Machine.execMscale side en s
  | .mzp side p => Sys2Proof.Machine.execMzp side p s
  | .mskip en => Sys2Proof.Machine.execMskip en s
  | .mrowb row p => Sys2Proof.Machine.execMrowb row p s
  | .macc p int => Sys2Proof.Machine.execMacc p int s
  | .mloop cnt top => Sys2Proof.Machine.execMloop cnt top s
  | .mend => Sys2Proof.Machine.execMend s
  | .mfmt afmt bfmt => Sys2Proof.Machine.execMfmt afmt bfmt s
  | .msetk k => Sys2Proof.Machine.execMsetk k s
  | .mclr p => Sys2Proof.Machine.execMclr p s
  | .mjmp target => Sys2Proof.Machine.execMjmp target s
  | .mwaits side => Sys2Proof.Machine.execMwaits side s
  | .matrixEntryEnd core => Sys2Proof.Machine.execMatrixEntryEnd core s
  | .accessPerform ctx idx => Sys2Proof.Machine.execAccessPerform ctx idx s
  | .tableWalkComplete core => Sys2Proof.Machine.execTableWalkComplete core s
  | .linkRetrainComplete link => Sys2Proof.Machine.execLinkRetrainComplete link s
  | .mailboxUnknownOpcode => Sys2Proof.Machine.execMailboxUnknownOpcode s
  | .atsInvalidationRequest pasid va bytes => Sys2Proof.Machine.execAtsInvalidationRequest pasid va bytes s
  | .collectivePacket group op rank cop fmt len data => Sys2Proof.Machine.execCollectivePacket group op rank cop fmt len data s
  | .hbmRefresh bank => Sys2Proof.Machine.execHbmRefresh bank s
  | .ident => Sys2Proof.Machine.execIdent s
  | .getcfg => Sys2Proof.Machine.execGetcfg s
  | .mgmtroot => Sys2Proof.Machine.execMgmtroot s
  | .domcreate => Sys2Proof.Machine.execDomcreate s
  | .domteardown => Sys2Proof.Machine.execDomteardown s
  | .qcreate => Sys2Proof.Machine.execQcreate s
  | .qdestroy => Sys2Proof.Machine.execQdestroy s
  | .qclear => Sys2Proof.Machine.execQclear s
  | .qpreempt => Sys2Proof.Machine.execQpreempt s
  | .qresume => Sys2Proof.Machine.execQresume s
  | .qkill => Sys2Proof.Machine.execQkill s
  | .resume => Sys2Proof.Machine.execResume s
  | .kill => Sys2Proof.Machine.execKill s
  | .xinval => Sys2Proof.Machine.execXinval s
  | .outcome => Sys2Proof.Machine.execOutcome s
  | .migrate => Sys2Proof.Machine.execMigrate s
  | .apbind => Sys2Proof.Machine.execApbind s
  | .epbind => Sys2Proof.Machine.execEpbind s
  | .grpdef => Sys2Proof.Machine.execGrpdef s
  | .nsattach => Sys2Proof.Machine.execNsattach s
  | .setvec => Sys2Proof.Machine.execSetvec s
  | .errget => Sys2Proof.Machine.execErrget s
  | .selftest => Sys2Proof.Machine.execSelftest s
  | .startrec => Sys2Proof.Machine.execStartrec s
  | .attest => Sys2Proof.Machine.execAttest s
  | .fwstage => Sys2Proof.Machine.execFwstage s
  | .pwrlimit => Sys2Proof.Machine.execPwrlimit s

end Sys2Proof.Machine
end

