-- ==== Sys2Proof/Machine/Turn.lean ====
section
/-! DEFINITION. Whose turn it is: the slots of the bundle in flight, what comes to a core in its cycle, which context issues, the
cycle's end, and the events that no rule orders (R12, R50, R53, R54, R84, R86, R106, R109, R154, R158, R171, R209, R318, R324,
R325, R357, R372; log entries 5 and 6). `step` only calls what stands here. -/

namespace Sys2Proof.Machine

/-! ### The bundle in flight -/

/-- What follows a slot that has executed: the next one, or the end of the bundle. A fault has ended the flight. -/
def afterSlot (rest : List (Nat × Instr)) : Result → Result
  | .next s =>
    if !s.fl.live then .next s
    else
      let s := { s with fl := { s.fl with rest := rest } }
      match rest with
      | [] => done s s.finish
      | _ => .next s
  | r => r

/-- The next slot of the bundle in flight executes, in ascending slot order (R50) (DESIGN CHOICE, log entry 5). -/
def State.runSlot (s : State) : Result :=
  match s.fl.rest with
  | [] => done s s.finish
  | (k, i) :: t => afterSlot t (exec i (s.atSlot k))

/-- A bundle that has just issued executes its first slot in the same step. -/
def firstSlot : Result → Result
  | .next s => if s.fl.live then s.runSlot else .next s
  | r => r

/-! ### Flags -/

/-- A flag increment is applied; one that passes 65,535 raises FLAGOVF against the context that it is charged to while that
serves the same instance, and else a record of its own (R84, R209) (DEDUCED, log entry 25). -/
def State.applyInc (s : State) (core : Nat) (i : Inc) : State :=
  let k := s.core core
  let passes := k.overflows i.flag i.n
  let s := s.setCore core ({ k with incs := k.incs.erase i }.giveFlag i.flag i.n)
  if !passes then s
  else
    let x := s.ctx i.ctx
    let e : Cause := { code := causeFlagOvf, detail := flagOvfDetail core i.flag true, faddr := 0, smask := 0 }
    if i.kills ∧ x.inst = i.inst ∧ x.killable then s.setCtx i.ctx { x with boundary := addCause x.boundary e }
    else
      let r : Record := { phase := 0, ctx := 0, code := causeFlagOvf, smask := 0, sres := 0, lit := false, capv := false, qid := 0xFF
                          epc := 0, gen := 0, faddr := 0, detail := flagOvfDetail core i.flag false }
      (s.writeTrap i.node 0 0 r).1

/-! ### A core in its cycle -/

def ctxsOf (core : Nat) : List Nat := (List.range 4).map (4 * core + ·)

/-- The first elapsed-cycle increment that counts by now. -/
def Core.incDue (k : Core) : Option Inc := k.incs.find? fun i => i.at' < k.el

/-- The cycle from which a routine's micro-instruction acts: the last of its duration, or the one after it where a program may meet its bank
meanwhile (R158, R159, R168); none while an MWAITS finds no SCL instruction (R164). -/
def Routine.acts (r : Routine) (i : Instr) : Option Nat :=
  match i with
  | .mend => some (r.begins + 1)
  | .midle cnt => some (r.begins + cnt.toNat)
  | .mstep nch => some (r.begins + (nch.toNat + 1 + r.reps.length) * ((formatPair r.afmt r.bfmt).getD (1, false)).1)
  | .mclr _ => some (r.begins + 1)
  | .mwaits side => if (if side = 0 then r.sclA else r.sclB) = [] then none else some r.begins
  | _ => some r.begins

/-- The micro-instruction that a core's routine executes now. -/
def Core.microDue (k : Core) : Option Instr :=
  match k.routine with
  | none => none
  | some r =>
    let i := k.microAt r
    match r.acts i with
    | some t => if t ≤ k.cyc then some i else none
    | none => none

/-- A micro-instruction acts on the core that its flight names. -/
def State.runMicro (s : State) (core : Nat) (i : Instr) : Result :=
  match exec i { s with fl := { Flight.init with ctx := 4 * core } } with
  | .next t => .next { t with fl := Flight.init }
  | r => r

/-- A row of the running drain is due: it begins in its cycle, and its outputs are formed in the next (R171, R204). -/
def Core.rowDue (k : Core) : Bool :=
  match k.drainRun with
  | some d => 0 < k.rowsLeft && (if d.peek.isNone then d.next ≤ k.cyc else d.next < k.cyc)
  | none => false

/-- The event by which the first write on its way retires, when it is due (R54, R107, R148). -/
def State.retireDue (s : State) (c : Nat) : Option Instr :=
  match (s.ctx c).pend with
  | [] => none
  | p :: _ =>
    if p.ready && p.due ≤ (s.core (coreOf c)).cyc then
      match p.kind with
      | .fixed => some (.writeRetire c)
      | .xfm => some (.xfmRetire c)
      | _ => some (.landing c)
    else none

/-- A landing due without its data: the data arrives just now where its access may perform, and else the core freezes, as it always
does for a load with ARR 0 or from host memory (R107, R109). -/
def State.lateDue (s : State) (core : Nat) : Option Instr :=
  match s.lateLandings core with
  | [] => none
  | late =>
    let always := late.any fun p => (s.ctx p.1).pend.any fun q => q.id == p.2 && (q.freeze || q.got)
    let arrives := late.findSome? fun p => match (s.ctx p.1).port.findIdx? fun i => i.id == p.2 with
      | some n => if s.portReady p.1 n then some (Instr.accessPerform p.1 n) else none
      | none => none
    some (if always then .lateDataFreeze core else arrives.getD (.lateDataFreeze core))

/-- A preparation whose granules have all moved is true in the cycle after the last (R230). -/
def State.prepDue (s : State) (core c : Nat) : Bool :=
  match (s.ctx c).working with
  | some (_, p) => p.stage = 1 && p.moved && p.halt.isNone && p.due ≤ (s.core core).el
  | none => false

/-- Events of a core before its routine's micro-instruction of the cycle (DEDUCED, log entries 81, 82). -/
def State.matrixDue (s : State) (core : Nat) : Option Instr :=
  let k := s.core core
  if k.arrayEnds.any fun e => e < k.cyc then some (.matrixEntryEnd core)
  else if k.rowsLeft = 0 && k.drainRun.any (fun d => d.ends < k.cyc && !s.drainHeld core d.cells) then some (.drainEnd core)
  else if (nextEntry s core [] k.mq).isSome && k.routine.isNone && k.arrayEnds.isNone then some (.matrixEntryBegin core)
  else none

/-- Events of a core after it: writes that retire, late data, timeouts, boundary causes and the oven timer
(DEDUCED, log entry 81). -/
def State.cycleDue (s : State) (core : Nat) : Option Instr :=
  let k := s.core core
  let cs := ctxsOf core
  match cs.findSome? s.retireDue with
  | some i => some i
  | none => match s.lateDue core with
    | some i => some i
    | none => match cs.find? (s.prepDue core) with
      | some c => some (.preparationTrue c)
      | none => match cs.find? s.waitExpired with
        | some c => some (.waitTimeout c)
        | none => match cs.find? fun c => (s.ctx c).due.isSome with
          | some c => some (.boundaryTrap c)
          | none =>
            if 4096 ≤ k.oven ∧ k.gate = 0 ∧ s.coreStill core then some (.clockGate core)
            else if 4194304 ≤ k.oven ∧ !k.hang ∧ s.boundOn core ≠ [] then some (.powerGate core)
            else none

/-- The IOD's clock has a source of its own: while the cores count a cycle it counts an open number, which bears no fixed relation to
theirs (R3; log entry 7) (DESIGN CHOICE, log entry 6). -/
def State.iodTick (s : State) : State :=
  { s with fresh := s.fresh + 1, dev := { s.dev with clock := s.dev.clock + Config.freeNat s.fresh } }

/-- The end of a core's cycle: its elapsed count, its own count where its clock ran, and its oven timer; `still` tells that no
context of it could issue, which leaves a gated clock gated (R46, R325). -/
def State.tick (s : State) (core : Nat) (still : Bool) : State :=
  let k := s.core core
  let gate := if still then k.gate else 0
  let s' := s.setCore core { k with
    el := k.el + 1, cyc := if gate = 0 ∧ s.clockRuns core then k.cyc + 1 else k.cyc
    oven := if s.boundOn core = [] then 0 else k.oven + 1, gate := gate }
  if k.el ≤ s'.now then s' else { s'.iodTick with now := k.el }

/-- Something has happened that ends the gating of a core's clock (R325). -/
def State.ungate (s : State) (core : Nat) : State :=
  let k := s.core core
  if k.gate = 0 then s else s.setCore core { k with gate := 0 }

/-! ### Which context issues -/

/-- Contexts put in descending priority, equal ones as they stand. -/
def byPrio (s : State) (c : Nat) : List Nat → List Nat
  | [] => [c]
  | d :: t => if (s.ctx d).prio ≤ (s.ctx c).prio then c :: d :: t else d :: byPrio s c t

/-- The order in which a core that switches takes its contexts: by PRIO, and then in ascending index after the current one; the
current one itself comes last, once it has given way (R318). -/
def State.switchOrder (s : State) (core : Nat) : List Nat :=
  let k := s.core core
  let after := (List.range 4).map fun i => 4 * core + (k.cur + 1 + i) % 4
  (if k.switched then after else after.take 3).foldr (byPrio s) []

/-- What a core's issue came to: a bundle issued or a fault was taken; nothing could; or the core waits. -/
inductive Issued
  | yes | none | wait
  deriving DecidableEq, Repr

/-- The contexts that a switch may take, in order: the first that is ready issues. One that finds the landing buffer full, or that
walks, keeps the others from issuing, and is the current one until its bundle issues (R106, R108). -/
def takeOther (core : Nat) : List Nat → State → State × Issued
  | [], s => (s, .none)
  | c :: t, s =>
    if (s.core core).cyc < (s.ctx c).nextAt then takeOther core t s
    else match s.tryIssue c with
      | (s', .go) => (s', .yes)
      | (s', .block) => takeOther core t s'
      | (s', .hold) => (s'.setCore core { s'.core core with cur := c % 4, switched := false }, .wait)

/-- A core issues a bundle of its current context, or, when that gives way, of another (R53, R318). -/
def State.issueOn (s : State) (core : Nat) : State × Issued :=
  let k := s.core core
  let cur := 4 * core + k.cur
  if k.cyc < k.nextAt then (s, .wait)
  else if k.switched then takeOther core (s.switchOrder core) s
  else if k.cyc < (s.ctx cur).nextAt then (s, .wait)
  else match s.tryIssue cur with
    | (s', .go) => (s', .yes)
    | (s', .hold) => (s', .wait)
    | (s', .block) =>
      let r := takeOther core (s'.switchOrder core) s'
      if r.2 = .none then (r.1.setCore core { r.1.core core with switched := true }, r.2) else r

/-- The issue of a core's cycle, the cycle ending where nothing issues. -/
def State.issueTurn (s : State) (core : Nat) : Result :=
  match s.issueOn core with
  | (s', .yes) => firstSlot (done s s')
  | (s', r) => done s (if s'.agenda.length = s.agenda.length then s'.tick core (r = .none) else s')

/-- A core's turn: what is due in its cycle, one thing a step, and then the issue (log entry 6) (DEDUCED, log entry 81). -/
def State.coreTurn (s0 : State) (core : Nat) : Result :=
  let s := s0.catchUp core
  let k := s.core core
  if !s.clockRuns core then .next (s.tick core true)
  else match (ctxsOf core).find? s.mayEnd with
    | some c => done s ((s.ungate core).endIfQuiet c)
    | none => match k.incDue with
      | some i => done s ((s.ungate core).applyInc core i)
      | none => match s.matrixDue core with
        | some i => exec i (s.ungate core)
        | none => match k.microDue with
          | some i => s.runMicro core i
          | none =>
            if k.rowDue then done s (s.drainStep core)
            else match s.cycleDue core with
              | some i => exec i (if i = .clockGate core ∨ i = .powerGate core then s else s.ungate core)
              | none => s.issueTurn core

/-! ### Whose turn it is -/

/-- A core with something to do: a bound context, matrix work or an increment on its way. -/
def State.coreBusy (s : State) (core : Nat) : Bool :=
  let k := s.core core
  s.boundOn core != [] || k.mq != [] || k.routine.isSome || k.drainRun.isSome || k.incs != []

/-- Numbers put in ascending order, each once. -/
def sortIn (n : Nat) : List Nat → List Nat
  | [] => [n]
  | m :: t => if n < m then n :: m :: t else if n = m then m :: t else m :: sortIn n t

def State.activeCores (s : State) : List Nat :=
  ((s.cores.map (·.1) ++ s.ctxs.map fun p => coreOf p.1).foldr sortIn []).filter s.coreBusy

/-- The active core whose elapsed count is least, and among equals the lowest: cores stay in one cycle (log entry 6). -/
def State.nextCore (s : State) : Option Nat :=
  s.activeCores.foldl (fun (b : Option Nat) c => match b with
    | none => some c
    | some d => if max s.now (s.core c).el < max s.now (s.core d).el then some c else b) none

/-! ### Events that no rule orders -/

/-- Events of a context that may come. -/
def State.ctxEvents (s : State) (c : Nat) : List Instr :=
  let x := s.ctx c
  (List.range x.port.length).map (.accessPerform c)
    ++ (if x.mode = .yielded then [.nextWake c] else [])
    ++ (match x.working with
      | some (_, p) => if p.stage = 0 then [.preparationBegin c] else if p.stage = 1 then [.preparationTrue c] else []
      | none => [])
    ++ if x.wbacks = [] then [] else [.writeBackPerform c]

/-- Events of the engines of a core that may come. -/
def State.engineEvents (s : State) (core : Nat) : List Instr :=
  (s.core core).queues.flatMap fun (p : Nat × Queue) =>
    if p.2.cmds = [] ∨ p.2.halted.isSome then []
    else if p.1 = 13 then
      (List.range p.2.cmds.length).map (.lockHomeAccept core) ++ [.engineCommandComplete core 13]
    else [.engineCommandBegin core p.1, .copyPointerWrite core p.1, .engineCommandComplete core p.1]

/-- Events of a lock home that may come. -/
def homeEvents (p : Nat × Cluster) : List Instr :=
  p.2.home.ages.map (fun a => .ageCountReceive p.1 a.1) ++ p.2.home.cancels.map fun a => .woundCancelArrival p.1 a.1

/-- Events of launches and queues that may come. -/
def State.launchEvents (s : State) : List Instr :=
  (s.dev.hwq.flatMap fun (p : Nat × HwQueue) =>
    (if p.2.state = 1 ∨ p.2.state = 2 then (List.range Config.clusters).map (.launchAdmit p.1) else [])
      ++ if p.2.state = 2 then [.watchdogExpiry p.1] else [])
    ++ s.dev.launches.map (fun p => .launchRetire p.1)
    ++ s.dev.domains.map fun d => .trapQueueRetry d.node

/-- Events of the host port, the die links and the units under test that may come; whether a test finds its unit failing is open
(R355, R357; log entry 7). -/
def Dev.events (turns : Nat) (d : Dev) : List Instr :=
  d.inbound.flatMap (fun x => x.routes.map (.routeAck x.seq))
    ++ (d.links.filterMap fun (p : Nat × Link) => if p.2.retrain then some (.linkRetrainComplete p.1) else none)
    ++ d.errs.filterMap fun (p : Nat × UnitErr) =>
      if p.2.testing then some (.selfTestComplete (p.1 % 8) (p.1 / 8) (if Config.freeBool turns then 1 else 0)) else none

/-- The command that firmware has taken from the mailbox and not answered goes on (R331, R337, R369). -/
def State.mailboxEvents (s : State) : List Instr := if s.dev.mbBusy then (commandOf (s.mbWord 0 % 256)).toList else []

/-- Every event of the package that may come now (DESIGN CHOICE, log entries 6, 78). -/
def State.mayCome (s : State) : List Instr :=
  s.ctxs.flatMap (fun p => s.ctxEvents p.1) ++ s.cores.flatMap (fun p => s.engineEvents p.1)
    ++ s.clusters.flatMap homeEvents ++ s.launchEvents ++ s.dev.events s.turns ++ s.mailboxEvents

/-- The first event of a list that changes the machine (DESIGN CHOICE, log entry 6). -/
def firstChange (s : State) : List Instr → Option Result
  | [] => none
  | i :: t => match exec i s with
    | .next s' => if s' = s then firstChange s t else some (.next s')
    | r => some r

/-- Core turns between two such events (log entry 6). -/
def paceOf : Nat := 16

/-- A reduction that has stood for as many cycles of the cores as this is due: every write performs in finite time (R266)
(DESIGN CHOICE, log entry 91). -/
def redAge : Nat := 4096
def State.redDue (s : State) : Bool := s.red.any fun e => e.born + redAge ≤ s.now

/-- The turn when nothing from outside says whose it is: after every sixteenth turn of a core, or where no core has one, one of the
events that no rule orders, in rotation; else the next core's; and else a cycle of the IOD's clock (log entry 6). -/
def State.freeTurn (s : State) : Result :=
  let core := s.nextCore
  let s' := { s with pace := 0, turns := s.turns + 1 }
  let is := s.mayCome
  let r := if s.pace < paceOf ∧ core.isSome then none
    else firstChange s' (is.drop (s.turns % max 1 is.length) ++ is.take (s.turns % max 1 is.length))
  if s.redDue then done s (s.drainRed fun e => e.born + redAge ≤ s.now)
  else match r, core with
    | some r, _ => r
    | none, some c => State.coreTurn { s with pace := if s.pace < paceOf then s.pace + 1 else 0 } c
    | none, none => .next { s'.iodTick with now := s.now + 1 }

/-- An entry of the agenda is taken; only an event or a device command stands there (log entry 6)
(DESIGN CHOICE, log entry 79). -/
def State.agendaTurn (s : State) : Turn → Result
  | .event i => match slotOf i with
    | none => firstSlot (exec i s)
    | some _ => .next s
  | .core c => s.coreTurn c

/-- A module without power, or halted by its start, only starts (R366, R372). -/
def State.offTurn (s : State) : Result :=
  match s.agenda with
  | .event (.startModule copies fails other cores clusters hbms channels) :: t =>
    exec (.startModule copies fails other cores clusters hbms channels) { s with agenda := t }
  | _ => .fault .halted

/-! ### Placing one instruction where it is fetched next -/

/-- Node, page tables and code of the context that `placeWord` binds (log entry 14). -/
def placeNode : Nat := 64
def placeRoot : Nat := 0x10000
def placeCode : Nat := 0x20000

/-- The first slot of a kind. -/
def slotAt : SlotKind → Nat
  | .sync => 0 | .ctrl => 1 | .sca => 2 | .mem => 4 | .vec => 6 | .xfm => 8 | .scl => 9 | .mtx => 10 | .eng => 11 | .micro => 12

/-- The slot kind as which `decodeTableWord` reads a word. -/
def kindRead (w : Nat) : List SlotKind → Option SlotKind
  | [] => none
  | k :: ks => match decodeSlot k w with
    | .ok _ => some k
    | .bad _ => kindRead w ks

/-- Cells that hold numbers as words of `n` bytes at an HBM address. -/
def hbmCells (n pa : Nat) (ws : List Nat) : List (Nat × Byte) :=
  (ws.zipIdx).flatMap fun p => cellsAt (keysFrom (keyOf (.hbm (pa + n * p.2))) n) p.1

/-- Page tables that map the first gigabyte onto HBM's: three entries of eight bytes (R327, R328). -/
def placeTables : List (Nat × Byte) :=
  hbmCells 8 placeRoot [0x11001] ++ hbmCells 8 0x11000 [0x12001] ++ hbmCells 8 0x12000 [0xF]

/-- Code of one slot's word as a literal run of one bundle (R58). -/
def placeLiteral (k : SlotKind) (w : Nat) : List (Nat × Byte) :=
  let i := slotAt k
  hbmCells 2 placeCode ((2 ^ (4 + i) + 4) :: (List.range (slotWords i)).map fun j => bits w (16 * j) 16)

/-- The context that runs the word: the first of core 0, at reset and bound to a launch (DESIGN CHOICE, log entry 14). -/
def placeCtx (compat : Bool) : Ctx :=
  { Ctx.init with mode := .running, launch := 1, stage := 0, inst := 1, node := placeNode, gang := 1, compat := compat, seq := 1
                  cbase := placeCode, tgrant := 0xFFFF, pc := 0, inRun := true }

/-- A launch with work for it (DESIGN CHOICE, log entry 14). -/
def placeLaunch (compat : Bool) : Launch :=
  { queue := 0, path := [(placeNode, 1024)], prio := 0, cmpat := 0, llim := 4096, node := placeNode, priv := false, wdlim := 0
    clumask := 2 ^ 32 - 1, ctxmax := 1024, tqbase := 0, htbase := 0, htlen := 0
    stages := [{ cbase := placeCode, dbase := 0, dictn := 0, maps := [], qbase := 0, qlen := 0, prod := 0, tgrant := 0xFFFF
                 gang := 0, barb := 0, barc := 0, imax := 1 }]
    grid := 2, fuse := false, compat := compat, carries := [], tag := 0, doneVa := 0, nextIdx := 0, back := [], clusters := [0]
    tails := [], ran := [0], stageQ := [] }

/-- Core 0 at reset, and with a routine at the word where it is a micro-instruction (R158) (DESIGN CHOICE, log entry 14). -/
def placeCore (k : SlotKind) (w : Nat) (i : Instr) : Core :=
  match k with
  | .micro =>
    let r := { Routine.start 0 0 1 0 (List.replicate 8 0) [] with sclA := [0], sclB := [0] }
    let e : MatrixEntry := { ctx := 0, at' := 0, op := .call 16 0 (List.replicate 8 0) [], mark := 0, begun := true }
    { Core.init with mps := [(0, w)], entries := [(16, 0, 1, 0)], routine := some r, mq := [e], cyc := (r.acts i).getD 0 }
  | _ => Core.init

/-- The machine with a word placed where core 0 fetches next, bound and translated, and with core 0's turn next
(DESIGN CHOICE, log entry 14). -/
def State.placeWord (s : State) (nbits w : Nat) : State :=
  match kindRead w (slotsOfWidth nbits), decodeTableWord nbits w with
  | some k, some i =>
    let compat := match i with | .acbrd .. => true | .acbwr .. => true | _ => false
    let cells := placeTables ++ match k with | .micro => [] | _ => placeLiteral k w
    let t : Trans := { holder := 0, space := placeNode + 1, base := 0, size := 2 ^ 30, loc := 0, pa := 0, w := true, dup := false
                       tol := false, pa2 := 0, entry := keyOf (.hbm 0x12000), path := [] }
    let d : Domain := { node := placeNode, root := placeRoot, loc := 0, pasid := 0, live := true, subst := 0
                        pidx := 0, rovf := 0, fovf := 0 }
    { s with
      ctxs := [(0, placeCtx compat)], cores := [(0, placeCore k w i)]
      dev := { s.dev with domains := [d], launches := [(1, placeLaunch compat)], nextLaunch := 2, nextInst := 2, powered := true
                          duty := 16 }
      mem := cells.foldl (fun m c => tabSet 0 m c.1 c.2) s.mem, wlog := [], tlb := [t], fl := Flight.init
      agenda := [.core 0], pace := 0 }
  | _, _ => s

end Sys2Proof.Machine
end

