-- ==== Sys2Proof/Machine/Step.lean ====
section
/-! DEFINITION. One step of the machine, and one instruction placed where the machine fetches next. -/

namespace Sys2Proof.Machine

/-- ONE STEP: the next slot of the bundle in flight, else the head of the agenda, else the machine's own next turn. -/
def step (s : State) : Host.Outcome State Fault Refusal :=
  if !s.dev.powered then s.offTurn
  else if s.fl.live then s.runSlot
  else match s.agenda with
    | t :: rest => State.agendaTurn { s with agenda := rest } t
    | [] => s.freeTurn

/-- The machine with the instruction of a table word where `step` fetches next (log entry 14). -/
def State.withFetchWord (s : State) (nbits w : Nat) : State := s.placeWord nbits w

end Sys2Proof.Machine
end

