-- ==== Sys2Proof/Safety.lean ====
section
/-! DEFINITION. The terms in which claims speak of steps: a step that answers a next state, the invariant that every step keeps,
and what stays the same. -/

namespace Sys2Proof.Machine

/-- An outcome is a next state. -/
def Completes (r : Result) : Prop := ∃ t, r = .next t

/-- An outcome is a next state that a test accepts. -/
def Gives (r : Result) (p : State → Prop) : Prop := ∃ t, r = .next t ∧ p t

/-- What a meaning that began in `s` and ends in `r` answers: the writes of its log made, and who waits for them woken. -/
def State.closed (r s : State) : State := { r with mem := commitLog s.mem r.wlog, wlog := [], agenda := r.wakes ++ r.agenda }

/-- Between steps the memory stands in its canonical form, and no write is left in the log of a step. -/
def State.Inv (s : State) : Prop := Memory.wf s.mem = true ∧ s.wlog = []

/-- A write to a byte is dropped: the byte lies in PM that a kill has frozen or a teardown has zeroed (R238). -/
def State.drops (s : State) (k : Nat) : Bool := (pmCoreOf k).any fun c => (s.core c).sealed

/-- Every byte of memory reads as before. -/
def SameBytes (s t : State) : Prop := ∀ k, t.byte k = s.byte k

/-- Every byte of memory outside a list of keys reads as before. -/
def SameBytesBut (keys : List Nat) (s t : State) : Prop := ∀ k, k ∉ keys → t.byte k = s.byte k

/-! ### Operands of the slot in flight: a register, or its captured bytes where the slot resumes with a capture (R50, R215) -/

/-- A scalar operand that the frame holds `off` bytes into the slot's capture. -/
def State.sArg (s : State) (off : Nat) (r : BitVec 6) : Word64 :=
  match s.fl.cap with
  | some f => BitVec.ofNat 64 (frameNat f (slotBase s.fl.slot + off) 8)
  | none => s.me.sreg r.toNat

/-- An address operand. -/
def State.aArg (s : State) (off : Nat) (r : BitVec 5) : Word64 :=
  match s.fl.cap with
  | some f => BitVec.ofNat 64 (frameNat f (slotBase s.fl.slot + off) 8)
  | none => s.me.areg r.toNat

/-- A vector operand. -/
def State.vArg (s : State) (off : Nat) (r : BitVec 9) : Vec :=
  match s.fl.cap with
  | some f => BitVec.ofNat 1024 (frameNat f (slotBase s.fl.slot + off) 128)
  | none => s.me.vreg r.toNat

/-- A mask operand. -/
def State.mArg (s : State) (off : Nat) (r : BitVec 4) : Mask :=
  match s.fl.cap with
  | some f => BitVec.ofNat 128 (frameNat f (slotBase s.fl.slot + off) 16)
  | none => s.me.mreg r.toNat

/-- A parameter operand. -/
def State.pArg (s : State) (r : BitVec 3) : Word64 := s.opP r.toNat

/-! ### Elements of vectors and masks -/

/-- Bit `j` of the mask operand; without one every element is active (R131). -/
def State.acts (s : State) (m : BitVec 4) (men : BitVec 1) (j : Nat) : Bool := men == 0 || (s.mArg 0x180 m).getLsbD j

/-- Element `j` of a vector register at a width of `w` bits (R22). -/
def lane (v : Vec) (w j : Nat) : Nat := elemAt v.toNat w j

/-- An instruction puts one vector result on its way: `n` elements of `w` bits, an active one with the code of `f` and any other with the
element of `old`, zeros above them; the flags of the active elements merge (R131, R132). -/
def Lanes (s : State) (i : Instr) (vd : BitVec 9) (lat w n : Nat) (act : Nat → Bool) (old : Vec) (f : Nat → Res Nat) : Prop :=
  ∃ (v : Vec) (flags : Nat), exec i s = .next ((s.write (.v vd.toNat v) lat).mergeSlot flags)
    ∧ (∀ j, j < n → lane v w j = if act j then (f j).val % 2 ^ w else lane old w j)
    ∧ (∀ b, w * n ≤ b → v.getLsbD b = false)
    ∧ ∀ b, flags.testBit b = true ↔ ∃ j, j < n ∧ act j = true ∧ (f j).flags.testBit b = true

/-- An instruction puts one mask on its way: a bit for each of `n` elements that is active and passes (R131). -/
def MaskOf (s : State) (i : Instr) (md : BitVec 4) (lat n : Nat) (act f : Nat → Bool) : Prop :=
  ∃ k : Mask, exec i s = .next (s.write (.m md.toNat k) lat) ∧ ∀ j, j < 128 → k.getLsbD j = (decide (j < n) && act j && f j)

/-- Two results put on their way to a tile and its control register: rows of `n` bytes, element `e` of row `r` with code `code r e`
(R45, R148). -/
def TileOut (s t : State) (tile lat rows n w count : Nat) (code : Nat → Nat → Nat) (tc : BitVec 32) : Prop :=
  ∃ runs : List (Nat × List Byte),
    t = (s.expect (s.fl.t + lat) 0 .xfm true false (.tile tile runs)).expect (s.fl.t + lat) 0 .xfm true false (.tctl tile tc)
      ∧ runs.length = rows
      ∧ ∀ r run, runs[r]? = some run → run.1 = 128 * r ∧ run.2.length = n ∧ ∀ e, e < count → elemAt (leNat run.2) w e = code r e % 2 ^ w

/-! ### The memory port -/

/-- An access enters the port of the context in flight and nothing else changes: it stands behind every access of earlier bundles
and behind those of its own bundle that go before it, ahead of the first of its bundle that goes after it (R111). -/
def Queued (s t : State) (i : PortItem) : Prop :=
  (∃ before after, s.me.port = before ++ after ∧ t.me.port = before ++ i :: after
    ∧ (∀ x ∈ before, ¬(x.bundle = i.bundle ∧ i.rank < x.rank))
    ∧ ∀ x ∈ after.head?, x.bundle = i.bundle ∧ i.rank < x.rank)
  ∧ t = { s.setMe { s.me with port := t.me.port } with portId := s.portId + 1 }

/-! ### The work of engines -/

/-- Steps, one for each item of a list, lead from one state to another. -/
def Through {α : Type} (step : α → State → State → Prop) : List α → State → State → Prop
  | [], a, b => b = a
  | x :: xs, a, c => ∃ b, step x a b ∧ Through step xs b c

/-- Bytes of places as memory holds them, and no byte changes by their reading: where no reduction stands on their lines, and no data of
the package is bad. -/
def Reads (p : Placed) (bs : List Byte) (a b : State) : Prop :=
  ∃ srcs ts, p = .ok (srcs, ts) ∧ bs.length = srcs.length
    ∧ (a.anyBad = false → a.redOn (placedKeys srcs) = false →
      bs = srcs.map (srcByte a.byte) ∧ SameBytes a b ∧ b.red = a.red ∧ b.anyBad = false)

/-- Bytes written at places, those without a place dropped, and no other byte changes: where no reduction stands on their lines and no page
of theirs moves. -/
def Writes (p : Placed) (bs : List Byte) (a b : State) : Prop :=
  ∃ places via, p = .ok (places, via)
    ∧ (a.anyBad = false → a.redOn (placedKeys places) = false → (∀ tr ∈ via, tr.dup = false) →
      SameBytesBut (placedKeys places) a b ∧ b.red = a.red ∧ b.anyBad = false
        ∧ ((placedKeys places).Nodup → ∀ (j k : Nat) (x : Byte), (places[j]?).bind ByteSrc.place = some k → bs[j]? = some x →
          a.drops k = false → b.byte k = x))

end Sys2Proof.Machine
end

