-- ==== Sys2Proof/Certificates/Slice0/Obligations.lean ====
section
/-! DEFINITION. The statements for the provers: what the numbered rules of spec/ say the machine does, over every state and every
operand that meets the hypotheses. A register that an instruction writes takes its value when the write retires, so a result is
stated as the write put on its way with its latency; `WriteOnItsWay` and `DueWritesRetire` say what that is. -/

open Sys2Proof Sys2Proof.Machine

/-! ### The machine: reset, the step, decoding, memory -/

/-- R42: what reset leaves in every core and cluster: zero bytes of PM and CSM, no converted way and an empty L1, +0 in the
accumulators with every slot free and no handle mapped, no loadable routine, zero tiles, tile control registers and flags, and scale
latches that read 1.0. The model's own choices: Values that no rule gives at reset are not part of it (log entries 1 to 4). -/
def Obligations.ResetLeavesCoresAndClustersEmpty : Prop :=
  ∀ core cluster off c n : Nat, n < 16 →
    let s := State.reset
    s.byte (keyOf (.pm core off)) = 0 ∧ s.byte (keyOf (.csm cluster off)) = 0
      ∧ (s.core core).nw = 0 ∧ (s.core core).l1 = []
      ∧ tabGet 0 (s.core core).acm off = 0 ∧ n ∈ (s.core core).free ∧ tabGet 0 (s.core core).mps off = 0
      ∧ (s.core core).entries = [] ∧ (s.ctx c).handles = []
      ∧ (s.core core).tileByte n off = 0 ∧ (s.core core).tctlOf n = 0 ∧ (s.core core).flagOf off = 0
      ∧ ∀ side row, sc10Value ((s.core core).latchAt side row (s.core core).cyc) = .fin false 16 16

/-- The invariant of the machine holds at reset. The model's own choices: Both parts of the invariant are about the model's own
representation of memory (log entries 3 and 5). -/
def Obligations.ResetMeetsInvariant : Prop := State.reset.Inv

/-- Every step keeps the invariant: memory in its canonical form, with no write left in the log of the step. The model's own
choices: The invariant is the model's (log entries 3 and 5). -/
def Obligations.EveryStepKeepsInvariant : Prop := ∀ s t : State, s.Inv → step s = .next t → t.Inv

/-- R366, R372: every instruction, event and command answers a next state in every state, and so does a step of a module that has power.
A module without power whose next turn is no start is halted, and a step stops in no other way. The model's own choices: The agenda is
the model's (log entry 6). -/
def Obligations.StepsStopOnlyWithoutPower : Prop :=
  (∀ (i : Instr) (s : State), Completes (exec i s))
    ∧ ∀ s : State, (s.dev.powered = true → Completes (step s))
      ∧ (s.dev.powered = false →
        (∀ copies fails other cores clusters hbms channels,
          s.agenda.head? ≠ some (.event (.startModule copies fails other cores clusters hbms channels))) → step s = .fault .halted)
      ∧ (∀ f, step s = .fault f → s.dev.powered = false ∧ f = .halted) ∧ ∀ r, step s ≠ .refused r

/-- R64: re-reading the bits of a slot instruction whose operands its encoding admits gives that instruction, with every operand at
every value. -/
def Obligations.DecodeOfEncodeIsTheInstruction : Prop :=
  ∀ (i : Instr) (k : SlotKind), slotOf i = some k → admits i = true →
    encode i < 2 ^ slotWidth k ∧ decodeSlot k (encode i) = .ok i

/-- R64: a word that decodes is the word of the instruction read, so no two words of a slot give one instruction, and what is read is
admitted and stands in that slot. -/
def Obligations.DecodedWordIsTheEncoding : Prop :=
  ∀ (k : SlotKind) (w : Nat) (i : Instr), decodeSlot k w = .ok i → encode i = w ∧ slotOf i = some k ∧ admits i = true

/-- Words that spec/ writes out beside the instruction they stand for, one or more of each slot. -/
def Obligations.WordsOfTheSpecDecode : Prop :=
  decodeSlot .sync 0x1182 = .ok (.wait 3 2) ∧ decodeSlot .sync 0x3670 = .ok (.postp 3 7 0)
    ∧ decodeSlot .sync 0x4443 = .ok (.banklk 4 8 3) ∧ decodeSlot .ctrl 0x0893FFF4 = .ok (.brc 9 1 0x1FFF4)
    ∧ decodeSlot .ctrl 0x18C3F005 = .ok (.loop 1 1 63 5) ∧ decodeSlot .ctrl 0x50A10000 = .ok (.srd 10 0x10)
    ∧ decodeSlot .sca 0x0C410010 = .ok (.addi 4 4 16) ∧ decodeSlot .sca 0x74C43F80 = .ok (.movhi 12 1 0x3F80)
    ∧ decodeSlot .mem 0x040051018102 = .ok (.ld 0 0 5 2 12 0 0 0x102)
    ∧ decodeSlot .mem 0x0A0072000920 = .ok (.st 2 0 7 4 1 0 0x120)
    ∧ decodeSlot .vec 0x101404028000 = .ok (.vfma 10 4 5 0 0 0)
    ∧ decodeSlot .vec 0x400604028002 = .ok (.vcmp 3 4 5 0 0 0 2)
    ∧ decodeSlot .xfm 0x3147 = .ok (.xexp 8 10 7) ∧ decodeSlot .mtx 0x118000 = .ok (.acz 3)
    ∧ decodeSlot .mtx 0x3918A0 = .ok (.acbrd 2 3 40 0) ∧ decodeSlot .eng 0x0948 = .ok (.cpy 5 4)

/-- R50: a step with a bundle in flight executes the instruction decoded for its next slot, in ascending slot order; then the next
slot is to come, or the bundle ends, unless the slot took a fault, which ends the flight. The model's own choices: That a step holds
one slot is the model's granularity (log entry 5). -/
def Obligations.StepRunsDecodedSlot : Prop :=
  ∀ (s t : State) (k : Nat) (i : Instr) (rest : List (Nat × Instr)),
    s.dev.powered = true → s.fl.live = true → s.fl.rest = (k, i) :: rest → exec i (s.atSlot k) = .next t →
      (t.fl.live = false → step s = .next t)
      ∧ (t.fl.live = true → rest ≠ [] → step s = .next { t with fl := { t.fl with rest := rest } })
      ∧ (t.fl.live = true → rest = [] → step s = done { t with fl := { t.fl with rest := [] } }
          (State.finish { t with fl := { t.fl with rest := [] } }))

/-- R5, R238: bytes stored are read back after the step, and every other byte reads as before; PM that a kill has frozen keeps what
it held. -/
def Obligations.StoredBytesReadBack : Prop :=
  ∀ (s : State) (cells : List (Nat × Byte)), s.wlog = [] → (cells.map (·.1)).Nodup →
    ∃ t, done s (s.pokes cells) = .next t
      ∧ (∀ k b, (k, b) ∈ cells → s.drops k = false → t.byte k = b)
      ∧ (∀ k, s.drops k = true → t.byte k = s.byte k)
      ∧ SameBytesBut (cells.map (·.1)) s t

/-- R63: the no-op of each slot changes nothing; nor does the refresh of a memory bank, which touches only row buffers (R255). The
model's own choices: That a refresh changes nothing else than row buffers, which the model does not hold, is log entry 58. -/
def Obligations.NoOpsChangeNothing : Prop :=
  ∀ (s : State) (bank : Nat), s.wlog = [] →
    ∀ i ∈ [Instr.snop, .cnop, .scnop, .lnop, .vnop, .xnop, .slnop, .mnop, .enop, .hbmRefresh bank], exec i s = .next s

/-- R54: a register write with latency L is put on its way to take effect L cycles after issue, among those on their way in the order
of their cycles and behind those of its own cycle; nothing else changes. -/
def Obligations.WriteOnItsWay : Prop :=
  ∀ (s : State) (w : RegWrite) (lat : Nat),
    let t := s.write w lat
    let p : Pend := { due := s.fl.t + lat, kind := .fixed, id := 0, got := true, ready := true, freeze := false, w := w }
    (∃ before after, s.me.pend = before ++ after ∧ t.me.pend = before ++ p :: after
        ∧ (s.me.pend.Pairwise (fun a b => a.due ≤ b.due) → (∀ q ∈ before, q.due ≤ p.due) ∧ ∀ q ∈ after, p.due < q.due))
      ∧ { t.me with pend := s.me.pend } = s.me ∧ (∀ c, c ≠ s.fl.ctx → t.ctx c = s.ctx c)
      ∧ { t with ctxs := s.ctxs } = s

/-- R54, R107, R148: the first write on its way retires when its cycle has come and its data is there: the register takes the value,
and no other register, context, core or byte of memory changes. Of the runs of bytes of a tile the later one counts. WRITE_RETIRE
retires writes of fixed latency, LANDING loads, and XFM_RETIRE results of the transform units. The model's own choices: A cause that
stands already among those pending is kept once (log entry 84). -/
def Obligations.DueWritesRetire : Prop :=
  ∀ (s : State) (c : Nat) (p : Pend) (rest : List Pend), s.wlog = [] → (s.ctx c).pend = p :: rest → p.ready = true →
    p.due ≤ (s.core (coreOf c)).cyc →
      let i : Instr := match p.kind with
        | .fixed => .writeRetire c
        | .xfm => .xfmRetire c
        | _ => .landing c
      let x := s.ctx c
      ∃ t, exec i s = .next t ∧ SameBytes s t ∧ (∀ d, d ≠ c → t.ctx d = s.ctx d)
        ∧ (∀ k, k ≠ coreOf c → t.core k = s.core k) ∧ t.fl = s.fl ∧ t.dev = s.dev
        ∧ match p.w with
          | .s n v => t.ctx c = { x with pend := rest, s := (t.ctx c).s } ∧ t.core (coreOf c) = s.core (coreOf c)
              ∧ ∀ m, (t.ctx c).sreg m = if m = n then v else x.sreg m
          | .a n v => t.ctx c = { x with pend := rest, a := (t.ctx c).a } ∧ t.core (coreOf c) = s.core (coreOf c)
              ∧ ∀ m, (t.ctx c).areg m = if m = n then v else x.areg m
          | .v n v => t.ctx c = { x with pend := rest, v := (t.ctx c).v } ∧ t.core (coreOf c) = s.core (coreOf c)
              ∧ ∀ m, (t.ctx c).vreg m = if m = n then v else x.vreg m
          | .m n v => t.ctx c = { x with pend := rest, m := (t.ctx c).m } ∧ t.core (coreOf c) = s.core (coreOf c)
              ∧ ∀ m, (t.ctx c).mreg m = if m = n then v else x.mreg m
          | .p n v => t.ctx c = { x with pend := rest, p := (t.ctx c).p } ∧ t.core (coreOf c) = s.core (coreOf c)
              ∧ ∀ m, (t.ctx c).preg m = if m = n then v else x.preg m
          | .tctl n v => t.ctx c = { x with pend := rest }
              ∧ t.core (coreOf c) = { s.core (coreOf c) with tctl := (t.core (coreOf c)).tctl }
              ∧ ∀ m, (t.core (coreOf c)).tctlOf m = if m = n then v else (s.core (coreOf c)).tctlOf m
          | .tile n runs => t.ctx c = { x with pend := rest }
              ∧ t.core (coreOf c) = { s.core (coreOf c) with tiles := (t.core (coreOf c)).tiles }
              ∧ ∀ m o, (t.core (coreOf c)).tileByte m o =
                match runs.reverse.find? fun r => decide (16384 * n + r.1 ≤ 16384 * m + o ∧ 16384 * m + o < 16384 * n + r.1 + r.2.length) with
                | some r => r.2.getD (16384 * m + o - (16384 * n + r.1)) 0
                | none => (s.core (coreOf c)).tileByte m o
          | .phase map gen => t.ctx c = { x with pend := rest, phase := map, phgen := gen }
              ∧ t.core (coreOf c) = s.core (coreOf c)
          | .count ps => t.ctx c = { x with pend := rest, cq := ps.foldl addCount x.cq }
              ∧ t.core (coreOf c) = s.core (coreOf c)
          | .fail e => t.core (coreOf c) = s.core (coreOf c)
              ∧ t.ctx c = { x with pend := rest, boundary := if e ∈ x.boundary then x.boundary else addCause x.boundary e }

/-- R50, R57 to R60, R215: where the check of a context's next bundle lets it issue, BUNDLE_FETCH puts in flight the instructions
that the bundle's own image, gathered at the PC, decodes to: all of them, or for a bundle that is re-entered those from its resume
slot on. No-ops, which have no effect, need no step of their own. The model's own choices: The granularity is log entry 5, the order
of the checks log entry 71. -/
def Obligations.FetchIssuesDecodedBundle : Prop :=
  ∀ (s s' : State) (c : Nat), s.fl.live = false → (s.ctx c).drain = none → s.tryIssue c = (s', .go) → s'.fl.live = true →
    ∃ (u : State) (im : Image) (slots : Slots) (t : State),
      (s.setCtx c { s.ctx c with settling := false }).gather c = (u, .ok im) ∧ decodeImage (u.ctx c) im = .ok slots ∧ exec (.bundleFetch c) s = .next t
        ∧ t.fl.live = true ∧ t.fl.ctx = c ∧ t.fl.pc = im.pc ∧ t.fl.lit = im.lit
        ∧ let left := slots.filter fun p => decide (((u.ctx c).resume.map (·.sres)).getD 0 ≤ p.1) && !isNop p.2
          t.fl.rest = if left = [] then [(0, .snop)] else left

/-! ### SCA slots -/

/-- R97: the integer instructions on any operands, with their latencies: arithmetic, the bitwise instructions and the shifts, whose count
is `b[5:0]` or SH, minimum, maximum, comparison and selection, in the signed and the unsigned forms. The state is otherwise the one
before. -/
def Obligations.ScalarIntegerOperations : Prop :=
  (∀ (s : State) (d a b : BitVec 6) (imm : BitVec 14), s.wlog = [] →
      let x := s.sArg 0 a
      let y := s.sArg 8 b
      let put (v : Word64) (lat : Nat) : Result := .next (s.write (.s d.toNat v) lat)
      exec (.add d a b) s = put (x + y) 1
        ∧ exec (.sub d a b) s = put (x - y) 1
        ∧ exec (.addi d a imm) s = put (x + imm.signExtend 64) 1
        ∧ exec (.mul d a b) s = put (x * y) 3
        ∧ exec (.mulh d a b) s = put ((x.signExtend 128 * y.signExtend 128).extractLsb' 64 64) 3
        ∧ exec (.divq d a b) s = put (if y = 0 then BitVec.allOnes 64 else x.sdiv y) 18
        ∧ exec (.remq d a b) s = put (if y = 0 then x else x.srem y) 18)
    ∧ (∀ (s : State) (d a b sh : BitVec 6) (imm : BitVec 14), s.wlog = [] →
        let x := s.sArg 0 a
        let y := s.sArg 8 b
        let n := (y.extractLsb' 0 6).toNat
        let put (v : Word64) : Result := .next (s.write (.s d.toNat v) 1)
        exec (.and d a b) s = put (x &&& y) ∧ exec (.or d a b) s = put (x ||| y) ∧ exec (.xor d a b) s = put (x ^^^ y)
          ∧ exec (.andi d a imm) s = put (x &&& imm.setWidth 64)
          ∧ exec (.ori d a imm) s = put (x ||| imm.setWidth 64)
          ∧ exec (.xori d a imm) s = put (x ^^^ imm.setWidth 64)
          ∧ exec (.shl d a b) s = put (x <<< n) ∧ exec (.shr d a b) s = put (x >>> n)
          ∧ exec (.sra d a b) s = put (x.sshiftRight n)
          ∧ exec (.shli d a sh) s = put (x <<< sh.toNat) ∧ exec (.shri d a sh) s = put (x >>> sh.toNat)
          ∧ exec (.srai d a sh) s = put (x.sshiftRight sh.toNat))
    ∧ (∀ (s : State) (d a b c : BitVec 6), s.wlog = [] →
        let x := s.sArg 0 a
        let y := s.sArg 8 b
        let z := s.sArg 16 c
        let put (v : Word64) : Result := .next (s.write (.s d.toNat v) 1)
        exec (.min d a b) s = put (if y.slt x then y else x) ∧ exec (.max d a b) s = put (if x.slt y then y else x)
          ∧ exec (.minn d a b) s = put (if y.ult x then y else x) ∧ exec (.maxn d a b) s = put (if x.ult y then y else x)
          ∧ exec (.cmpeq d a b) s = put (if x = y then 1 else 0)
          ∧ exec (.cmplt d a b) s = put (if x.slt y then 1 else 0)
          ∧ exec (.cmpltn d a b) s = put (if x.ult y then 1 else 0)
          ∧ exec (.sel d a b c) s = put (if x ≠ 0 then y else z))

/-- R98, R99, R102, R103: MOVI, MOVHI, CLZ, POPC, BFX and BFI, bit by bit for the field instructions, where LEN is the field's value plus 1,
and a field that reaches past bit 63 is not well formed; the address instructions, and AMOV in both directions; TSHAPE writes the tile
control register field by field, MPAR the parameter register. -/
def Obligations.ScalarFieldsAddressesAndShapes : Prop :=
  (∀ (s : State) (d a pos len : BitVec 6) (q : BitVec 2) (imm : BitVec 20) (half : BitVec 16) (sgn : BitVec 1), s.wlog = [] →
      let x := s.sArg 0 a
      let old := s.sArg 24 d
      let put (v : Word64) : Result := .next (s.write (.s d.toNat v) 1)
      exec (.movi d imm) s = put (imm.signExtend 64)
        ∧ (∃ v, exec (.movhi d q half) s = put v ∧ ∀ i, i < 64 → v.getLsbD i =
            if 16 * q.toNat ≤ i ∧ i < 16 * q.toNat + 16 then half.getLsbD (i - 16 * q.toNat) else old.getLsbD i)
        ∧ (∃ n, exec (.clz d a) s = put (BitVec.ofNat 64 n) ∧ n ≤ 64 ∧ (n < 64 → x.getLsbD (63 - n) = true)
            ∧ ∀ i, i < 64 → 64 ≤ i + n → x.getLsbD i = false)
        ∧ exec (.popc d a) s = put (BitVec.ofNat 64 (((List.range 64).filter fun i => x.getLsbD i).length))
        ∧ (pos.toNat + len.toNat + 1 ≤ 64 →
            (∃ v, exec (.bfx d a pos len sgn) s = put v ∧ ∀ i, i < 64 → v.getLsbD i =
              if i ≤ len.toNat then x.getLsbD (pos.toNat + i) else sgn == 1 && x.getLsbD (pos.toNat + len.toNat))
            ∧ ∃ v, exec (.bfi d a pos len) s = put v ∧ ∀ i, i < 64 → v.getLsbD i =
              if pos.toNat ≤ i ∧ i ≤ pos.toNat + len.toNat then x.getLsbD (i - pos.toNat) else old.getLsbD i))
    ∧ (∀ (s : State) (ad aa : BitVec 5) (r : BitVec 6) (sh : BitVec 3), s.wlog = [] →
        exec (.aadd ad aa r) s = .next (s.write (.a ad.toNat (s.aArg 0 aa + s.sArg 8 r)) 1)
          ∧ exec (.alea ad aa r sh) s = .next (s.write (.a ad.toNat (s.aArg 0 aa + s.sArg 8 r <<< sh.toNat)) 1)
          ∧ exec (.amov ad 0 r) s = .next (s.write (.a ad.toNat (s.sArg 8 r)) 1)
          ∧ exec (.amov ad 1 r) s = .next (s.write (.s r.toNat (s.aArg 0 ad)) 1))
    ∧ (∀ (s : State) (t : BitVec 4) (fmt : BitVec 5) (rows bpr : BitVec 7) (gsz : BitVec 2) (p : BitVec 3) (r : BitVec 6),
        s.wlog = [] →
          (∃ v : BitVec 32, exec (.tshape t fmt rows bpr gsz) s = .next (s.write (.tctl t.toNat v) 1)
            ∧ tcFmt v = fmt.toNat ∧ tcRows v = rows.toNat ∧ tcBpr v = bpr.toNat ∧ tcGsz v = gsz.toNat)
          ∧ exec (.mpar p r) s = .next (s.write (.p p.toNat (s.sArg 8 r)) 1))

/-- R100: scalar FP32 arithmetic on the low halves of the operands, rounded once; zeros stand above the result, and the flags merge
when the slot commits (R33). The model's own choices: FMA of a zero and an infinity raises INV with a NaN as addend too (log entry
87). -/
def Obligations.ScalarFloatArithmetic : Prop :=
  ∀ (s : State) (d a b c : BitVec 6), s.wlog = [] →
    let lo (x : Word64) : Val := decodeFloat (x.extractLsb' 0 32).toNat 0
    let x := lo (s.sArg 0 a)
    let y := lo (s.sArg 8 b)
    let z := lo (s.sArg 16 c)
    let gives (i : Instr) (r : Res Val) : Prop := ∃ v : Word64,
      exec i s = .next ((s.write (.s d.toNat v) 4).mergeSlot (r.flags ||| (narrow r.val 0 false).flags))
        ∧ v.toNat = (narrow r.val 0 false).val ∧ v.extractLsb' 32 32 = 0
    gives (.fadd d a b) (addVal x y) ∧ gives (.fmul d a b) (mulVal x y)
      ∧ gives (.fma d a b c) ⟨(addVal (mulVal x y).val z).val, (mulVal x y).flags ||| (addVal (mulVal x y).val z).flags⟩

/-- R101: FCVT reads the code in the low bits of its operand; a float result stands zero-extended, an integer result as the 64-bit
value it is. -/
def Obligations.ScalarConversion : Prop :=
  ∀ (s : State) (d a : BitVec 6) (dfmt sfmt : BitVec 5) (sat : BitVec 1), s.wlog = [] →
    let c := (s.sArg 0 a).toNat % 2 ^ fmtWidth sfmt.toNat
    let x := if isFloatFmt sfmt.toNat then decodeFloat c sfmt.toNat
      else valOfInt (if isSignedFmt sfmt.toNat then signExt c (fmtWidth sfmt.toNat) else c)
    let put (v : Word64) (flags : Nat) : Result := .next ((s.write (.s d.toNat v) 3).mergeSlot flags)
    exec (.fcvt d a dfmt sfmt sat) s =
      if isFloatFmt dfmt.toNat then
        put (BitVec.ofNat 64 (narrow x dfmt.toNat (sat == 1)).val) (narrow x dfmt.toNat (sat == 1)).flags
      else put (BitVec.ofInt 64 (toIntFmt x dfmt.toNat).val) (toIntFmt x dfmt.toNat).flags


/-! ### Number formats -/

/-- R18, R19, R23, R26 to R31, R38, R39: a code stands for the value that its fields give. Narrowing rounds once, to the nearest multiple
of the unit in the last place, with ties away from zero below 16 bits and to even from there on, to infinity or the largest value past
it, and sets INX, UNF and OVF; a code narrows to itself. Integers saturate. Sums and products are exact, with the special values and
zero signs of R31. A block takes the scale of its largest exponent, and error feedback keeps what the rounding left. -/
def Obligations.NumberFormatsAreExactAndRoundOnce : Prop :=
  let rat (n : Bool) (a b : Nat) : Rat := (if n then -1 else 1) * ((a : Rat) / b)
  -- a code below 2^w stands for a magnitude with a sign
  let is (f w : Nat) (n : Bool) (c : Nat) (x : Rat) : Prop :=
    c < 2 ^ w ∧ ∃ a b : Nat, decodeFloat c f = .fin n a b ∧ b ≠ 0 ∧ (a : Rat) / b = x
  -- `y` is a nearest multiple of `ulp` to the magnitude `x`, and of two the one that the width asks for
  let nearest (w : Nat) (x ulp : Rat) (q : Nat) : Prop :=
    2 * (x - q * ulp) ≤ ulp ∧ 2 * (q * ulp - x) ≤ ulp
      ∧ (2 * (x - q * ulp) = ulp ∨ 2 * (q * ulp - x) = ulp → if w < 16 then x < q * ulp else q % 2 = 0)
  -- the code of a format, its width, mantissa bits, bias, emax, and whether it has infinities
  let formats : List (Nat × Nat × Nat × Nat × Nat × Bool) :=
    [(0, 32, 23, 127, 127, true), (1, 16, 7, 127, 127, true), (2, 16, 10, 15, 15, true), (3, 8, 3, 7, 8, false)
    , (4, 8, 2, 15, 15, true), (5, 6, 2, 3, 4, false), (6, 6, 3, 1, 2, false), (7, 4, 1, 1, 2, false)]
  let nans : List Nat := [0x7FC00000, 0x7FC0, 0x7E00, 0x7F, 0x7E]
  (∀ f w M bias emax inf, (f, w, M, bias, emax, inf) ∈ formats →
      let max : Rat := (2 ^ (M + 1) - 1 - (if f = 3 then 1 else 0)) * 2 ^ ((emax : Int) - M)
      let top := 2 ^ (w - 1 - M) - 1
      -- R19
      (∀ (n : Bool) (e m : Nat), e ≤ top → m < 2 ^ M →
        let c := (if n then 2 ^ (w - 1) else 0) + e * 2 ^ M + m
        if inf = true ∧ e = top then decodeFloat c f = if m = 0 then .inf n else .nan
        else if f = 3 ∧ e = 15 ∧ m = 7 then decodeFloat c f = .nan
        else is f w n c (if e = 0 then m * 2 ^ (1 - (bias : Int) - M) else (1 + m / 2 ^ M) * 2 ^ ((e : Int) - bias)))
      -- R28: a NaN, an infinity, a zero
      ∧ (∀ sat, narrow .nan f sat = if f < 5 then ⟨nans.getD f 0, 0⟩ else ⟨0, flagInv⟩)
      ∧ (∀ n sat, let r := narrow (.inf n) f sat
        if inf = true ∧ sat = false then decodeFloat r.val f = .inf n ∧ r.val < 2 ^ w ∧ r.flags = 0
        else is f w n r.val max ∧ r.flags = flagOvf)
      ∧ (∀ n b sat, b ≠ 0 → is f w n (narrow (.fin n 0 b) f sat).val 0 ∧ (narrow (.fin n 0 b) f sat).flags = 0)
      -- R26 to R28: any other number
      ∧ (∀ (n : Bool) (a b : Nat) (sat : Bool), a ≠ 0 → b ≠ 0 →
        let x : Rat := a / b
        let r := narrow (.fin n a b) f sat
        ∃ (e : Int) (q : Nat), 1 - (bias : Int) ≤ e ∧ x < 2 ^ (e + 1) ∧ (e = 1 - bias ∨ 2 ^ e ≤ x) ∧ nearest w x (2 ^ (e - M)) q
          ∧ let y : Rat := q * 2 ^ (e - M)
            (y ≤ max → is f w n r.val y
              ∧ r.flags = if y = x then 0 else if x < 2 ^ (1 - (bias : Int)) then flagInx ||| flagUnf else flagInx)
            ∧ (max < y → r.flags = flagOvf ||| flagInx
              ∧ if inf = true ∧ sat = false then decodeFloat r.val f = .inf n ∧ r.val < 2 ^ w else is f w n r.val max))
      -- R30
      ∧ ∀ c, c < 2 ^ w → decodeFloat c f ≠ .nan → narrow (decodeFloat c f) f false = ⟨c, 0⟩)
    ∧ (∀ f c x sat, 8 ≤ f → f < 13 → decodeFloat c f = decodeFloat c (f - 5) ∧ narrow x f sat = narrow x (f - 5) sat)
    -- R21, R29
    ∧ (∀ f w, (f, w) ∈ [(16, 4), (17, 8), (18, 16), (19, 32), (20, 64), (21, 8), (22, 16), (23, 32), (24, 64)] →
      let lo : Int := if f ≤ 20 then -2 ^ (w - 1) else 0
      let hi : Int := if f ≤ 20 then 2 ^ (w - 1) - 1 else 2 ^ w - 1
      toIntFmt .nan f = ⟨0, flagInv⟩ ∧ (∀ n, toIntFmt (.inf n) f = ⟨if n then lo else hi, flagOvf ||| flagInx⟩)
        ∧ ∀ (n : Bool) (a b : Nat), b ≠ 0 → ∃ q : Nat, nearest w (a / b) 1 q
          ∧ let y : Int := if n then -q else q
            toIntFmt (.fin n a b) f = if hi < y then ⟨hi, flagOvf ||| flagInx⟩ else if y < lo then ⟨lo, flagOvf ||| flagInx⟩
              else ⟨y, if (q : Rat) = a / b then 0 else flagInx⟩)
    -- R31
    ∧ (∀ x y, (x = .nan ∨ y = .nan) → addVal x y = ⟨.nan, 0⟩ ∧ mulVal x y = ⟨.nan, 0⟩)
    ∧ (∀ n k a b, addVal (.inf n) (.inf k) = (if n = k then ⟨.inf n, 0⟩ else ⟨.nan, flagInv⟩) ∧ mulVal (.inf n) (.inf k) = ⟨.inf (n != k), 0⟩
      ∧ addVal (.inf n) (.fin k a b) = ⟨.inf n, 0⟩ ∧ addVal (.fin k a b) (.inf n) = ⟨.inf n, 0⟩
      ∧ mulVal (.inf n) (.fin k a b) = (if a = 0 then ⟨.nan, flagInv⟩ else ⟨.inf (n != k), 0⟩)
      ∧ mulVal (.fin k a b) (.inf n) = (if a = 0 then ⟨.nan, flagInv⟩ else ⟨.inf (n != k), 0⟩))
    ∧ (∀ (n : Bool) (a b : Nat) (k : Bool) (c d : Nat), b ≠ 0 → d ≠ 0 →
      (∃ (m : Bool) (p q : Nat), addVal (.fin n a b) (.fin k c d) = ⟨.fin m p q, 0⟩ ∧ q ≠ 0 ∧ rat m p q = rat n a b + rat k c d ∧ (p = 0 → m = (n && k)))
        ∧ ∃ p q : Nat, mulVal (.fin n a b) (.fin k c d) = ⟨.fin (n != k) p q, 0⟩ ∧ q ≠ 0 ∧ (p : Rat) / q = a / b * (c / d))
    -- R23
    ∧ (∀ c e m : Nat, m < 16 → e < 64 → c % 1024 = 16 * e + m → if e = 63 then sc10Value c = .nan
      else ∃ a b, sc10Value c = .fin false a b ∧ b ≠ 0
        ∧ (a : Rat) / b = if e = 0 then (m : Rat) * 2 ^ (-34 : Int) else (1 + (m : Rat) / 16) * 2 ^ ((e : Int) - 31))
    -- R38
    ∧ (∀ f w emax, (f, w, emax) ∈ [(3, 8, 8), (4, 8, 15), (5, 6, 4), (6, 6, 2), (7, 4, 2)] → ∀ xs : List Val, xs.length = 4 →
      let r := blockQuantise xs f
      ((∃ x ∈ xs, x = .nan ∨ ∃ n, x = .inf n) → r = ⟨(0x3F0, [0, 0, 0, 0]), flagInv⟩)
        ∧ ((∀ x ∈ xs, ∃ n b, x = Val.fin n 0 b) → r.val.1 = 0 ∧ r.flags = 0 ∧ r.val.2.length = 4
          ∧ ∀ (i : Nat) n b c, xs[i]? = some (Val.fin n 0 b) → r.val.2[i]? = some c → is f w n c 0)
        ∧ ((∀ x ∈ xs, ∃ n a b, x = Val.fin n a b ∧ b ≠ 0) → (∃ n a b, Val.fin n a b ∈ xs ∧ a ≠ 0) →
          ∃ (E : Int) (ys : List Val), (∃ (n : Bool) (a b : Nat), Val.fin n a b ∈ xs ∧ a ≠ 0 ∧ (2 : Rat) ^ E ≤ a / b)
            ∧ (∀ (n : Bool) (a b : Nat), Val.fin n a b ∈ xs → (a : Rat) / b < 2 ^ (E + 1))
            ∧ let d : Int := min (max (E - emax) (-30)) 31
              (r.val.1 : Int) = (d + 31) * 16 ∧ ys.length = 4
                ∧ (∀ (i : Nat) (n : Bool) (a b : Nat), xs[i]? = some (.fin n a b) → ∃ a' b' : Nat, ys[i]? = some (.fin n a' b') ∧ b' ≠ 0 ∧ (a' : Rat) / b' = a / b / 2 ^ d)
                ∧ r.val.2 = (ys.map fun y => (narrow y f true).val)
                ∧ ∀ k, r.flags.testBit k = true ↔ ∃ y ∈ ys, (narrow y f true).flags.testBit k = true))
    -- R39
    ∧ ∀ gs es : List Nat, gs.length = 4 → es.length = 4 →
      let t (i : Nat) : Res Val := addVal (decodeFloat (gs.getD i 0) 0) (decodeFloat (es.getD i 0) 1)
      let q := blockQuantise ((List.range 4).map fun i => (t i).val) 3
      let left (i : Nat) : Res Val := addVal (t i).val (negVal (mulVal (decodeFloat (q.val.2.getD i 0) 3) (sc10Value q.val.1)).val)
      let r := errorFeedback gs es
      r.val.1 = q.val.1 ∧ r.val.2.1 = q.val.2 ∧ r.val.2.2 = (List.range 4).map (fun i => (narrow (left i).val 1 false).val)
        ∧ ∀ k, r.flags.testBit k = true ↔ q.flags.testBit k = true
          ∨ ∃ i, i < 4 ∧ ((t i).flags.testBit k = true ∨ (narrow (left i).val 1 false).flags.testBit k = true)

/-! ### SYNC and CTRL slots -/

/-- R85, R87, R88, R89: WAIT takes its count from the flag and acquires; a flag that is short keeps the bundle from issuing. POST
and POSTP enter the memory port as releases, with the core, flag and increment they name. BANKLK replaces the context's hold. A CBAR
that has been let issue acquires, and one whose barrier has no participants is the fatal BARRIER. An acquire leaves no line in the
L1s that its core uses. The model's own choices: Dropping every L1 copy is log entry 36. -/
def Obligations.FlagWaitsAndPosts : Prop :=
  ∀ (s : State) (f bank0 : BitVec 5) (cnt inc : BitVec 7) (inc4 cntB bid : BitVec 4) (rank nb : BitVec 3), s.wlog = [] →
    let post (core n scope : Nat) (near : Bool) : PortItem :=
      { id := s.portId, bundle := s.me.seq, rank := 4, cls := 0, scope := scope, acq := false, rel := true, own := false
        since := s.dev.clock, addr := 0, via := [], op := .post core f.toNat n near }
    let acquired (t : State) : Prop := ∀ k ∈ s.l1Cores s.myCore, (t.core k).l1 = []
    (cnt.toNat ≤ s.mine.flagOf f.toNat → ∃ t, exec (.wait f cnt) s = .next t
        ∧ (∀ g, t.mine.flagOf g = if g = f.toNat then s.mine.flagOf g - cnt.toNat else s.mine.flagOf g)
        ∧ t = (s.setMine { s.mine with flags := t.mine.flags }).dropLines s.myCore ∧ acquired t)
      ∧ (s.mine.flagOf f.toNat < cnt.toNat → exec (.wait f cnt) s = .next s.endFlight)
      ∧ (∃ t, exec (.post f inc) s = .next t ∧ Queued s t (post (coreOf s.fl.ctx) (inc.toNat + 1) 1 true))
      ∧ (∃ t, exec (.postp rank f inc4) s = .next t
        ∧ Queued s t (post (8 * clusterOf (coreOf s.fl.ctx) + rank.toNat) (inc4.toNat + 1) 2 false))
      ∧ exec (.banklk cntB bank0 nb) s =
        .next (s.setMe { s.me with bank := some (bank0.toNat, nb.toNat + 1, cntB.toNat + 1) })
      ∧ ((s.barrier (clusterOf (coreOf s.fl.ctx)) bid.toNat).parts ≠ 0 → ∃ t, exec (.cbar bid) s = .next t ∧ acquired t
        ∧ t = (s.setMe { s.me with arrived := s.me.arrived.filter (· != (bid.toNat, s.me.trapm))
                                   passed := s.me.passed.filter (· != (bid.toNat, s.me.trapm)), waitFrom := none }).dropLines s.myCore)
      ∧ ((s.barrier (clusterOf (coreOf s.fl.ctx)) bid.toNat).parts = 0 → exec (.cbar bid) s = .next ((s.slotFault 0x2F bid.toNat 0).closed s))

/-- R90, R93: where a branch goes, when BRC is taken, and the link of CALL; a taken branch out of loop bodies pops their levels, group
by group from the innermost on, each because its body does not hold the target, until the target lies in the innermost body left. The
model's own choices: The PC of a literal bundle is log entry 15. -/
def Obligations.BranchesGoToTheirTargets : Prop :=
  (∀ (s : State) (o26 : BitVec 26) (o21 : BitVec 21) (o17 : BitVec 17) (r : BitVec 6) (cond : BitVec 3) (a : BitVec 5),
    s.wlog = [] →
      let pc := BitVec.ofNat 32 s.fl.pc
      let x := s.sArg 0 r
      let go (t : State) (dest : BitVec 32) : State := { t with fl := { t.fl with target := some (dest.toNat, false) } }
      let leave (dest : BitVec 32) : State := go (s.setMe { s.me with loops := popOut dest.toNat 9 s.me.loops }) dest
      let taken : Bool := match cond with
        | 0 => x == 0 | 1 => x != 0 | 2 => x.slt 0 | 3 => !x.slt 0 | 4 => BitVec.slt 0 x | 5 => !BitVec.slt 0 x
        | 6 => x.getLsbD 0 | _ => !x.getLsbD 0
      exec (.br o26) s = .next (leave (pc + o26.signExtend 32))
        ∧ exec (.brc r cond o17) s = .next (if taken then leave (pc + o17.signExtend 32) else s)
        ∧ exec (.bri r) s = .next (leave (x.setWidth 32))
        ∧ (s.fl.seqRun = false → exec (.call a o21) s =
            .next (go (s.write (.a a.toNat (BitVec.ofNat 64 s.fl.seqPc)) 1) (pc + o21.signExtend 32)))
        ∧ (s.fl.seqRun = true → exec (.call a o21) s = .next ((s.illegal 2).closed s))
        ∧ exec (.ret a) s = .next (go s ((s.aArg 0 a).setWidth 32)))
  ∧ ∀ (dest : Nat) (ls : List LoopLevel), ls.length ≤ 9 →
    let inside (l : LoopLevel) : Prop := l.start ≤ dest ∧ dest ≤ l.stop
    ∃ gone, ls = gone ++ popOut dest 9 ls
      ∧ (∀ l ∈ gone, ∃ k ∈ gone, k.group = l.group ∧ ¬inside k)
      ∧ ((∀ k ∈ ls, ∀ l ∈ ls, k.group = l.group → k.start = l.start ∧ k.stop = l.stop) → ∀ l ∈ gone, ¬inside l)
      ∧ ∀ l ∈ (popOut dest 9 ls).head?, inside l

/-- R91, R92, R289, R292: a loop start with counts that are not 0 pushes its levels, the first the outermost, with one group number,
writes their records and echoes their first values; LOOPQ and LNEST take their counts from the count queue, in which a missing entry
counts 0, and LREPLAY repeats the iterator's record in the other direction. A count of 0 pushes nothing and goes on after the body,
whose walk freezes the clock. A full stack, an iterator in use, or a body ending in this bundle is LOOPSTK. The model's own choices:
DETAIL for LNEST is log entry 43, the frozen cycles log entry 7, what a walk that fails leaves fetched log entry 40. -/
def Obligations.LoopsPushLevels : Prop :=
  ∀ (s : State) (i n : BitVec 3) (imm : BitVec 1) (cnt : BitVec 10) (e : BitVec 12), s.wlog = [] →
    let x := s.me
    let given : Nat := if imm = 1 then cnt.toNat + 1 else ((x.sreg (cnt.setWidth 6).toNat).setWidth 32).toNat
    let queued (k : Nat) : List Nat := (List.range k).map fun j => x.cq.getD j 0
    let rec' := tabGet (0, false) x.lrec i.toNat
    let starts (ins : Instr) (counts : List Nat) (pops : Nat) (down : Bool) : Prop :=
      let stop := (s.fl.pc + e.toNat) % 2 ^ 32
      let first (c : Nat) : Nat := if down then c - 1 else 0
      let levels : List LoopLevel := (List.range counts.length).map fun j =>
        { iter := i.toNat + j, start := s.fl.seqPc, startLit := s.fl.seqRun, stop := stop, count := counts.getD j 0, down := down
          done := 0, group := x.nextGroup }
      let ends := ∃ l ∈ x.loops, l.stop = s.fl.pc
      let full := ends ∨ 8 < x.loops.length + counts.length
        ∨ ∃ l ∈ x.loops, i.toNat ≤ l.iter ∧ l.iter < i.toNat + counts.length
      (0 ∉ counts → ¬full → ∃ t, exec ins s = .next t
          ∧ t = s.setMe { x with cq := x.cq.drop pops, loops := levels.reverse ++ x.loops, lrec := t.me.lrec, it := t.me.it
                                 echo := x.echo ++ levels.map fun l => (l.iter, first l.count, x.trapm) }
          ∧ (∀ j, tabGet (0, false) t.me.lrec j = if i.toNat ≤ j ∧ j < i.toNat + counts.length then (counts.getD (j - i.toNat) 0, down)
              else tabGet (0, false) x.lrec j)
          ∧ ∀ j, tabGet 0 t.me.it j = if i.toNat ≤ j ∧ j < i.toNat + counts.length then
              BitVec.ofNat 32 (first (counts.getD (j - i.toNat) 0)) else tabGet 0 x.it j)
        ∧ (0 ∉ counts → full → exec ins s = .next ((s.slotFault 0x2D i.toNat 0).closed s))
        ∧ (0 ∈ counts → ∀ pc run ws, s.walkBody e.toNat = .ok (some (pc, run), ws) →
          (ends → exec ins s = .next ((s.slotFault 0x2D i.toNat 0).closed s))
          ∧ (¬ends → ∃ t, exec ins s = .next t ∧ t.me = { x with cq := x.cq.drop pops, icWords := t.me.icWords }
            ∧ t.fl = { s.fl with target := some (pc, run) }
            ∧ t = { ((s.setMe { x with cq := x.cq.drop pops }).keep s.fl.ctx ws).freezeOnce s.myCore with fl := t.fl }))
        ∧ (0 ∈ counts → ∀ f, s.walkBody e.toNat = .error f →
          exec ins s = .next ((((s.keep s.fl.ctx (s.walkFetched e.toNat)).freezeOnce s.myCore).slotFault f.code f.detail f.faddr
            f.line f.mig).closed s))
        ∧ (0 ∈ counts → ∀ ws, s.walkBody e.toNat = .ok (none, ws) →
          exec ins s = .next ((((s.keep s.fl.ctx ws).freezeOnce s.myCore).illegal 2).closed s))
    starts (.loop i imm cnt e) [given] 0 false ∧ starts (.lrev i imm cnt e) [given] 0 true
      ∧ starts (.loopq i e) (queued 1) 1 false
      ∧ starts (.lnest i n e) (queued (n.toNat + 1)) (n.toNat + 1) false
      ∧ starts (.lreplay i e) [rec'.1] 0 (!rec'.2)

/-- R46, R47, R95, R212: SRD reads each system register with latency 2. SWR writes the fields of a register that may be written;
SYS.CMPAT needs privilege and is the fatal PRIVREG without it. Any other number makes the bundle illegal. The model's own choices: What
SYS.CMPAT reads as is log entry 94. -/
def Obligations.SystemRegisters : Prop :=
  ∀ (s : State) (r : BitVec 6) (n : BitVec 8), s.wlog = [] →
    let x := s.me
    let c := s.fl.ctx
    let v := s.sArg 0 r
    let reads (m : BitVec 8) (w : Word64) : Prop := exec (.srd r m) s = .next (s.write (.s r.toNat w) 2)
    let writes (m : BitVec 8) (y : Ctx) : Prop := exec (.swr r m) s = .next (s.setMe y)
    (c < 1024 → ∃ w, reads 0 w ∧ w.extractLsb' 0 10 = BitVec.ofNat 10 c ∧ w.extractLsb' 10 2 = BitVec.ofNat 2 c
        ∧ w.extractLsb' 12 5 = 0 ∧ w.extractLsb' 17 8 = BitVec.ofNat 8 (coreOf c) ∧ w.getLsbD 25 = decide (128 ≤ coreOf c)
        ∧ w.extractLsb' 26 38 = 0)
      ∧ (∃ w, reads 1 w ∧ w.extractLsb' 12 4 = BitVec.ofNat 4 x.sres ∧ w.getLsbD 11 = x.lit ∧ w.getLsbD 10 = x.trapm
        ∧ w.getLsbD 9 = x.capv ∧ w.getLsbD 8 = x.priv ∧ w.extractLsb' 0 8 = 0 ∧ w.extractLsb' 16 48 = 0)
      ∧ reads 2 (BitVec.ofNat 64 x.fpsf) ∧ reads 3 (BitVec.ofNat 64 x.fpte) ∧ reads 4 (BitVec.ofNat 64 x.chksb)
      ∧ reads 5 x.tvec ∧ reads 6 x.epc ∧ reads 7 x.cause ∧ reads 8 (BitVec.ofNat 64 x.phase) ∧ reads 9 x.phgen
      ∧ reads 0xA (BitVec.ofNat 64 x.waitto) ∧ reads 0xB (BitVec.ofNat 64 x.cbase) ∧ reads 0xC (BitVec.ofNat 64 x.dbase)
      ∧ reads 0xD (BitVec.ofNat 64 x.dictn) ∧ reads 0xE (BitVec.ofNat 64 x.tgrant)
      ∧ reads 0xF (BitVec.ofNat 64 (s.mine.fcyc * 2 ^ 32 + s.mine.fcnt)) ∧ reads 0x10 (BitVec.ofNat 64 s.mine.cyc)
      ∧ reads 0x11 x.tfb ∧ reads 0x12 (x.cmpat ||| 0xFF)
      ∧ (0x12 < n.toNat → exec (.srd r n) s = .next ((s.illegal 2).closed s))
      ∧ writes 1 { x with sres := (v.extractLsb' 12 4).toNat, lit := v.getLsbD 11, trapm := v.getLsbD 10, capv := v.getLsbD 9 }
      ∧ writes 2 { x with fpsf := (v.extractLsb' 0 6).toNat } ∧ writes 3 { x with fpte := (v.extractLsb' 0 6).toNat }
      ∧ writes 4 { x with chksb := (v.extractLsb' 0 2).toNat } ∧ writes 5 { x with tvec := v } ∧ writes 6 { x with epc := v }
      ∧ writes 0xA { x with waitto := (v.extractLsb' 0 32).toNat } ∧ writes 0x11 { x with tfb := v &&& ~~~0xFF#64 }
      ∧ (x.priv = true → writes 0x12 { x with cmpat := v })
      ∧ (x.priv = false → exec (.swr r 0x12) s = .next ((s.slotFault 0x26 0x12 0).closed s))
      ∧ ((n ∈ [0#8, 7, 8, 9, 0xB, 0xC, 0xD, 0xE, 0xF, 0x10] ∨ 0x12 < n.toNat) → exec (.swr r n) s = .next ((s.illegal 2).closed s))

/-- R228, R229, R231, R232: PHPREP starts a preparation of the map K on from the current one, unless its checks reject an entry
(MAPCONF at the first such); PHADV takes up the true preparation of that map, PHSET goes to a map and uses up or discards what was
prepared; either writes SYS.PHASE and SYS.PHGEN with latency 1. MAPLD reads an image after every earlier access of the context. The
model's own choices: The entry named is log entry 34, performing at once log entry 37, the blocking time log entry 60. -/
def Obligations.PhaseInstructions : Prop :=
  ∀ (s : State) (k map : BitVec 4) (a : BitVec 5), s.wlog = [] →
    let x := s.me
    let ahead := (x.phase + k.toNat) % 16
    let cur := tabGet [] x.maps x.phase
    let next := tabGet [] x.maps ahead
    let bad (j : Nat) (e : MapEntry) : Bool := prepBad (clusterOf s.myCore) cur next j e
    let gone : Ctx := { x with prep := none, wbacks := x.wbacks.map fun w => if w.advanced = none then { w with advanced := some x.seq } else w }
    let enter (y : Ctx) (m : Nat) : State := (s.setMe y).write (.phase m (x.phgen + 1)) 1
    let va := (s.aArg 0 a).toNat
    let span := s.placeAligned 3 .read false 32 va 2080
    let fresh (whole : Bool) : Prep :=
      { map := ahead, stage := 0, due := s.mine.el + 8, whole := whole, bundle := x.seq, org := s.origin, cur := cur, next := next
        snapped := 0, taken := [], reached := 0, gran := 0, desc := [], began := 0, spent := 0, moved := false, halt := none, retry := none }
    (x.preparing = true → exec (.phprep k) s = .next s.endFlight ∧ exec (.phadv k) s = .next s.endFlight
        ∧ exec (.phset map) s = .next s.endFlight)
      ∧ (x.preparing = false → (∀ j e, next[j]? = some e → bad j e = false) →
        exec (.phprep k) s = .next (s.setMe { x with prep := some (fresh false) })
          ∧ (x.prepared ahead = false → exec (.phadv k) s = .next (s.setMe { x with prep := some (fresh true) }).endFlight))
      ∧ (x.preparing = false → ∀ j e, next[j]? = some e → bad j e = true → (∀ i f, i < j → next[i]? = some f → bad i f = false) →
        exec (.phprep k) s = .next ((s.slotFault 0x32 j e.wbase).closed s))
      ∧ (x.prepared ahead = true → exec (.phadv k) s = .next (enter gone ahead))
      ∧ (x.prepared map.toNat = true → exec (.phset map) s = .next (enter gone map.toNat))
      ∧ (x.prepared map.toNat = false → x.preparing = false → exec (.phset map) s = .next (enter { x with prep := none } map.toNat))
      ∧ (∀ e, span = .error e → exec (.mapld map a) s = .next ((s.accessFault e).closed s))
      ∧ ∀ srcs ts, span = .ok (srcs, ts) →
        (map.toNat = x.phase ∨ x.prep.map (·.map) = some map.toNat →
          exec (.mapld map a) s = .next ((s.slotFault 0x32 0 va).closed s))
        ∧ (map.toNat ≠ x.phase → x.prep.map (·.map) ≠ some map.toNat →
          let u := ((s.performAll s.fl.ctx).fills ts).touch (srcs.filterMap ByteSrc.place)
          let v := u.countSubst u.me.node (u.softGranules srcs).length
          let image := imageOf (leNat (u.goodBytes u.byte srcs))
          (∀ e, u.hardFault ts va srcs = some e → exec (.mapld map a) s = .next ((u.accessFault e).closed s))
          ∧ (u.hardFault ts va srcs = none → ∀ i o, image = .error (i, o) →
            exec (.mapld map a) s = .next ((v.slotFault 0x32 i (va + o)).closed s))
          ∧ (u.anyBad = false → u.goodBytes u.byte srcs = srcs.map (srcByte u.byte))
          ∧ (u.hardFault ts va srcs = none → ∀ es, image = .ok es → ∃ y, (∀ m, tabGet [] y.maps m = if m = map.toNat then es else tabGet [] v.me.maps m)
            ∧ s.fl.t < y.imageAt ∧ y = { v.me with maps := y.maps, imageAt := y.imageAt }
            ∧ exec (.mapld map a) s = .next ((({ v with fresh := v.fresh + 1 }).setMe y).closed s)))

/-- R313, R314, R319, R324: NEXT delivers the work that is chosen for the context, or that the scheduler chooses, each index and entry
once, with latency 4, and acquires; the queue slot held before returns to its ring, and PROG grows. With nothing to deliver the context
parks or exits. TAIL records one launch for each instance, at most sixteen for a launch. The model's own choices: The scheduler's decision
is that of R314 and R316 with log entry 53, the ends and rebinds are log entries 24 and 55, the dropped L1 log entry 36, the accesses that
TAIL performs log entry 37. -/
def Obligations.WorkInstructions : Prop :=
  ∀ (s : State) (r : BitVec 6) (a : BitVec 5), s.wlog = [] →
    let x := s.me
    let asked : State := if x.nextFrom.isSome then s else s.setMe { x with nextFrom := some s.mine.el }
    let key := stageKey (clusterOf (coreOf s.fl.ctx)) x.stage
    let ring (l : Launch) (k : Nat) : StageQueue := tabGet StageQueue.init l.stageQ k
    let gets (w : Nat) (v : State) (y : Ctx) : Prop := ∃ t, exec (.next r) s = .next t ∧ SameBytes s t
      ∧ t.me = { y with chosen := none, held := if w.testBit 63 then some (w % 2 ^ 32) else none
                        pend := pendInsert { due := s.fl.t + 4, kind := .fixed, id := 0, got := true, ready := true, freeze := false
                                             w := .s r.toNat (BitVec.ofNat 64 w) } x.pend }
      ∧ (∀ k ∈ s.l1Cores s.myCore, (t.core k).l1 = []) ∧ (∀ k, t.core k = { s.core k with l1 := (t.core k).l1 })
      ∧ (∀ c, c ≠ s.fl.ctx → t.ctx c = s.ctx c)
      ∧ ∀ l, v.launch x.launch = some l →
        (∃ m, t.launch x.launch = some m ∧ m = { l with stageQ := m.stageQ } ∧ ∀ k, ring m k = match x.held with
          | some slot => if k = key then { ring l k with out := (ring l k).out.erase slot } else ring l k
          | none => ring l k)
        ∧ ∀ q, s.hw l.queue = some q → t.hw l.queue = some { q with prog := (q.prog + 1) % 2 ^ 32, wdFrom := s.dev.clock }
    let chosen (w : Nat) : State := asked.choose s.fl.ctx w
    let va := (s.aArg 0 a).toNat
    let block := s.placeAligned 3 .read false 64 va 64
    (∀ w, x.chosen = some w → gets w s x)
      ∧ (x.chosen = none → ∀ w, asked.decide s.fl.ctx = .work w → gets w (chosen w) { x with nextFrom := none, mode := .running }
        ∧ ∀ l, s.launch x.launch = some l → ∃ m, (chosen w).launch x.launch = some m
          ∧ (x.stage = 0 → l.back.Nodup → (∀ i ∈ l.back, i < l.nextIdx) → ∀ i, (i ∈ m.back ∨ m.nextIdx ≤ i) ↔
            (i ∈ l.back ∨ l.nextIdx ≤ i) ∧ i ≠ w)
          ∧ (x.stage ≠ 0 → m.back = l.back ∧ m.nextIdx = l.nextIdx ∧ ∀ k, ring m k = if k = key then
              { ring l k with ready := (ring l k).ready.erase (w % 2 ^ 32), out := (ring l k).out ++ [w % 2 ^ 32] } else ring l k))
      ∧ (x.chosen = none → asked.decide s.fl.ctx = .park → exec (.next r) s = .next (asked.setMe { asked.me with mode := .yielded }).endFlight)
      ∧ (x.chosen = none → ∀ b, asked.decide s.fl.ctx = .rebind b → exec (.next r) s =
          .next ((((asked.setMe { asked.me with mode := .exiting, goal := some b, nextFrom := none }).endIfQuiet s.fl.ctx).endFlight).closed s))
      ∧ (x.chosen = none → asked.decide s.fl.ctx = .finish → exec (.next r) s = .next (asked.setMe { asked.me with mode := .exiting, goal := none, nextFrom := none }).endFlight)
      ∧ (∀ e, block = .error e → exec (.tail a) s = .next ((s.accessFault e).closed s))
      ∧ ∀ srcs ts, block = .ok (srcs, ts) →
        let w := ((s.performAll s.fl.ctx).fills ts).touch (srcs.filterMap ByteSrc.place)
        let u := w.countSubst w.me.node (w.softGranules srcs).length
        let bytes := w.goodBytes w.byte srcs
        let rec' : TailRec :=
          { ctx := s.fl.ctx, inst := u.me.inst, record := bytes
            carries := if ((bytes.drop 16).take 8).all (· == 0) then some ((List.range 8).map u.me.sreg) else none }
        let mine (v : TailRec) : Prop := v.ctx = rec'.ctx ∧ v.inst = rec'.inst
        (∀ e, w.hardFault ts va srcs = some e → exec (.tail a) s = .next ((w.accessFault e).closed s))
        ∧ (w.hardFault ts va srcs = none → ∀ l, u.launch u.me.launch = some l →
          ((∀ v ∈ l.tails, ¬mine v) → l.tails.length < 16 → exec (.tail a) s =
              .next ((u.setLaunch u.me.launch { l with tails := l.tails ++ [rec'] }).closed s))
          ∧ (∀ b v d, l.tails = b ++ v :: d → mine v → (∀ w ∈ b ++ d, ¬mine w) → exec (.tail a) s =
              .next ((u.setLaunch u.me.launch { l with tails := b ++ rec' :: d }).closed s))
          ∧ (∀ q, (∀ v ∈ l.tails, ¬mine v) → 16 ≤ l.tails.length → u.hw l.queue = some q → exec (.tail a) s =
              .next ((u.setHw l.queue { q with tovf := true }).closed s)))

/-- R95, R205, R208, R211, R212: TRAP enters the handler. Its slot and the one before it have committed, the next bundle waits until the
writes on their way have retired, the frame with the operands of the slots that are left stands at SYS.TFB, SYS.EPC, STATUS and CAUSE take
the split at slot 2, and the context goes on at SYS.TVEC. While a handler runs it is the fatal TRAPNEST instead. Loads of the slots left
that another agent holds keep the trap waiting until they have completed. The model's own choices: Performing the accesses at once is log
entry 37, echoes log entry 39. -/
def Obligations.TrapEntersHandler : Prop :=
  ∀ (s u : State) (code : BitVec 16), s.wlog = [] →
    let f := s.fl
    let c := f.ctx
    let cap := State.capture { s with fl := { f with slot := 2, rest := f.rest.drop 1 } }
    let p : Split :=
      { code := 1, detail := code.toNat, faddr := 0, smask := 2, sres := 2, epc := f.pc, lit := f.lit, capv := true, phase := f.phase
        gen := f.gen, bytes := cap.2.1, line := 0, mig := false }
    let e := cap.1.endFlight
    let r := (e.retireAll c).returnWork c
    let x := r.ctx c
    (cap.2.2 ≠ [] → exec (.trap code) s = .next ((e.setCtx c { e.ctx c with trapping := some (p, cap.2.2) }).closed s))
      ∧ (cap.2.2 = [] → s.me.trapm = false → writeVirtual r (r.spaceOf (coreOf c) x.node) (dieOf (coreOf c)) x.tfb.toNat (frameBytes c p) = .ok u →
        ∃ y : Ctx, exec (.trap code) s = .next ((u.setCtx c y).closed s)
          ∧ y = { u.ctx c with epc := BitVec.ofNat 64 f.pc, sres := 2, lit := f.lit, capv := true, trapm := true, cause := y.cause
                               pc := (u.ctx c).tvec.toNat % 2 ^ 32, inRun := false, nextAt := y.nextAt, nextFrom := none
                               bank := none, waitFrom := none, resume := none }
          ∧ y.cause.extractLsb' 48 16 = code ∧ y.cause.extractLsb' 0 16 = 1 ∧ y.cause.extractLsb' 32 12 = 2
          ∧ y.cause.extractLsb' 16 16 = 0 ∧ y.cause.extractLsb' 44 4 = 0
          ∧ s.mine.cyc + 8 ≤ y.nextAt ∧ y.settling = true)
      ∧ (cap.2.2 = [] → s.me.trapm = true → ∃ t, exec (.trap code) s = .next t ∧ t.me.mode = .killed ∧ t.fl.live = false)

/-- R95, R96, R215: RTE returns when its whole bundle has committed: TRAPM clears and the bundle at SYS.EPC is the context's next, to be
entered at slot SRES, inside the bundle with the map, the PHGEN and the capture of the frame at SYS.TFB; without a handler, or with SRES
past the slots, it is the fatal RTESTATE. EXIT ends the instance after its bundle. DICTSW checks the descriptor and begins its code
stream. The model's own choices: Performing accesses at once is log entry 37, how much of the frame a return reads log entry 72, that
DICTSW drops the space's dictionary entries log entry 40. -/
def Obligations.ReturnExitAndDictionarySwitch : Prop :=
  (∀ (s : State) (c epc : Nat) (lit : Bool),
    let r := s.retireAll c
    let x := r.ctx c
    let inside := 0 < x.sres ∧ x.sres < 12
    let read := readVirtual r (r.spaceOf (coreOf c) x.node) (dieOf (coreOf c)) x.tfb.toNat
      (if x.capv then 3072 else if 0 < x.sres ∧ x.sres < 12 then 24 else 0)
    let y := (s.rteReturn c epc lit).ctx c
    x.trapm = true → x.sres ≤ 12 → (∀ e, read = .error e → y.mode = .killed)
      ∧ ∀ bs, read = .ok bs → y.mode = .running ∧ y.trapm = false ∧ y.pc = x.epc.toNat % 2 ^ 32 ∧ y.inRun = x.lit
        ∧ ∃ f, y.resume = some f ∧ f.sres = x.sres ∧ (f.capv = true ↔ x.capv = true ∧ inside)
          ∧ (∀ i, tabGet 0 f.bytes i = bs.getD i 0)
          ∧ (inside → f.map = (bs.getD 7 0).toNat % 16 ∧ f.gen = BitVec.ofNat 64 (leNat ((bs.drop 16).take 8)))
          ∧ (¬inside → f.map = x.phase ∧ f.gen = x.phgen))
  ∧ ∀ (s : State) (a : BitVec 5), s.wlog = [] →
    let x := s.me
    let va := (s.aArg 0 a).toNat
    let desc := s.placeAligned 3 .read false 8 va 24
    (1 < s.fl.rest.length → exec .rte s = .next { s with fl := { s.fl with after := .rte } })
      ∧ (s.fl.rest.length ≤ 1 → x.trapm = true → x.sres ≤ 12 → x.capv = false → (x.sres = 0 ∨ x.sres = 12) → ∃ t, exec .rte s = .next t ∧ t.fl.live = false
        ∧ t.me.mode = .running ∧ t.me.trapm = false ∧ t.me.pc = x.epc.toNat % 2 ^ 32 ∧ t.me.inRun = x.lit ∧ t.me.settling = true
        ∧ ∃ f, t.me.resume = some f ∧ f.sres = x.sres ∧ f.capv = false ∧ f.map = t.me.phase ∧ f.gen = t.me.phgen)
      ∧ (s.fl.rest.length ≤ 1 → x.trapm = false ∨ 12 < x.sres → ∃ t, exec .rte s = .next t ∧ t.fl.live = false
        ∧ t.me.mode = .killed)
      ∧ exec .exit s = .next { s with fl := { s.fl with after := .exit } }
      ∧ (s.fl.after = .exit → s.finish.me.mode = .exiting)
      ∧ (∀ e, desc = .error e → exec (.dictsw a) s = .next ((s.accessFault e).closed s))
      ∧ ∀ srcs ts, desc = .ok (srcs, ts) →
        let v := ((s.performAll s.fl.ctx).fills ts).touch (srcs.filterMap ByteSrc.place)
        let u := v.countSubst v.me.node (v.softGranules srcs).length
        let w := BitVec.ofNat 192 (leNat (v.goodBytes v.byte srcs))
        let ok := w.extractLsb' 0 6 = 0 ∧ w.extractLsb' 64 6 = 0 ∧ (w.extractLsb' 128 16).toNat ≤ 65534 ∧ w.extractLsb' 144 48 = 0
        (∀ e, v.hardFault ts va srcs = some e → exec (.dictsw a) s = .next ((v.accessFault e).closed s))
          ∧ (v.hardFault ts va srcs = none → ok → ∃ t, exec (.dictsw a) s = .next (({ t with
              fl := { t.fl with target := some (0, false) } }).closed s)
            ∧ t = (u.setMine { u.mine with dict := t.mine.dict }).setMe { u.me with
              cbase := (w.extractLsb' 0 64).toNat, dbase := (w.extractLsb' 64 64).toNat, dictn := (w.extractLsb' 128 16).toNat
              icWords := [] }
            ∧ ∀ e, e ∈ t.mine.dict ↔ e ∈ u.mine.dict ∧ e.1 ≠ u.me.node + 1)
          ∧ (v.hardFault ts va srcs = none → ¬ok → exec (.dictsw a) s = .next ((u.slotFault 0x2C 0 0).closed s))

/-- R206 to R209, R212, R216: a fault of a slot ends the flight. With a split inside the bundle the operands of the slots left are
captured, and their loads complete first: loads that another agent holds keep the fault waiting. It is then taken by the class of its
cause. A replayable one parks the context with the split in its hardware frame; a fatal one kills it; a program trap goes to the handler
at SYS.TVEC, and kills only where a handler runs already, or where its frame at SYS.TFB cannot be written. The model's own choices: Where
the trap queue is not writable see log entry 59; the target kept for a parked bundle is log entry 72, the frame that a kill drops log
entry 83. -/
def Obligations.FaultsAreTakenByClass : Prop :=
  ∀ (s : State) (code detail faddr line : Nat) (mig : Bool),
    let f := s.fl
    let c := f.ctx
    let capv : Bool := decide (f.slot ≠ 0) && decide (code < 0x20)
    let cap := if capv then s.capture else (s, [], [])
    let p : Split :=
      { code := code, detail := detail, faddr := faddr, smask := 2 ^ f.slot, sres := f.slot, epc := f.pc, lit := f.lit, capv := capv
        phase := f.phase, gen := f.gen, bytes := cap.2.1, line := line, mig := mig, target := f.target, after := f.after }
    let u := cap.1.endFlight
    let r := (u.retireAll c).returnWork c
    let frame := writeVirtual r (r.spaceOf (coreOf c) (r.ctx c).node) (dieOf (coreOf c)) (r.ctx c).tfb.toNat (frameBytes c p)
    let t := s.slotFault code detail faddr line mig
    t.fl.live = false ∧ t.fl.rest = []
      ∧ (cap.2.2 ≠ [] → t = u.setCtx c { u.ctx c with trapping := some (p, cap.2.2) })
      ∧ (cap.2.2 = [] → 0x20 ≤ code →
        t.me.mode = .killed ∧ t.me.park = none ∧ t.me.resume = none ∧ t.me.drain = none ∧ t.me.monitor = [])
      ∧ (cap.2.2 = [] → 0x10 ≤ code → code < 0x20 →
        t.me.mode ∈ [Mode.parked, .parkedFull, .parkedLost, .parkedMoved] ∧ t.me.settling = true ∧ t.me.park = some
          ({ epc := f.pc, lit := f.lit, sres := f.slot, capv := capv, map := f.phase, gen := f.gen, bytes := cap.2.1
             target := f.target, after := f.after },
           { code := code, detail := detail, faddr := faddr, smask := 2 ^ f.slot }))
      ∧ (cap.2.2 = [] → code < 0x10 → s.me.trapm = true → t.me.mode = .killed)
      ∧ (cap.2.2 = [] → code < 0x10 → s.me.trapm = false →
        (∀ e, frame = .error e → t.me.mode = .killed)
        ∧ ∀ v, frame = .ok v → t.me.mode = (v.ctx c).mode ∧ t.me.trapm = true ∧ t.me.epc = BitVec.ofNat 64 f.pc ∧ t.me.sres = f.slot
          ∧ t.me.lit = f.lit ∧ t.me.capv = capv ∧ t.me.pc = t.me.tvec.toNat % 2 ^ 32 ∧ t.me.inRun = false ∧ t.me.settling = true)

/-! ### MEM slots -/

/-- R72, R104 to R107, R110, R112 to R114: a load whose addresses translate is put on its way to land ARR cycles after issue in its
destination (LDV.nr in a mask too, a bit for each byte left out), and its read stands in the memory port; data of the core's own
memory with nothing before it is read as the bundle's read phase found it. A form with PI also moves its base. A load that does not
translate takes its fault, and a captured one lands its capture. The model's own choices: When data of own memory is in time is
partly free, and earlier reads of own memory settle first (log entries 7 and 22). -/
def Obligations.LoadsLandLater : Prop :=
  ∀ (s : State) (sp esz : BitVec 2) (ac : BitVec 3) (d r : BitVec 6) (v x : BitVec 9) (a : BitVec 5) (arr addr : BitVec 10)
    (ord pi nr : BitVec 1) (tile : BitVec 4), s.wlog = [] → s.fl.live = true →
    let base := s.aArg 0 a
    let places (off : Word64) (unit n : Nat) (tol : Bool) : Placed :=
      s.placeAligned sp.toNat .read tol unit (if ord = 0 ∧ pi = 0 then base + off else base).toNat n
    let loads (i : Instr) (place : Placed) (scope : Nat) (acq : Bool) (ea : Word64) (moved : Option Word64)
        (ws : List (PendKind × RegWrite)) (landed : List Byte → List ByteSrc → List (PendKind × RegWrite)) : Prop :=
      let after (t : State) : State := match moved with
        | some m => t.write (.a a.toNat m) 1
        | none => t
      (∀ bytes m, s.capturedLoad = some (bytes, m) → exec i s = .next (after (({ s with portId := s.portId + 1 }).expects
          (s.fl.t + arr.toNat) s.portId true false (ws.map fun (w : PendKind × RegWrite) => (w.1, capturedWrite w.2 bytes m)))))
        ∧ (∀ e, s.capturedLoad = none → place = .error e → exec i s = .next ((s.accessFault e).closed s))
        ∧ ∀ srcs ts, s.capturedLoad = none → place = .ok (srcs, ts) →
          let keys := placedKeys srcs
          let bound := if keys.any fun k => k % 8 == 4 then 8 else 6
          let own := allOwn s.myCore keys
          let sure := sp == 0 && decide (bound ≤ arr.toNat)
          let u := s.taken i ts
          let w : State := if sure then u else { u with fresh := u.fresh + 1 }
          let v : State := if own then w.settleOwn s.myCore else w
          let now := own && keys.length == srcs.length && !acq && v.ownNow && !(keys.any v.isBad)
            && (sure || (arr != 0 && Config.freeBool u.fresh))
          let frozen := arr == 0 || keys.any fun k => k % 8 == 5
          let read := srcs.map v.readFirst
          (now = false → ∃ t, exec i s = .next ((after t).closed s) ∧ (s.red = [] → SameBytes s ((after t).closed s))
              ∧ Queued (v.expects (s.fl.t + arr.toNat) v.portId false frozen ws) t
                { id := v.portId, bundle := v.me.seq, rank := if acq then 0 else 1, cls := ac.toNat, scope := scope, acq := acq, rel := false
                  own := anyOwn s.myCore (placedKeys read), since := v.dev.clock, addr := ea.toNat, via := ts, op := .load read })
          ∧ (now = true → exec i s = .next ((after ((({ v with portId := v.portId + 1 }).touch keys).expects (s.fl.t + arr.toNat)
              v.portId true false (landed (keys.map s.byte0) srcs))).closed s))
    let off7 := (addr.extractLsb' 0 7).signExtend 64
    let sz := (addr.extractLsb' 7 3).toNat
    let n := szBytes sz
    let moves (o : Word64) : Option Word64 := if pi = 1 then some (base + o) else none
    let at' (o : Word64) : Word64 := if ord = 0 ∧ pi = 0 then base + o else base
    let vec (bytes : List Byte) : Vec := BitVec.ofNat 1024 (leNat bytes)
    loads (.ld sp ac d a arr ord pi addr) (places (off7 * BitVec.ofNat 64 n) n n false) (addr.extractLsb' 4 3).toNat (ord == 1)
        (at' (off7 * BitVec.ofNat 64 n)) (moves (off7 * BitVec.ofNat 64 n))
        [(.load, .s d.toNat (BitVec.ofNat 64 (n + if 3 ≤ sz then 16 else 0)))]
        (fun bytes _ => [(.load, .s d.toNat (if 3 ≤ sz then (BitVec.ofNat (8 * n) (leNat (bytes.take n))).signExtend 64
          else BitVec.ofNat 64 (leNat (bytes.take n))))])
      ∧ (let off := (if nr = 1 then (addr.extractLsb' 0 6).signExtend 64 else addr.signExtend 64) <<< 7
        loads (.ldv sp ac v a arr nr ord pi addr) (places off 32 128 (nr == 1)) (addr.extractLsb' 7 3).toNat (ord == 1)
          (at' off) (moves off)
          ((.load, .v v.toNat 0) :: if nr = 1 then [(.landing, .m (addr.extractLsb' 6 4).toNat 0)] else [])
          (fun bytes srcs => (.load, .v v.toNat (vec bytes)) :: if nr = 1 then [(.landing, .m (addr.extractLsb' 6 4).toNat
            (BitVec.ofNat 128 (((srcs.zipIdx).map fun p => if p.1 = .absent then 2 ^ p.2 else 0).sum)))] else []))
      ∧ (let parts := (List.range (128 / 2 ^ esz.toNat)).map fun j =>
          ((base + BitVec.ofNat 64 j * s.sArg 8 r).toNat, 2 ^ esz.toNat)
        loads (.ldvs sp ac v a arr r esz) (if base.toNat % 32 ≠ 0 then alignFault sp.toNat .read base.toNat
          else s.placeParts sp.toNat .read (2 ^ esz.toNat) parts) 0 false base none [(.load, .v v.toNat 0)]
          fun bytes _ => [(.load, .v v.toNat (vec bytes))])
      ∧ (let parts := (List.range (min 32 (128 / 2 ^ esz.toNat))).map fun j =>
          ((base + ((s.vArg 0x100 x).extractLsb' (32 * j) 32).signExtend 64).toNat, 2 ^ esz.toNat)
        loads (.ldvg sp ac v a arr x esz) (s.placeParts sp.toNat .read (2 ^ esz.toNat) parts) 0 false base none
          [(.load, .v v.toNat 0)] fun bytes _ => [(.load, .v v.toNat (vec bytes))])
      ∧ (let ea := if pi = 0 then base + addr.signExtend 64 <<< 7 else base
        let tc := s.mine.tctlOf tile.toNat
        let rows := tcRows tc + 1
        let w := tcBpr tc + 1
        let parts := (List.range rows).map fun i => ((ea + BitVec.ofNat 64 (128 * i)).toNat, w)
        loads (.ldt sp ac tile a arr pi addr) (if ea.toNat % 128 ≠ 0 then alignFault sp.toNat .read ea.toNat
          else s.placeParts sp.toNat .read 1 parts) 0 false ea (if pi = 1 then some (base + addr.signExtend 64 <<< 7) else none)
          [(.landing, .tile tile.toNat ((List.range rows).map fun i => (128 * i, List.replicate w 0)))]
          fun bytes _ => [(.landing, .tile tile.toNat ((List.range rows).map fun i => (128 * i, (bytes.drop (w * i)).take w)))])

/-- R104, R106, R110 to R115: a store whose addresses translate writes its bytes at exactly the places of its form, the later of two
at one place left there: at once where all lie in the core's own memory with nothing before them, else from the memory port, memory
unchanged until it performs; bytes in own memory and the others perform apart. A store that does not translate takes its fault. No
other byte changes. The model's own choices: Racing tile reads are log entry 41, the two parts of a store log entry 22. -/
def Obligations.StoresReachTheirBytes : Prop :=
  (∀ (s : State) (rank cls scope addr : Nat) (acq rel : Bool) (via : List Trans) (op : PortOp),
    let keys := opKeys op
    let all := allOwn s.myCore keys
    let v := if all then s.settleOwn s.myCore else s
    let item (own : Bool) : PortItem :=
      { id := v.portId, bundle := v.me.seq, rank := rank, cls := cls, scope := scope, acq := acq, rel := rel, own := own
        since := v.dev.clock, addr := addr, via := via, op := op }
    let now := all && !acq && !rel && v.ownNow
    (now = false → Queued v (s.access rank cls scope acq rel addr via op) (item (anyOwn s.myCore keys)))
      ∧ (now = true → s.access rank cls scope acq rel addr via op = ({ v with portId := v.portId + 1 }).perform s.fl.ctx (item true)))
  ∧ ∀ (s : State) (sp esz : BitVec 2) (ac : BitVec 3) (sr : BitVec 6) (v x : BitVec 9) (a : BitVec 5) (addr : BitVec 10)
    (ord pi : BitVec 1) (tile : BitVec 4), s.wlog = [] → s.fl.live = true →
    let base := s.aArg 0 a
    let stores (i : Instr) (place : Placed) (bytes : List Byte) (scope : Nat) (rel : Bool) (ea : Word64) (moved : Option Word64)
        (races : Bool) : Prop :=
      let raced (t : State) : State := { t with fresh := if races then t.fresh + 4096 else t.fresh }
      let after (t : State) : State := match moved with
        | some m => (raced t).write (.a a.toNat m) 1
        | none => raced t
      (∀ e, place = .error e → exec i s = .next ((raced (s.accessFault e)).closed s))
        ∧ ∀ srcs ts, place = .ok (srcs, ts) →
          let cells := cellsOf srcs bytes
          let keys := cells.map (·.1)
          let mine := cells.filter fun p => ownCoreOf p.1 == some s.myCore
          let rest := cells.filter fun p => ownCoreOf p.1 != some s.myCore
          let dup := ts.any fun t => t.dup
          let u := s.taken i ts
          let put (t : State) (acq : Bool) (cs : List (Nat × Byte)) : State :=
            t.access (if rel then 3 else 2) ac.toNat scope acq rel ea.toNat ts (.store cs)
          exec i s = .next ((after (if rel = true ∨ mine = [] ∨ rest = [] then put u dup cells else put (put u false mine) dup rest)).closed s)
          ∧ (mine = [] → (s.red = [] → SameBytes s ((after (put u dup cells)).closed s)) ∧ Queued u (put u dup cells)
              { id := s.portId, bundle := s.me.seq, rank := if rel then 3 else 2, cls := ac.toNat, scope := scope, acq := dup, rel := rel
                own := false, since := s.dev.clock, addr := ea.toNat, via := ts, op := .store cells })
          ∧ (mine ≠ [] → rest = [] → rel = false → dup = false → s.ownNow = true → s.red = [] →
            ∃ t, exec i s = .next t ∧ SameBytesBut keys s t
              ∧ (∀ b c k w, cells = b ++ (k, w) :: c → k ∉ c.map (·.1) → s.drops k = false → t.byte k = w)
              ∧ t.fl = s.fl ∧ t.me = (after s).me ∧ t.red = [] ∧ ∀ c, c ≠ s.fl.ctx → t.ctx c = s.ctx c)
    let off7 := (addr.extractLsb' 0 7).signExtend 64
    let n := szBytes (addr.extractLsb' 7 3).toNat
    let word := s.sArg 8 sr
    let vec := s.vArg 0x80 v
    let vbytes : List Byte := (List.range 128).map fun i => vec.extractLsb' (8 * i) 8
    let moves (o : Word64) : Option Word64 := if pi = 1 then some (base + o) else none
    let at' (o : Word64) : Word64 := if ord = 0 ∧ pi = 0 then base + o else base
    let off10 := addr.signExtend 64 <<< 7
    stores (.st sp ac sr a ord pi addr) (s.placeAligned sp.toNat .write false n (at' (off7 * BitVec.ofNat 64 n)).toNat n)
        ((List.range n).map fun i => word.extractLsb' (8 * i) 8) (addr.extractLsb' 4 3).toNat (ord == 1)
        (at' (off7 * BitVec.ofNat 64 n)) (moves (off7 * BitVec.ofNat 64 n)) false
      ∧ stores (.stv sp ac v a ord pi addr) (s.placeAligned sp.toNat .write false 32 (at' off10).toNat 128) vbytes
        (addr.extractLsb' 7 3).toNat (ord == 1) (at' off10) (moves off10) false
      ∧ (let parts := (List.range (128 / 2 ^ esz.toNat)).map fun j =>
          ((base + BitVec.ofNat 64 j * s.sArg 8 sr).toNat, 2 ^ esz.toNat)
        stores (.stvs sp ac v a sr esz) (if base.toNat % 32 ≠ 0 then alignFault sp.toNat .write base.toNat
          else s.placeParts sp.toNat .write (2 ^ esz.toNat) parts) vbytes 0 false base none false)
      ∧ (let parts := (List.range (min 32 (128 / 2 ^ esz.toNat))).map fun j =>
          ((base + ((s.vArg 0x100 x).extractLsb' (32 * j) 32).signExtend 64).toNat, 2 ^ esz.toNat)
        stores (.stvg sp ac v a x esz) (s.placeParts sp.toNat .write (2 ^ esz.toNat) parts) vbytes 0 false base none false)
      ∧ (let ea := if pi = 0 then base + off10 else base
        let tc := s.mine.tctlOf tile.toNat
        let rows := tcRows tc + 1
        let w := tcBpr tc + 1
        let e := stt2Width (tcFmt tc)
        let news := s.tileNews s.myCore tile.toNat
        let byte (o : Nat) : Byte := s.tileRead s.myCore tile.toNat news o
        let plain := (List.range rows).map fun i => ((ea + BitVec.ofNat 64 (128 * i)).toNat, w)
        let turned := (List.range (w / e)).map fun j => ((ea + BitVec.ofNat 64 (16384 + 128 * j)).toNat, rows * e)
        let byRow := (List.range rows).flatMap fun r => (List.range w).map fun b => byte (128 * r + b)
        let byCol := (List.range (w / e)).flatMap fun j => (List.range rows).flatMap fun r =>
          (List.range e).map fun b => byte (128 * r + j * e + b)
        stores (.stt sp ac tile a pi addr) (if ea.toNat % 128 ≠ 0 then alignFault sp.toNat .write ea.toNat
            else s.placeParts sp.toNat .write 1 plain) byRow 0 false ea (moves off10) (!news.isEmpty)
          ∧ stores (.stt2 sp ac tile a pi addr) (if ea.toNat % 128 ≠ 0 then alignFault sp.toNat .write ea.toNat
            else if stt2Bad tc then .error { code := 0x27, detail := tile.toNat, faddr := 0, line := 0, mig := false }
            else s.placeParts sp.toNat .write 1 (plain ++ turned)) (byRow ++ byCol) 0 false ea (moves off10) (!news.isEmpty)
          ∧ (news = [] → ∀ o, byte o = s.mine.tileByte tile.toNat o))

/-- R74, R116, R117: AMO and RED stand in the port, or act at once on the core's own memory: AMO stores the new word there and its old
value lands after its space's arrival, RED leaves a contribution at the port that owns its word. The operations on 4 and on 8 bytes, the
additions of FP32 and of BF16 halves each rounded once. The model's own choices: Acting at once is log entry 22. -/
def Obligations.AtomicsAndReductions : Prop :=
  (∀ (s : State) (sp : BitVec 2) (ac scope : BitVec 3) (d sr : BitVec 6) (a : BitVec 5) (aop : BitVec 4)
    (w64 acq rel ord : BitVec 1), s.wlog = [] → (∀ p ∈ s.me.pend, p.id ≠ s.portId) →
      let amo : Instr := .amo sp ac d sr a scope aop w64 acq rel
      let red : Instr := .red sp ac sr a scope aop w64 rel ord
      let n := if w64 = 1 then 8 else 4
      let ea := s.aArg 0 a
      let place := s.placeAligned sp.toNat .write false n ea.toNat n
      let arg := (s.sArg 8 sr).toNat
      let cmp := if aop = 11 then (s.sArg 16 d).toNat else 0
      let amoRank := if rel = 1 then 3 else if acq = 1 then 0 else 2
      let arrives := s.fl.t + if sp = 0 then 12 else if sp = 2 then 64 else 640
      (∀ e, place = .error e → exec amo s = .next ((s.accessFault e).closed s) ∧ exec red s = .next ((s.accessFault e).closed s))
        ∧ ∀ srcs ts, place = .ok (srcs, ts) →
          let keys := placedKeys srcs
          let dup := ts.any fun t => t.dup
          let u (i : Instr) := s.taken i ts
          let lands (got : Bool) (w : Word64) : Ctx := { s.me with
            pend := pendInsert { due := arrives, kind := .load, id := s.portId, got := got, ready := got
                                 freeze := keys.any fun k => k % 8 == 5, w := .s d.toNat w } s.me.pend }
          let old := leNat (keys.map s.byte)
          exec amo s = .next ((((u amo).setMe (lands false (BitVec.ofNat 64 n))).access amoRank ac.toNat scope.toNat (acq == 1 || dup) (rel == 1)
              ea.toNat ts (.amo aop.toNat n srcs arg cmp)).closed s)
            ∧ exec red s = .next (((u red).access (if rel = 1 then 3 else 2) ac.toNat scope.toNat dup (rel == 1) ea.toNat ts
              (.red aop.toNat n (ord == 1) srcs arg)).closed s)
            ∧ (allOwn s.myCore keys = true → dup = false → rel = 0 → s.ownNow = true → s.red = [] → s.anyBad = false →
              srcs = keys.map .key → keys.Nodup → (∀ k ∈ keys, s.drops k = false) →
              (acq = 0 → ∃ t, exec amo s = .next t ∧ t.me = lands true (BitVec.ofNat 64 (old % 2 ^ (8 * n))) ∧ SameBytesBut keys s t
                  ∧ ∀ j k, keys[j]? = some k → t.byte k = BitVec.ofNat 8 (atomicNew aop.toNat n old arg cmp / 256 ^ j))
                ∧ ∃ t, exec red s = .next t ∧ SameBytes s t ∧ t.me = s.me
                  ∧ t.red = [{ key := keys.headD 0, keys := keys, op := aop.toNat, bytes := n, ordered := ord == 1, acc := arg
                               lanes := 2 ^ (n / 2) - 1, parts := [(s.myCore, s.portId, arg)], ctxs := [s.fl.ctx], soft := none
                               relaxed := true, born := s.now }]))
  ∧ ∀ w ∈ [32, 64], ∀ m x c : BitVec w,
      let new (k : Nat) : Nat := atomicNew k (w / 8) m.toNat x.toNat c.toNat
      let op (k : Nat) (r : BitVec w) : Prop := new k = r.toNat
      let sum (fmt a b : Nat) : Nat := (narrow (addVal (decodeFloat a fmt) (decodeFloat b fmt)).val fmt false).val
      let half (y : BitVec w) (i : Nat) : Nat := (y.extractLsb' (16 * i) 16).toNat
      op 0 (m + x) ∧ op 1 (m &&& x) ∧ op 2 (m ||| x) ∧ op 3 (m ^^^ x) ∧ op 4 (if x.slt m then x else m)
        ∧ op 5 (if m.slt x then x else m) ∧ op 6 (if x.ult m then x else m) ∧ op 7 (if m.ult x then x else m) ∧ op 10 x
        ∧ op 11 (if m = c then x else m) ∧ (w = 32 → new 8 = sum 0 m.toNat x.toNat)
        ∧ new 9 = ((List.range (w / 16)).map fun i => 65536 ^ i * sum 1 (half m i) (half x i)).sum

/-- R117 to R121: DRAIN holds the next bundle and drains the reductions that its scope covers; FENCE stands in the port; CVTWAYS
changes the number of converted ways, ways that change mode reading as zero, and is CACHEMODE with a fused L1. CINV, CWB and PREF act on
the lines that they name: CINV drops copies and dirty bytes, CWB stores what stands dirty in them, and PREF fetches each that is absent.
A fault of CINV or CWB in the translation is taken, one of PREF dropped. The model's own choices: That a context's pending stores are L1's
dirty bytes is log entry 18, what CVTWAYS drops log entry 112, what SP 2 does with CINV and CWB log entry 95. -/
def Obligations.OrderingAndCacheInstructions : Prop :=
  ∀ (s : State) (sp : BitVec 2) (ac scope : BitVec 3) (a : BitVec 5) (nw : BitVec 5) (nl : BitVec 10) (acls : BitVec 8),
    s.wlog = [] →
      let lines : List (Nat × Nat) := (List.range (nl.toNat + 1)).map fun i =>
        ((s.aArg 0 a &&& ~~~0x7F#64) + BitVec.ofNat 64 (128 * i) |>.toNat, 128)
      let place := s.placeParts sp.toNat .write 1 lines
      let named (srcs : List ByteSrc) : List Nat := cachedLines (placedKeys srcs)
      let drained (e : RedEntry) : Prop := covers scope.toNat s.myCore e.key = true ∨ s.fl.ctx ∈ e.ctxs
      let l1s := s.l1Cores s.myCore
      let w : State := if s.mine.nw < nw.toNat then (s.writeBackLines s.myCore fun _ => true).dropLines s.myCore else s
      (∃ t, exec (.drain scope) s = .next t ∧ t.me = { s.me with drain := some scope.toNat }
          ∧ (s.red = [] → t = s.setMe t.me)
          ∧ (∀ e, e ∈ t.red ↔ e ∈ s.red ∧ ¬drained e) ∧ ∀ k, (∀ e ∈ s.red, drained e → k ∉ e.keys) → t.byte k = s.byte k)
        ∧ (∃ t, exec (.fence scope acls) s = .next t ∧ Queued s t
          { id := s.portId, bundle := s.me.seq, rank := 5, cls := 0, scope := scope.toNat, acq := false, rel := false, own := false
            since := s.dev.clock, addr := 0, via := [], op := .fence acls.toNat })
        ∧ ((s.cluster (clusterOf s.myCore)).fused = true → exec (.cvtways nw) s = .next ((s.slotFault 0x30 0 0).closed s))
        ∧ ((s.cluster (clusterOf s.myCore)).fused = false → ∃ t, exec (.cvtways nw) s = .next t
          ∧ { t.mine with l1 := w.mine.l1 } = { w.mine with nw := nw.toNat } ∧ (w.red = [] → t.mine.l1 = w.mine.l1) ∧ (s.mine.nw < nw.toNat → t.mine.l1 = [])
          ∧ (∀ off, off < 2 ^ 18 → 16384 * min nw.toNat s.mine.nw ≤ off → off < 16384 * max nw.toNat s.mine.nw →
              t.byte (keyOf (.scratch s.myCore off)) = 0)
          ∧ (w.red = [] → ∀ k, (k % 8 ≠ 4 ∨ k / 8 / 2 ^ 18 ≠ s.myCore ∨ k / 8 % 2 ^ 18 < 16384 * min nw.toNat s.mine.nw
              ∨ 16384 * max nw.toNat s.mine.nw ≤ k / 8 % 2 ^ 18) → t.byte k = w.byte k)
          ∧ ∀ c, t.ctx c = w.ctx c)
        ∧ (∀ e, place = .error e → exec (.cinv sp ac a nl) s = .next ((s.accessFault e).closed s)
          ∧ exec (.cwb sp ac a nl) s = .next ((s.accessFault e).closed s))
        ∧ (∀ srcs ts, place = .ok (srcs, ts) →
          (∃ t, exec (.cinv sp ac a nl) s = .next t ∧ (s.red = [] → SameBytes s t
            ∧ (∀ o ∈ l1s, ∀ p, p ∈ (t.core o).l1 ↔ p ∈ (s.core o).l1 ∧ p.1 ∉ named srcs)
            ∧ ∀ o, { t.core o with l1 := (s.core o).l1 } = s.core o)
            ∧ ∀ c, { t.ctx c with port := (s.ctx c).port } = s.ctx c
              ∧ (coreOf c ∉ l1s → t.ctx c = s.ctx c)
              ∧ (coreOf c ∈ l1s → ∀ i ∈ (t.ctx c).port, ∀ cells, i.op = .store cells → i.rel = false → ∀ p ∈ cells, lineOf p.1 ∉ named srcs))
          ∧ ∃ t, exec (.cwb sp ac a nl) s = .next t
            ∧ ((∀ o j i cells, o ∈ l1s → j < 4 → i ∈ (s.ctx (4 * o + j)).port → i.op = .store cells → ∀ p ∈ cells, lineOf p.1 ∉ named srcs) →
              t = ((s.fills ts).countTiles sp.toNat lines).closed s)
            ∧ (∀ c i cells, coreOf c ∈ l1s → (s.ctx c).port = [i] → i.op = .store cells → (∃ p ∈ cells, lineOf p.1 ∈ named srcs) →
              (s.fills ts).portReady c 0 = true → s.red = [] → s.anyBad = false →
              (∀ d j, coreOf d ∈ l1s → d ≠ c → j ∈ (s.ctx d).port → ∀ cells', j.op = .store cells' → ∀ p ∈ cells', lineOf p.1 ∉ named srcs) →
              (t.ctx c).port = [] ∧ ((cells.map (·.1)).Nodup → ∀ k b, (k, b) ∈ cells → s.drops k = false → t.byte k = b)
                ∧ ((∀ tr ∈ i.via, tr.dup = false) → SameBytesBut (cells.map (·.1)) s t)))
        ∧ let fetch (u : State) (line : Nat) : State :=
            if u.copyOf s.myCore line = [] then (u.touch (lineKeys line)).fillLine s.myCore line else u
          (∃ t, exec (.pref sp ac a nl) s = .next t
            ∧ t = (lines.foldl (fun u l => match u.placeMine sp.toNat .read false l.1 l.2 with
                | .error _ => u
                | .ok (srcs, ts) => (named srcs).foldl fetch ((u.fills ts).countTiles sp.toNat [l])) s).closed s
            ∧ (s.red = [] → SameBytes s t ∧ (∀ c, t.ctx c = s.ctx c) ∧ (∀ o, o ∉ l1s → t.core o = s.core o)
              ∧ ∀ o, { t.core o with l1 := (s.core o).l1 } = s.core o))
            ∧ ∀ (u : State) (line : Nat), u.red = [] → SameBytes u (fetch u line)
              ∧ (u.copyOf s.myCore line = [] → 0 < u.cacheWays s.myCore →
                (fetch u line).copyOf s.myCore line = (lineKeys line).map u.byte)

/-! ### VEC slots -/

/-- R131 to R134: element-wise arithmetic. A float result is rounded once into the format; an integer result wraps in the element's width;
minimum and maximum take one of the two codes, or the canonical NaN where one is a NaN. The model's own choices: VFMA of a zero and an
infinity raises INV with a NaN as addend too (log entry 87). -/
def Obligations.VectorArithmetic : Prop :=
  ∀ (s : State) (vd va vb : BitVec 9) (fmt : BitVec 5) (m : BitVec 4) (men : BitVec 1), s.wlog = [] →
    let f := fmt.toNat
    let w := fmtWidth f
    let x (j : Nat) := lane (s.vArg 0 va) w j
    let y (j : Nat) := lane (s.vArg 0x80 vb) w j
    let z (j : Nat) := lane (s.vArg 0x100 vd) w j
    let lat (a b : Nat) := if fmt.toNat < 3 then a else b
    let is (i : Instr) (l : Nat) (ff : Nat → Res Val) (fi : Nat → Int) : Prop :=
      Lanes s i vd l w (1024 / w) (s.acts m men) (s.vArg 0x100 vd) fun j =>
        if isFloatFmt f then ⟨(narrow (ff j).val f false).val, (ff j).flags ||| (narrow (ff j).val f false).flags⟩
        else ⟨(fi j % 2 ^ w).toNat, 0⟩
    let dec (c : Nat) : Val := decodeFloat c f
    let int (c : Nat) : Int := if isSignedFmt f then signExt c w else (c : Int)
    let pick (i : Instr) (ff : Val → Val → Bool) (fi : Int → Int → Bool) : Prop :=
      Lanes s i vd 2 w (1024 / w) (s.acts m men) (s.vArg 0x100 vd) fun j => ⟨
        if isFloatFmt f then (if isNan (dec (x j)) || isNan (dec (y j)) then (fmtNan f).getD 0
          else if ff (dec (x j)) (dec (y j)) then y j else x j)
        else if fi (int (x j)) (int (y j)) then y j else x j, 0⟩
    let signed (i : Instr) (neg : Nat → Bool) (fi : Int → Int) : Prop :=
      Lanes s i vd 2 w (1024 / w) (s.acts m men) (s.vArg 0x100 vd) fun j => ⟨
        if isFloatFmt f then (if isNan (dec (x j)) then (fmtNan f).getD 0
          else (if neg (x j) then 2 ^ (w - 1) else 0) + x j % 2 ^ (w - 1))
        else (fi (int (x j)) % 2 ^ w).toNat, 0⟩
    is (.vadd vd va vb fmt m men) (lat 4 2) (fun j => addVal (dec (x j)) (dec (y j))) (fun j => int (x j) + int (y j))
      ∧ is (.vsub vd va vb fmt m men) (lat 4 2) (fun j => addVal (dec (x j)) (negVal (dec (y j)))) (fun j => int (x j) - int (y j))
      ∧ is (.vmul vd va vb fmt m men) (lat 4 3) (fun j => mulVal (dec (x j)) (dec (y j))) (fun j => int (x j) * int (y j))
      ∧ is (.vfma vd va vb fmt m men) 4 (fun j => fmaVal (dec (x j)) (dec (y j)) (dec (z j)))
        (fun j => int (x j) * int (y j) + int (z j))
      ∧ pick (.vmin vd va vb fmt m men) (fun a b => ltSigned b a) (fun a b => b < a)
      ∧ pick (.vmax vd va vb fmt m men) (fun a b => ltSigned a b) (fun a b => a < b)
      ∧ signed (.vabs vd va fmt m men) (fun _ => false) (fun a => a.natAbs)
      ∧ signed (.vneg vd va fmt m men) (fun c => !c.testBit (w - 1)) (fun a => -a)

/-- R133, R135 to R137: element-wise logic, shifts, moves, selection and permutation. A count of the width or more shifts everything out. -/
def Obligations.VectorLogicShiftsAndMoves : Prop :=
  ∀ (s : State) (vd va vb : BitVec 9) (sr : BitVec 6) (fmt : BitVec 5) (m : BitVec 4) (men : BitVec 1), s.wlog = [] →
    let w := fmtWidth fmt.toNat
    let x (j : Nat) := lane (s.vArg 0 va) w j
    let y (j : Nat) := lane (s.vArg 0x80 vb) w j
    let is (i : Instr) (l : Nat) (f : Nat → Nat) : Prop :=
      Lanes s i vd l w (1024 / w) (s.acts m men) (s.vArg 0x100 vd) fun j => ⟨f j, 0⟩
    is (.vand vd va vb fmt m men) 1 (fun j => x j &&& y j) ∧ is (.vor vd va vb fmt m men) 1 (fun j => x j ||| y j)
      ∧ is (.vxor vd va vb fmt m men) 1 (fun j => x j ^^^ y j) ∧ is (.vnot vd va fmt m men) 1 (fun j => 2 ^ w - 1 - x j)
      ∧ is (.vshl vd va vb fmt m men) 2 (fun j => if w ≤ y j then 0 else x j <<< y j)
      ∧ is (.vshr vd va vb fmt m men) 2 (fun j => if w ≤ y j then 0 else x j >>> y j)
      ∧ is (.vsra vd va vb fmt m men) 2 (fun j => (signExt (x j) w / 2 ^ min (y j) w % 2 ^ w).toNat)
      ∧ is (.vmov vd va fmt m men) 1 x
      ∧ is (.vbcast vd sr fmt m men) 2 (fun _ => (s.sArg 0 sr).toNat)
      ∧ is (.vperm vd va vb fmt m men) 3 (fun j => x (y j % (1024 / w)))
      ∧ Lanes s (.vsel vd va vb fmt m) vd 1 w (1024 / w) (fun j => (s.mArg 0x180 m).getLsbD j) (s.vArg 0x80 vb) fun j => ⟨x j, 0⟩

/-- R131, R136, R142, R143, R147: what writes a mask: VCMP by its predicate, VTHR against a scalar's element, VTOPK the first K active
elements in order, and the mask instructions; MPOPC counts. -/
def Obligations.ComparesAndMasks : Prop :=
  ∀ (s : State) (md ma mb m : BitVec 4) (sd sr : BitVec 6) (va vb : BitVec 9) (fmt : BitVec 5) (men : BitVec 1) (fn : BitVec 4),
    s.wlog = [] →
      let f := fmt.toNat
      let w := fmtWidth f
      let n := 1024 / w
      let x (j : Nat) := decodeElem (lane (s.vArg 0 va) w j) f
      let y (j : Nat) := decodeElem (lane (s.vArg 0x80 vb) w j) f
      let ra := s.mArg 0 ma
      let rb := s.mArg 0x80 mb
      let put (i : Instr) (k : Mask) : Prop :=
        exec i s = .next (s.write (.m md.toNat (if men = 1 then k &&& s.mArg 0x180 m else k)) 1)
      let sooner (i j : Nat) : Prop :=
        if isNan (x i) then isNan (x j) = true ∧ i < j
        else isNan (x j) = true ∨ ltVal (x j) (x i) = true ∨ (eqVal (x i) (x j) = true ∧ i < j)
      MaskOf s (.vcmp md va vb fmt m men fn) md 2 n (s.acts m men) (fun j => match fn with
          | 0 => eqVal (x j) (y j) | 1 => !eqVal (x j) (y j) | 2 => ltVal (x j) (y j)
          | 3 => ltVal (x j) (y j) || eqVal (x j) (y j) | 4 => ltVal (y j) (x j) | 5 => ltVal (y j) (x j) || eqVal (x j) (y j)
          | 6 => isNan (x j) || isNan (y j) | _ => !isNan (x j) && !isNan (y j))
        ∧ (let t := decodeElem ((s.sArg 0x80 sr).toNat % 2 ^ w) f
          MaskOf s (.vthr md va sr fmt m men) md 3 n (s.acts m men) fun j => ltVal t (x j) || eqVal t (x j))
        ∧ (∃ k : Mask, exec (.vtopk md va sr fmt m men) s = .next (s.write (.m md.toNat k) 12)
          ∧ ∀ j, j < 128 → (k.getLsbD j = true ↔ j < n ∧ s.acts m men j = true ∧ ∃ rivals : List Nat, rivals.Nodup
            ∧ (∀ i, i ∈ rivals ↔ i < n ∧ s.acts m men i = true ∧ sooner i j) ∧ rivals.length < (s.sArg 0x80 sr).toNat))
        ∧ put (.mand md ma mb m men) (ra &&& rb) ∧ put (.mor md ma mb m men) (ra ||| rb) ∧ put (.mxor md ma mb m men) (ra ^^^ rb)
        ∧ put (.mnot md ma m men) (~~~ra)
        ∧ (∃ l : List Nat, l.Nodup ∧ (∀ j, j ∈ l ↔ j < 128 ∧ s.acts m men j = true ∧ ra.getLsbD j = true)
          ∧ exec (.mpopc sd ma m men) s = .next (s.write (.s sd.toNat (BitVec.ofNat 64 l.length)) 2))

/-- R137 to R139: VEXT and VINS move one element, named modulo the number of elements; VRED combines the active elements and VSCAN
gives every prefix of them, integers exactly in 64 bits and then in the element, floats in FP32 and then narrowed. The integer
formats that VRED accepts have 8 bits or more. -/
def Obligations.LaneMovesReductionsAndScans : Prop :=
  ∀ (s : State) (sd sr sl : BitVec 6) (vd va : BitVec 9) (fmt : BitVec 5) (m fn : BitVec 4) (men : BitVec 1), s.wlog = [] →
    let f := fmt.toNat
    let w := fmtWidth f
    let n := 1024 / w
    let x (j : Nat) := lane (s.vArg 0 va) w j
    let act := s.acts m men
    let j := (s.sArg 0x80 sl).toNat % n
    let int (c : Nat) : Int := if isSignedFmt f then signExt c w else (c : Int)
    let put (i : Instr) (v : Word64) (lat : Nat) : Prop := exec i s = .next (s.write (.s sd.toNat v) lat)
    let live := (List.range n).filter act
    let red := Instr.vred sd va fmt m men fn
    put (.vext sd va sl fmt m men)
        (if act j then (if isFloatFmt f then BitVec.ofNat 64 (x j) else BitVec.ofInt 64 (int (x j))) else 0) 3
      ∧ (act j = false → exec (.vins vd sr sl fmt m men) s = .next s)
      ∧ (act j = true → Lanes s (.vins vd sr sl fmt m men) vd 2 w n (fun i => i == j) (s.vArg 0x100 vd) fun _ => ⟨(s.sArg 0 sr).toNat, 0⟩)
      ∧ (isFloatFmt f = false → 8 ≤ w → fn = 0 → put red (BitVec.ofInt 64 ((live.map fun i => int (x i)).sum)) 6)
      ∧ (isFloatFmt f = false → 8 ≤ w → fn = 1 → ∃ r : Int, put red (BitVec.ofInt 64 r) 6 ∧ (∀ i ∈ live, r ≤ int (x i))
        ∧ if live = [] then r = intMax f else ∃ i ∈ live, r = int (x i))
      ∧ (isFloatFmt f = false → 8 ≤ w → fn = 2 → ∃ r : Int, put red (BitVec.ofInt 64 r) 6 ∧ (∀ i ∈ live, int (x i) ≤ r)
        ∧ if live = [] then r = intMin f else ∃ i ∈ live, r = int (x i))
      ∧ (isFloatFmt f = false → 8 ≤ w → 3 ≤ fn.toNat → ∃ v : Word64, put red v 6 ∧ ∀ b, b < 64 → v.getLsbD b =
        match fn with
        | 3 => decide (b < w) && live.all fun i => (x i).testBit b
        | 4 => live.any fun i => (x i).testBit b
        | _ => (live.filter fun i => (x i).testBit b).length % 2 == 1)
      ∧ (isFloatFmt f = true → ∃ r flags, redTree fn.toNat f 7 ((List.range n).map fun i =>
          if act i then some (narrow (decodeFloat (x i) f) 0 false).val else none) = (r, flags)
        ∧ exec red s = .next ((s.write (.s sd.toNat (BitVec.ofNat 64 (r.getD (redIdentity fn.toNat f)))) (if fn = 0 then 10 else 6)).mergeSlot flags))
      ∧ (let run (k : Nat) : Nat := (live.filter (· < k)).foldl (fun r i => (redComb fn.toNat f r (redLeaf fn.toNat f (x i))).val)
            (redIdentity fn.toNat f)
        Lanes s (.vscan vd va fmt m men fn) vd 12 w n act (s.vArg 0x100 vd) fun i =>
          if isFloatFmt f then
            ⟨(narrow (decodeFloat (run (i + 1)) 0) f false).val, (redComb fn.toNat f (run i) (redLeaf fn.toNat f (x i))).flags
              ||| (narrow (decodeFloat (run (i + 1)) 0) f false).flags⟩
          else ⟨run (i + 1), 0⟩)

/-- R140, R141: VCVT converts each element, the narrower side packed in the low bits; VRCP, VRSQ and VEXP2 give the rounded function
of each element. The model's own choices: The value that VEXP2 rounds for an operand that is no integer is the model's enclosure
(log entry 12). -/
def Obligations.VectorConversionAndFunctions : Prop :=
  ∀ (s : State) (vd va : BitVec 9) (sfmt fmt : BitVec 5) (m : BitVec 4) (men sat : BitVec 1), s.wlog = [] →
    let f := fmt.toNat
    let w := fmtWidth f
    let ws := fmtWidth sfmt.toNat
    let each (i : Instr) (g : Val → Res Val) : Prop :=
      Lanes s i vd 8 w (1024 / w) (s.acts m men) (s.vArg 0x100 vd) fun j =>
        let r := g (decodeFloat (lane (s.vArg 0 va) w j) f)
        ⟨(narrow r.val f false).val, r.flags ||| (narrow r.val f false).flags⟩
    Lanes s (.vcvt vd va sfmt fmt m men sat) vd 4 w (1024 / max (max ws w) 8) (s.acts m men) (s.vArg 0x100 vd) (fun j =>
        let v := decodeElem (lane (s.vArg 0 va) ws j) sfmt.toNat
        if isFloatFmt f then narrow v f (sat == 1) else ⟨((toIntFmt v f).val % 2 ^ w).toNat, (toIntFmt v f).flags⟩)
      ∧ each (.vrcp vd va fmt m men) (fun v => match v with
        | .nan => ⟨.nan, 0⟩
        | .inf neg => ⟨.fin neg 0 1, 0⟩
        | .fin neg a b => if a = 0 then ⟨.inf neg, flagDz⟩ else ⟨.fin neg b a, 0⟩)
      ∧ each (.vrsq vd va fmt m men) (fun v => match v with
        | .nan => ⟨.nan, 0⟩
        | .inf neg => if neg then ⟨.nan, flagInv⟩ else ⟨.fin false 0 1, 0⟩
        | .fin neg a b => if a = 0 then ⟨.inf neg, flagDz⟩ else if neg then ⟨.nan, flagInv⟩ else ⟨recipSqrt a b, 0⟩)
      ∧ each (.vexp2 vd va fmt m men) (fun v => match v with
        | .nan => ⟨.nan, 0⟩
        | .inf neg => if neg then ⟨.fin false 0 1, 0⟩ else ⟨.inf false, 0⟩
        | .fin neg a b => ⟨exp2Val neg a b, 0⟩)

/-- R144 to R146, R290: VHIST adds one for each active element to the count at S plus its value, positions 0 to 63; SCACC scales and
accumulates; VEFQ quantises with error feedback into codes, scales and the new feedback. The model's own choices: SCACC of a zero and an
infinite scale raises INV with a NaN accumulator too (log entry 87). -/
def Obligations.HistogramsAndScaledAccumulation : Prop :=
  ∀ (s : State) (vd va vb : BitVec 9) (sr : BitVec 6) (fmt : BitVec 5) (m : BitVec 4) (men : BitVec 1), s.wlog = [] →
    let f := fmt.toNat
    let w := fmtWidth f
    let a := s.vArg 0 va
    let b := s.vArg 0x80 vb
    let d := s.vArg 0x100 vd
    let int (c : Nat) : Int := if isSignedFmt f then signExt c w else (c : Int)
    let pos (j : Nat) : Int := (s.sArg 0x80 sr).toNat + int (lane a w j)
    let blocks := (List.range 8).map fun k =>
      errorFeedback ((List.range 4).map fun i => lane a 32 (4 * k + i)) ((List.range 4).map fun i => lane b 16 (4 * k + i))
    (∃ ps, exec (.vhist va sr fmt m men) s = .next ((s.write (.count ps) 1).mergeSlot
          (if ∃ p ∈ ps, 2 ^ 32 ≤ s.me.cq.getD p 0 + pendingCounts s.me.pend p + ps.count p then flagOvf else 0))
        ∧ ∀ p, ps.count p = ((List.range (1024 / w)).filter fun j =>
            s.acts m men j && decide (0 ≤ int (lane a w j)) && decide (pos j = p) && decide (p < 64)).length)
      ∧ Lanes s (.scacc vd va vb m men) vd 4 32 32 (s.acts m men) d (fun j =>
        scaleAcc (lane d 32 j) (signExt (lane a 32 j) 32) (lane b 16 (2 * j)) (lane b 16 (2 * j + 1)))
      ∧ ∃ (v u : Vec) (flags : Nat), exec (.vefq vd va vb) s = .next (((s.write (.v vd.toNat v) 6).write (.v vb.toNat u) 6).mergeSlot flags)
        ∧ (∀ k, k < 8 → ∃ r, blocks[k]? = some r ∧ lane v 16 (16 + k) = r.val.1 % 2 ^ 16
          ∧ ∀ i, i < 4 → r.val.2.1.length = 4 ∧ r.val.2.2.length = 4
            ∧ lane v 8 (4 * k + i) = r.val.2.1.getD i 0 % 2 ^ 8 ∧ lane u 16 (4 * k + i) = r.val.2.2.getD i 0 % 2 ^ 16)
        ∧ (∀ i, 384 ≤ i → v.getLsbD i = false) ∧ (∀ i, 512 ≤ i → u.getLsbD i = b.getLsbD i)
        ∧ ∀ c, flags.testBit c = true ↔ ∃ r ∈ blocks, r.flags.testBit c = true

/-! ### XFM, SCL and MTX slots -/

/-- R148 to R153: the transform units copy their source at the read phase and put a tile with its control register on their way,
with a companion of scales where the destination is a block format; a shape or format they do not take is TILEFMT. XEXP widens
codes, XTRN transposes, XCVT converts and quantises along rows, XREBLK along columns. The model's own choices: Which bytes of a row
count is log entry 27; TILEFMT for a row without a whole element and for an XREBLK of more than 128 elements, and that it names the source
tile, log entry 89. -/
def Obligations.TransformsWriteTiles : Prop :=
  ∀ (s : State) (td ta : BitVec 4) (fmt : BitVec 5), s.wlog = [] →
    let f := fmt.toNat
    let a := ta.toNat
    let d := td.toNat
    let tc := s.mine.tctlOf a
    let n := tcBpr tc + 1
    let news := s.tileNews s.myCore a
    let src := s.source a
    let gives (i : Instr) (unit ii lat df gsz rows count : Nat) (code scale : Nat → Nat → Nat) (flags : Nat) : Prop :=
      let w := fmtWidth df
      let u : State := { s with fresh := if news = [] then s.fresh else s.fresh + 4096 }
      let v := u.setMine { s.mine with xfmNext := tabPut s.mine.xfmNext unit (s.fl.t + ii) }
      ∃ t, TileOut v t d lat rows (count * w / 8) w count code (tcOf df (rows - 1) (count * w / 8 - 1) gsz)
        ∧ (isBlockFmt df = false → exec i s = .next (t.mergeSlot flags))
        ∧ (isBlockFmt df = true → ∃ c, TileOut t c (d + 1) lat rows (2 * ((count + 3) / 4)) 16 ((count + 3) / 4) scale
            (tcOf 22 (rows - 1) (count / 2 - 1) 0)
          ∧ exec i s = .next (c.mergeSlot flags))
    let exp := src f
    let self := src (tcFmt tc)
    let bad (i : Instr) : Prop := exec i s = .next ((s.slotFault 0x27 a 0).closed s)
    let val (r e : Nat) : Val := (self.value r e).val
    let quant (xs : Nat → Nat → Val) (r b : Nat) : Res (Nat × List Nat) :=
      blockQuantise ((List.range 4).map fun k => xs r (4 * b + k)) (fmtBase f)
    let blockBad := isBlockFmt (tcFmt tc) && (a % 2 == 1 || !s.me.tgrant.testBit (a + 1))
    (fmt ∈ [7#5, 5, 6, 10, 11, 12, 13, 16] →
        if (fmtWidth f = 4 ∧ 64 < n) ∨ (fmtWidth f = 6 ∧ (n % 3 ≠ 0 ∨ 96 < n)) then bad (.xexp td ta fmt)
        else gives (.xexp td ta fmt) 0 8 10 (if f = 16 then 17 else if f = 13 then 14 else if 10 ≤ f then 8 else 3)
          (if f = 13 then tcGsz tc else 0) exp.nrow exp.ecnt
          (fun r e => if f = 16 then (signExt (exp.code r e) 4 % 256).toNat else if f = 13 then exp.code r e
            else (narrow (decodeFloat (exp.code r e) f) 3 true).val)
          (fun r b => elemAt (exp.scales.getD r 0) 16 b % 1024) 0)
      ∧ (let g := tcFmt tc
        if ¬(g < 5 ∨ (17 ≤ g ∧ g < 25)) ∨ 1024 < self.nrow * fmtWidth g ∨ self.ecnt = 0 then bad (.xtrn td ta)
        else gives (.xtrn td ta) 2 16 20 g 0 self.ecnt self.nrow (fun r e => self.code e r) (fun _ _ => 0) 0)
      ∧ (let g := tcFmt tc
        let c := self.ecnt
        isFmt f = true →
        if g = 13 ∨ g = 14 ∨ c = 0 ∨ 1024 < c * fmtWidth f ∨ (c % 4 ≠ 0 ∧ (isBlockFmt f = true ∨ fmtWidth f = 6))
            ∨ (c % 2 = 1 ∧ fmtWidth f = 4) ∨ blockBad = true then bad (.xcvt td ta fmt)
        else ∃ flags, gives (.xcvt td ta fmt) 1 8 12 f 0 self.nrow c
            (fun r e => if isBlockFmt f then ((quant val r (e / 4)).val.2.getD (e % 4) 0) else (convertTo (val r e) f false).val)
            (fun r b => (quant val r b).val.1) flags
          ∧ ∀ b, flags.testBit b = true ↔ ∃ r e, r < self.nrow ∧ e < c ∧
            ((if isBlockFmt f then (quant val r (e / 4)).flags else (convertTo (val r e) f false).flags)
              ||| (self.value r e).flags).testBit b = true)
      ∧ (let g := tcFmt tc
        let col (j r : Nat) : Val := (self.value r j).val
        isBlockFmt f = true →
        if isFloatFmt g = false ∨ self.nrow % 4 ≠ 0 ∨ 1024 < self.nrow * fmtWidth f ∨ self.ecnt = 0 ∨ 128 < self.ecnt ∨ blockBad = true
        then bad (.xreblk td ta fmt)
        else ∃ flags, gives (.xreblk td ta fmt) 2 16 28 f 0 self.ecnt self.nrow
            (fun j e => (quant col j (e / 4)).val.2.getD (e % 4) 0) (fun j b => (quant col j b).val.1) flags
          ∧ ∀ b, flags.testBit b = true ↔ ∃ j r, j < self.ecnt ∧ r < self.nrow ∧
            ((quant col j (r / 4)).flags ||| (self.value r j).flags).testBit b = true)
      ∧ (news = [] → ∀ r k, s.rowNat a r k = leNat ((List.range k).map fun b => s.mine.tileByte a (128 * r + b)))

/-- R164: SLATCH sets 64 latches of a side from a vector's containers and SLCLR all 128 to 1.0, for blocks that begin 6 cycles after
issue; a running routine counts the instruction. -/
def Obligations.ScaleLatchesChangeLater : Prop :=
  ∀ (s : State) (side half : BitVec 1) (v : BitVec 9), s.wlog = [] →
    let sets (i : Instr) (first n : Nat) (code : Nat → Nat) : Prop :=
      ∃ t, exec i s = .next t
        ∧ (∀ sd row cyc, row < 128 → s.mine.latchFrom ≤ cyc → t.mine.latchAt sd row cyc =
          if sd = side.toNat ∧ s.fl.t + 6 ≤ cyc ∧ first ≤ row ∧ row < first + n then code (row - first)
          else s.mine.latchAt sd row cyc)
        ∧ t = s.setMine { s.mine with latches := t.mine.latches, latchIn := t.mine.latchIn, routine := s.mine.routine.map fun r =>
            if side = 0 then { r with sclA := r.sclA ++ [s.fl.t] } else { r with sclB := r.sclB ++ [s.fl.t] } }
    sets (.slatch side v half) (64 * half.toNat) 64 (fun j => lane (s.vArg 0 v) 16 j % 1024)
      ∧ sets (.slclr side) 0 128 (fun _ => 0x1F0)

/-- R80, R154, R155, R167: MCALL, ACZ and ACREL commit an entry at the tail of the matrix queue. An output handle that has no slot takes
the first free one, zeroed. A call with a bad argument or of an empty entry is MCALLARG; a full queue or too few free slots hold
the bundle; ACZ and ACREL are illegal in compatibility mode. -/
def Obligations.MatrixQueueInstructions : Prop :=
  ∀ (s : State) (entry : BitVec 6) (slot : BitVec 4), s.wlog = [] →
    let k := s.mine
    let h := slot.toNat
    let queued (op : MatrixOp) : List MatrixEntry := k.mq ++ [{ ctx := s.fl.ctx, at' := s.fl.t, op := op, mark := s.portId, begun := false }]
    let zeroed (slot : Nat) (t : State) : Prop := ∀ i, 16384 * slot ≤ i → i < 16384 * (slot + 1) → tabGet 0 t.mine.acm i = 0
    let next : State := { s with portId := s.portId + 1 }
    let ps : List Word64 := (List.range 8).map fun j => s.pArg (BitVec.ofNat 3 j)
    let shapes := (List.range 16).map fun t => (t, s.opTctl t)
    (s.me.compat = true → exec (.acz slot) s = .next ((s.illegal (2 ^ 10)).closed s)
        ∧ exec (.acrel slot) s = .next ((s.illegal (2 ^ 10)).closed s))
      ∧ (s.me.compat = false → 8 ≤ k.mq.length → exec (.acz slot) s = .next s.endFlight ∧ exec (.acrel slot) s = .next s.endFlight)
      ∧ (s.me.compat = false → k.mq.length < 8 → exec (.acrel slot) s = .next (next.setMine { k with mq := queued (.acrel h) })
        ∧ ((s.me.slotFor h).isSome → exec (.acz slot) s = .next (next.setMine { k with mq := queued (.acz h) }))
        ∧ (s.me.slotFor h = none → k.free = [] → exec (.acz slot) s = .next s.endFlight)
        ∧ ∀ f rest, s.me.slotFor h = none → k.free = f :: rest → ∃ t, exec (.acz slot) s = .next t ∧ zeroed f t
          ∧ (∀ i, (i < 16384 * f ∨ 16384 * (f + 1) ≤ i) → tabGet 0 t.mine.acm i = tabGet 0 k.acm i)
          ∧ t = (next.setMe { s.me with handles := tabPut s.me.handles h f }).setMine
            { k with mq := queued (.acz h), free := rest, acm := t.mine.acm, slotInt := tabErase k.slotInt f })
      ∧ (k.committedKinds entry.toNat = none → exec (.mcall entry) s = .next ((s.slotFault 0x28 entry.toNat 0).closed s))
      ∧ ∀ kinds, k.committedKinds entry.toNat = some kinds →
        let bad := ∃ j p, ps[j]? = some p ∧ argBad s.me.tgrant (kindOf kinds j) p.toNat = true
        let outs : List Nat := s.me.unmapped (outHandles kinds ps)
        (bad → exec (.mcall entry) s = .next ((s.slotFault 0x28 entry.toNat 0).closed s))
          ∧ (¬bad → 8 ≤ k.mq.length ∨ k.free.length < outs.length → exec (.mcall entry) s = .next s.endFlight)
          ∧ (¬bad → k.mq.length < 8 → outs.length ≤ k.free.length → ∃ t, exec (.mcall entry) s = .next t
            ∧ t.mine.mq = queued (.call entry.toNat kinds ps shapes) ∧ t.mine.free = k.free.drop outs.length
            ∧ (∀ (j o : Nat), outs[j]? = some o → t.me.slotFor o = k.free[j]?) ∧ (∀ (j f : Nat), j < outs.length → k.free[j]? = some f → zeroed f t)
            ∧ { t.me with handles := s.me.handles } = s.me
            ∧ { t.mine with mq := k.mq, free := k.free, acm := k.acm, slotInt := k.slotInt } = k ∧ SameBytes s t)

/-- R169, R170, R192: MPSLD and the drains read their image or descriptor in the core's own PM at commit, as every store of the context
before them leaves it, check it, and queue what they read; a bad one is MPSIMG or DRAINDESC, an error in its data MEMERR. The model's own
choices: A bad image is MPSIMG (with log entry 31), a bad descriptor DRAINDESC; no room ends the flight. -/
def Obligations.ImagesAndDescriptorsAreQueued : Prop :=
  ∀ (s : State) (p grp : BitVec 3) (slot : BitVec 4) (dst : BitVec 1), s.wlog = [] →
    let k := s.mine
    let v := s.pArg p
    let queued (op : MatrixOp) : State :=
      State.setMine { s with portId := s.portId + 1 }
        { k with mq := k.mq ++ [{ ctx := s.fl.ctx, at' := s.fl.t, op := op, mark := s.portId, begun := false }] }
    let a := (v.extractLsb' 0 24).toNat
    let entry := (v.extractLsb' 24 6).toNat
    let hd := BitVec.ofNat 64 (s.commitNat a 8)
    let n := (hd.extractLsb' 0 10).toNat + 1
    let base := (hd.extractLsb' 10 10).toNat
    let kinds := (hd.extractLsb' 20 16).toNat
    let words := (List.range n).map fun i => s.commitNat (a + 8 + 4 * i) 4
    let named := 16 ≤ entry ∧ a % 8 = 0 ∧ ownPm s.myCore a 8 = true
    let shaped := ownPm s.myCore a (8 + 4 * n) = true ∧ hd.extractLsb' 36 28 = 0 ∧ base + n ≤ 1024 ∧ ∀ j, j < 8 → kindOf kinds j ≠ 3
    let image := Instr.mpsld p
    let bad (i : Instr) (code detail : Nat) : Prop := exec i s = .next ((s.slotFault code detail 0).closed s)
    let spoilt (i : Instr) (e : AFault) : Prop := exec i s = .next ((s.accessFault e).closed s)
    let ws := (List.range 8).map fun i => s.commitNat (v.toNat + 8 * i) 8
    let drains (i : Instr) (adjoint : Bool) : Prop :=
      let placed := v.extractLsb' 24 40 = 0 ∧ v.extractLsb' 0 6 = 0 ∧ ownPm s.myCore v.toNat 64 = true
      let refused := drainBad s ws grp.toNat (dst == 1) adjoint = true
      (8 ≤ k.mq.length → exec i s = .next s.endFlight)
        ∧ (k.mq.length < 8 → ¬placed → bad i 0x2A 0)
        ∧ (k.mq.length < 8 → placed → ∀ e, s.commitBad v.toNat 64 = some e → spoilt i e)
        ∧ (k.mq.length < 8 → placed → s.commitBad v.toNat 64 = none → (refused → bad i 0x2A 0)
          ∧ (¬refused → exec i s = .next (queued (.drain slot.toNat grp.toNat (dst == 1) adjoint (ws.map (BitVec.ofNat 64))))))
    (8 ≤ k.mq.length → exec image s = .next s.endFlight)
      ∧ (k.mq.length < 8 → ¬named → bad image 0x29 entry)
      ∧ (k.mq.length < 8 → named → ∀ e, s.commitBad a 8 = some e → spoilt image e)
      ∧ (k.mq.length < 8 → named → s.commitBad a 8 = none → (¬shaped → bad image 0x29 entry)
        ∧ (shaped → ∀ e, s.commitBad a (8 + 4 * n) = some e → spoilt image e)
        ∧ (shaped → s.commitBad a (8 + 4 * n) = none → ((∃ w ∈ words, wordOk kinds base n w = false) → bad image 0x29 entry)
          ∧ ((∀ w ∈ words, wordOk kinds base n w = true) → exec image s = .next (queued (.mpsld entry base kinds words)))))
      ∧ drains (.acwb slot grp p dst) false ∧ drains (.acadj slot grp p dst) true
      ∧ ∀ c len, s.me.port = [] → s.red = [] → s.commitNat c len = leNat ((keysFrom (keyOf (.pm s.myCore (c % 2 ^ 20))) len).map s.byte)

/-- R168: in compatibility mode ACBRD puts the rows at the pointers of one or two banks on their way to vector registers, and ACBWR
writes them; each pointer advances modulo 512. In native mode both are illegal. While an MSTEP
of the running routine works on the bank, and in the cycle of an MCLR, a read gives each word as it stands before or after the chunk
under way, and a write stands beside the routine until that chunk is done. The model's own choices: which chunk is under way, and the
free choice of each word, are log entry 29. -/
def Obligations.BankRowsReadAndWritten : Prop :=
  ∀ (s : State) (ba bb : BitVec 4) (v : BitVec 9) (one : BitVec 1), s.wlog = [] →
    let k := s.mine
    let row (b i : Nat) : Nat := 16384 * b + 32 * tabGet 0 k.bankPtr b + i
    let mayRead (b i : Nat) (w : BitVec 32) : Prop := (s.stepping b = none → w = tabGet 0 k.acm (row b i))
      ∧ ∀ lo hi, s.stepping b = some (lo, hi) → ∃ n, lo ≤ n ∧ n ≤ hi ∧ (s.bankAfter b n)[i]? = some w
    let put (b value choice : Nat) : List BankPut := match s.stepping b with
      | none => []
      | some (_, hi) => [{ chunk := hi - 1, key := row b 0, value := value, choice := choice }]
    let x := s.opV 0 v.toNat
    let y := s.opV 0x80 (v.toNat + 1)
    let a := ba.toNat
    let b := bb.toNat
    (s.me.compat = false → exec (.acbrd ba bb v one) s = .next ((s.illegal (2 ^ 10)).closed s)
        ∧ exec (.acbwr ba bb v one) s = .next ((s.illegal (2 ^ 10)).closed s))
      ∧ (s.me.compat = true → one = 1 ∨ a ≠ b →
        (∃ (x y : Vec) (t : State), exec (.acbrd ba bb v one) s = .next t
          ∧ (∀ i, i < 32 → mayRead a i (x.extractLsb' (32 * i) 32) ∧ (one = 0 → mayRead b i (y.extractLsb' (32 * i) 32)))
          ∧ t.me = (if one = 1 then s.write (.v v.toNat x) 4 else (s.write (.v v.toNat x) 4).write (.v (v.toNat + 1) y) 4).me
          ∧ (∀ c, tabGet 0 t.mine.bankPtr c = if c = a ∨ (one = 0 ∧ c = b) then (tabGet 0 k.bankPtr c + 1) % 512 else tabGet 0 k.bankPtr c)
          ∧ { t.mine with bankPtr := k.bankPtr } = k ∧ SameBytes s t)
        ∧ ((∀ c, tabGet 0 k.bankPtr c < 512) → ∃ t, exec (.acbwr ba bb v one) s = .next t
          ∧ (∀ i, i < 32 → (s.stepping a = none → (tabGet 0 t.mine.acm (row a i)).toNat = elemAt x 32 i)
            ∧ (one = 0 → s.stepping b = none → (tabGet 0 t.mine.acm (row b i)).toNat = elemAt y 32 i))
          ∧ (∀ j, (s.stepping a ≠ none ∨ j < row a 0 ∨ row a 32 ≤ j) → (one = 1 ∨ s.stepping b ≠ none ∨ j < row b 0 ∨ row b 32 ≤ j) →
            tabGet 0 t.mine.acm j = tabGet 0 k.acm j)
          ∧ (∀ c, tabGet 0 t.mine.bankPtr c = if c = a ∨ (one = 0 ∧ c = b) then (tabGet 0 k.bankPtr c + 1) % 512 else tabGet 0 k.bankPtr c)
          ∧ let first := put a x s.fresh
            let puts := first ++ if one = 0 then put b y (s.fresh + 32 * first.length) else []
            t = State.setMine { s with fresh := s.fresh + 32 * puts.length }
              { k with bankPtr := t.mine.bankPtr, acm := t.mine.acm, routine := k.routine.map fun r => { r with puts := r.puts ++ puts } }))

/-! ### Matrix routines and the matrix queue -/

/-- R158, R159, R163, R164: the micro-instructions that set the routine's state, loop, jump, wait and end, each with its cycles; the next
one begins when it ends. A fifth loop ends the routine with INV; MWAITS without an SCL instruction of its side holds. A core
without a routine executes none. -/
def Obligations.MicroControl : Prop :=
  ∀ (s : State) (c10 t10 : BitVec 10) (p : BitVec 3) (k12 : BitVec 12) (fa fb : BitVec 5) (side en : BitVec 1), s.wlog = [] →
    let k := s.mine
    (k.routine = none → ∀ i ∈ [Instr.midle c10, .mlda p 0 0, .mldb p 0 0, .mstep 0, .mscale side en, .mzp side p, .mskip en, .mrowb 0 p,
        .macc p en, .mloop c10 t10, .mend, .mfmt fa fb, .msetk k12, .mclr p, .mjmp t10, .mwaits side], exec i s = .next s)
      ∧ ∀ r, k.routine = some r →
        let goes (i : Instr) (cycles : Nat) (r' : Routine) : Prop := exec i s =
          .next (s.setMine { k with routine := some { r' with begins := r.begins + cycles } })
        let on : Routine := { r with mpc := r.mpc + 1 }
        let ends (i : Instr) (flags : Nat) : Prop := ∃ (bp : Tab Nat) (mq : List MatrixEntry),
          let u := s.setMine { k with routine := none, mq := mq, mtxFrom := r.begins + 1, bankPtr := bp }
          exec i s = .next (if flags = 0 then u else u.setCtx r.ctx ((s.ctx r.ctx).merge flags (2 ^ 10)))
            ∧ (∀ b, tabGet 0 bp b = if (s.ctx r.ctx).compat = true ∧ b ∈ r.wrote then 0 else tabGet 0 k.bankPtr b)
            ∧ ∀ b e a, k.mq = b ++ e :: a → e.begun = true → isArray e.op = true → (∀ x ∈ b, ¬(x.begun = true ∧ isArray x.op = true)) →
              mq = b ++ a
        let fresh := r.loops.head?.map (·.1) ≠ some r.mpc
        let level : Nat × Nat := if fresh then (r.mpc, c10.toNat + 1) else r.loops.headD (0, 0)
        let outer := if fresh then r.loops else r.loops.drop 1
        let scl := if side = 0 then r.sclA else r.sclB
        goes (.midle c10) (c10.toNat + 1) on
          ∧ goes (.mscale side en) 1 (if side = 0 then { on with scaleA := en == 1 } else { on with scaleB := en == 1 })
          ∧ goes (.mskip en) 1 { on with skip := en == 1 }
          ∧ goes (.macc p en) 1 { on with target := some ((r.params.getD p.toNat 0).extractLsb' 0 4).toNat, int := en == 1 }
          ∧ goes (.mfmt fa fb) 1 { on with afmt := fa.toNat, bfmt := fb.toNat } ∧ goes (.msetk k12) 1 { on with k := k12.toNat + 1 }
          ∧ goes (.mjmp t10) 1 { r with mpc := t10.toNat }
          ∧ (fresh → 4 ≤ r.loops.length → ends (.mloop c10 t10) (r.flags ||| flagInv))
          ∧ (¬(fresh ∧ 4 ≤ r.loops.length) → goes (.mloop c10 t10) 1
            (if 1 < level.2 then { r with mpc := t10.toNat, loops := (level.1, level.2 - 1) :: outer } else { on with loops := outer }))
          ∧ ends .mend r.flags
          ∧ (scl = [] → exec (.mwaits side) s = .next s)
          ∧ ∀ t rest, scl = t :: rest → goes (.mwaits side) (max 1 (t + 6 - r.begins))
            (let late := r.late + max 1 (t + 6 - r.begins) - max 1 (t + 6 + r.late - r.begins)
            if side = 0 then { on with sclA := rest, late := late } else { on with sclB := rest, late := late })

/-- R34, R35, R159 to R162, R165: MLDA, MLDB, MZP and MROWB copy rows of the tile that a parameter names; MCLR zeroes a slot; MSTEP
adds its chunks to the target element by element, in ascending order, a chunk past K, or found bad, or of the other kind of pair
left out, and lasts a chunk time longer for each chunk that the array repeats; its flags are those of its accumulations, and INV for a
pair of the wrong kind. The model's own choices: that an MSTEP and an MCLR act as one in the cycle after their last is log entry 75, the
repeats and the latch cycles of their first attempts 76, the window of MROWB 90, a word that a program writes meanwhile 29. -/
def Obligations.MicroCopiesAndProducts : Prop :=
  ∀ (s : State) (p : BitVec 3) (row0 nrow : BitVec 7) (nch : BitVec 8) (side : BitVec 1) (r : Routine), s.wlog = [] →
    s.mine.routine = some r →
      let k := s.mine
      let on : Routine := { r with mpc := r.mpc + 1, begins := r.begins + 1 }
      let v := r.params.getD p.toNat 0
      let tile := (v.extractLsb' 0 4).toNat
      let shape := tabGet 0 r.shapes tile
      let copies (i : Instr) (first count : Nat) (f : OpCopy → Routine) : Prop :=
        s.copyNews s.myCore tile = [] → ∃ x : OpCopy, exec i s = .next (s.setMine { k with routine := some (f x) })
          ∧ x.row0 = first ∧ x.nrow = count ∧ x.shape = shape ∧ x.koff = (v.extractLsb' 8 8).toNat ∧ x.kc0 = r.kc
          ∧ x.rows.length = min count (tcRows shape + 1 - first)
          ∧ ∀ j w, x.rows[j]? = some w → w = leNat ((List.range (tcBpr shape + 1)).map fun b => k.tileByte tile (128 * (first + j) + b))
      let window2 : Nat × Nat := (r.opB.map fun b => (b.row0, b.nrow)).getD (0, 0)
      copies (.mlda p row0 nrow) row0.toNat (nrow.toNat + 1) (fun x => { on with opA := some x })
        ∧ copies (.mldb p row0 nrow) row0.toNat (nrow.toNat + 1) (fun x => { on with opB := some x })
        ∧ copies (.mzp side p) 0 128 (fun x => if side = 0 then { on with zpA := some x } else { on with zpB := some x })
        ∧ copies (.mrowb row0 p) window2.1 window2.2 (fun x => { on with opB2 := some x, rowb := row0.toNat })
        ∧ ((s.ctx r.ctx).slotFor tile = none → exec (.mclr p) s = .next (s.setMine { k with routine := some { on with puts := [] } }))
        ∧ (∀ slot, (s.ctx r.ctx).slotFor tile = some slot → ∃ acm, exec (.mclr p) s =
            .next (s.setMine { k with routine := some { on with puts := [], wrote := slot :: r.wrote }, acm := acm,
                                          slotInt := tabErase k.slotInt slot })
          ∧ ∀ j, tabGet 0 acm j =
            r.putOn 0 j (· == 0) (if 16384 * slot ≤ j ∧ j < 16384 * (slot + 1) then 0 else tabGet 0 k.acm j))
        ∧ (∀ time int, r.target.bind (s.ctx r.ctx).slotFor = none → formatPair r.afmt r.bfmt = some (time, int) →
          let cycles := (nch.toNat + 1) * time + r.reps.length * time
          let r' : Routine := { r with mpc := r.mpc + 1, begins := r.begins + cycles, kc := r.kc + (nch.toNat + 1), bad := [], reps := []
                                       puts := [], late := r.late + r.reps.length * time }
          exec (.mstep nch) s = .next (s.setMine { k with routine := some r' }))
        ∧ ∀ slot time int, r.target.bind (s.ctx r.ctx).slotFor = some slot → formatPair r.afmt r.bfmt = some (time, int) →
          let n := nch.toNat + 1
          let again := r.reps.length * time
          let reached := ∃ i, i < n ∧ r.reaches i = true
          let ks (i : Nat) := ((List.range 32).map fun j => 32 * (r.kc + i) + j).filter (· < r.k)
          let at' (i : Nat) := r.begins - r.late + i * time
          let xs (i m : Nat) := k.opRow r 0 r.afmt r.opA m (ks i) (at' i) (time / 8)
          let ys (i m j : Nat) := k.opRow r 1 r.bfmt (if r.rowb ≤ m ∧ r.opB2.isSome then r.opB2 else r.opB) j (ks i) (at' i) (time / 8)
          let acc (i q : Nat) (old : BitVec 32) : Res (BitVec 32) :=
            let m := q % 16384 / 128
            if int then accInt old (xs i m) (ys i m (q % 128)) else accFloat r.skip old (xs i m) (ys i m (q % 128))
          let before (i q : Nat) (w : BitVec 32) : BitVec 32 := r.putOn i q (· == 1) w
          let after (i q : Nat) (w : BitVec 32) : BitVec 32 := r.putOn i q (r.putLast int i q)
            (if q / 16384 = slot ∧ r.updates int i q = true then (acc i q (before i q w)).val else before i q w)
          let upTo (i q : Nat) : BitVec 32 := (List.range i).foldl (fun w c => after c q w) (tabGet 0 k.acm q)
          ∃ (acm : Tab (BitVec 32)) (ints : Tab Bool) (r' : Routine),
            exec (.mstep nch) s = .next (s.setMine { k with acm := acm, slotInt := ints, routine := some r' })
            ∧ r' = { r with mpc := r.mpc + 1, begins := r.begins + (n * time + again), kc := r.kc + n, bad := [], reps := [],
                               puts := [], late := r.late + again, flags := r'.flags, wrote := r'.wrote }
            ∧ (∀ q, tabGet 0 acm q = upTo n q)
            ∧ (int = r.int → reached → r'.wrote = slot :: r.wrote ∧ ∀ q, tabGet false ints q = if q = slot then r.int else tabGet false k.slotInt q)
            ∧ (¬(int = r.int ∧ reached) → r'.wrote = r.wrote ∧ ints = k.slotInt)
            ∧ (∀ b, r'.flags.testBit b = true ↔ r.flags.testBit b = true ∨ ∃ i, i < n ∧ r.reaches i = true ∧
                if int = r.int then ∃ q, q / 16384 = slot ∧ r.updates int i q = true ∧ (acc i q (before i q (upTo i q))).flags.testBit b = true
                else flagInv.testBit b = true)

/-- R154, R155, R158, R167 to R171: an entry begins once it may, by its kind: a routine takes its first state, ACZ and ACREL zero their
slot, ACREL gives it back, MPSLD writes its words and its entry, and a drain takes its slots behind every own-PM access that was committed
before it. A running ACZ, ACREL or MPSLD, or a routine that stands at an MEND, leaves the queue at its end; where no entry may begin
nothing changes. The model's own choices: beginning in a cycle of another end is log entry 82, a drain's own accesses at its begin 28, ACZ
and ACREL on a handle without a slot 88. -/
def Obligations.MatrixEntriesBeginAndEnd : Prop :=
  ∀ (s : State) (core : Nat) (e : MatrixEntry) (front rest : List MatrixEntry), s.wlog = [] →
    let k := s.core core
    let x := s.ctx e.ctx
    (k.mq = front ++ e :: rest → mayBegin s core front e = true →
        (∀ b d a, k.mq = b ++ d :: a → b.length < front.length → mayBegin s core b d = false) →
        let k1 : Core := { k with mq := front ++ { e with begun := true } :: rest }
        let begins (k' : Core) : Prop := exec (.matrixEntryBegin core) s = .next (s.setCore core k')
        let zeroed (slot : Nat) (acm : Tab (BitVec 32)) : Prop := ∀ j, tabGet 0 acm j =
          if 16384 * slot ≤ j ∧ j < 16384 * (slot + 1) then 0 else tabGet 0 k.acm j
        match e.op with
        | .call n _ ps shapes => ∃ base len, begins { k1 with routine := some (Routine.start e.ctx base len k.cyc ps shapes) }
            ∧ if n < 16 then base = 1024 + 64 * n ∧ len = (romCode n).length
              else ∀ b l kd, k.entries.find? (fun q => q.1 == n) = some (n, b, l, kd) → base = b ∧ len = l
        | .acz h => (x.slotFor h = none → begins { k1 with arrayEnds := some (k.cyc + 3) })
            ∧ ∀ slot, x.slotFor h = some slot → ∃ acm, zeroed slot acm
              ∧ begins { k1 with acm := acm, slotInt := tabErase k.slotInt slot, arrayEnds := some (k.cyc + 3) }
        | .acrel h => (x.slotFor h = none → begins { k1 with arrayEnds := some k.cyc })
            ∧ ∀ slot, x.slotFor h = some slot → ∃ acm, zeroed slot acm ∧ exec (.matrixEntryBegin core) s =
              .next ((s.setCore core { k1 with acm := acm, slotInt := tabErase k.slotInt slot, free := k.free ++ [slot]
                                               arrayEnds := some k.cyc }).setCtx e.ctx { x with handles := tabErase x.handles h })
        | .mpsld n base kinds words => ∃ mps,
            begins { k1 with mps := mps, entries := tabPut k.entries n (base, words.length, kinds), arrayEnds := some (k.cyc + words.length) }
              ∧ ∀ j, tabGet 0 mps j = if base ≤ j ∧ j < base + words.length then words.getD (j - base) 0 else tabGet 0 k.mps j
        | .drain h grp toRegs adjoint desc =>
            let d := drainDesc (desc.map BitVec.toNat)
            let pace := (drainTiming (sieveCtl d.sieve) adjoint grp).1
            let extra := (drainTiming (sieveCtl d.sieve) adjoint grp).2
            let run : DrainRun :=
              { ctx := e.ctx, adjoint := adjoint, toRegs := toRegs, desc := desc, handle := h, slots := (List.range (grp + 1)).map fun i => x.slotFor (h + i)
                row := 0, next := k.cyc, pace := pace, ends := k.cyc + d.rows * pace + 24 + extra, cells := [], regs := [], flags := 0, peek := none }
            let u := (s.setCore core k1).ownBefore core e.mark
            exec (.matrixEntryBegin core) s = .next ((u.setCore core { u.core core with drainRun := some run }).closed s))
      ∧ ((∀ b d a, k.mq = b ++ d :: a → mayBegin s core b d = false) → exec (.matrixEntryBegin core) s = .next s)
      ∧ (∀ b a t, k.mq = b ++ e :: a → e.begun = true → isArray e.op = true → (∀ y ∈ b, ¬(y.begun = true ∧ isArray y.op = true)) →
        k.arrayEnds = some t → exec (.matrixEntryEnd core) s =
          .next (s.setCore core { k with mq := b ++ a, arrayEnds := none, mtxFrom := t + 1 }))
      ∧ (∀ r, k.arrayEnds = none → k.routine = some r → k.microAt r = .mend → ∃ t, exec (.matrixEntryEnd core) s = .next t
        ∧ (t.core core).routine = none ∧ (t.core core).mtxFrom = r.begins + 1 ∧ (t.ctx r.ctx).fpsf = (s.ctx r.ctx).fpsf ||| r.flags
        ∧ (∀ c, c ≠ r.ctx → t.ctx c = s.ctx c) ∧ ∀ j, j ≠ core → t.core j = s.core j)

/-- R33, R170, R171: a drain whose rows have all been formed ends: its last writes are made, ways that have left dropping theirs,
its flags merge into its context, it leaves the queue, and its flag is sent its increment; while a held bank or a unit under test
holds its writes it waits. The model's own choices: when rows are written before is log entry 28, that a held write makes it wait 38. -/
def Obligations.DrainEndWritesAndPosts : Prop :=
  ∀ (s : State) (core : Nat) (d : DrainRun), s.wlog = [] →
    let k := s.core core
    let f := drainDesc (d.desc.map BitVec.toNat)
    let kept := d.cells.filter fun c => !(c.1 % 8 == 4 && decide (16384 * (s.core (c.1 / 8 / 2 ^ 18)).nw ≤ c.1 / 8 % 2 ^ 18))
    k.drainRun = some d → f.rows ≤ d.row → (s.drainHeld core d.cells = true → exec (.drainEnd core) s = .next s)
      ∧ (s.drainHeld core d.cells = false → (∀ e ∈ s.red, ∀ c ∈ kept, lineOf c.1 ≠ lineOf e.key) → (kept.map (·.1)).Nodup →
      ∃ t, exec (.drainEnd core) s = .next t
        ∧ (∀ q b, (q, b) ∈ kept → s.drops q = false → t.byte q = b) ∧ SameBytesBut (kept.map (·.1)) s t
        ∧ (t.core core).drainRun = none ∧ d.ends < (t.core core).mtxFrom
        ∧ (t.ctx d.ctx).fpsf = (s.ctx d.ctx).fpsf ||| d.flags
        ∧ (∀ n, (t.ctx d.ctx).vreg n = match d.regs.reverse.find? fun q => q.1 == n with
            | some q => q.2
            | none => (s.ctx d.ctx).vreg n)
        ∧ ((t.core core).incs = if f.fen then k.incs ++ [{ at' := k.el, flag := f.flag, n := 1, node := (s.ctx d.ctx).node, ctx := d.ctx
                                                           inst := (s.ctx d.ctx).inst, kills := true }] else k.incs)
        ∧ (∀ c, c ≠ d.ctx → t.ctx c = s.ctx c) ∧ ∀ j, j ≠ core → t.core j = s.core j)

/-! ### The Sieve and the rows of a drain -/

/-- R190, R193 to R202: what the Sieve makes of a row of FP32 values. An invalid row gives NaNs, INV and a record that says so; so does a
row in which a rounding overflows, with OVF. The simplex and the ℓ1 ball take the threshold of the longest prefix, in descending order,
that passes the exact test, or the one supplied; the ℓ2 ball scales; the box clips; a cone takes the mean of each pool, where pools stand in
order and no proper beginning of one would. The record has the set, threshold, sum, support and signs, or where pools begin. The adjoint
applies what a record says to a row of gradients, or gives NaNs where the record does not fit. The model's own choices: ACT of an invalid
row, and what a row's flags hold, are log entry 32, the first pool of a record log entry 33. -/
def Obligations.SieveProjectsRowsAndTheirAdjoints : Prop :=
  let rat (v : Val) : Rat := match v with
    | .fin n a b => (if n then -1 else 1) * ((a : Rat) / b)
    | _ => 0
  let fin (v : Val) : Prop := ∃ n a b, v = Val.fin n a b ∧ b ≠ 0
  let zero : Val := .fin false 0 1
  let code (v : Val) : Nat := (narrow v 0 false).val
  let round (v : Val) : Val := decodeFloat (code v) 0
  let huge (v : Val) : Prop := ∃ n, v = Val.inf n
  let sets (v : Val) (b : Nat) : Prop := (narrow v 0 false).flags.testBit b = true
  -- a running sum, each addition rounded, and a flag that one of its roundings sets
  let sum (ts : List Val) : Val := ts.foldl (fun c t => round (addVal c t).val) zero
  let sumSets (ts : List Val) (b : Nat) : Prop := ∃ j t, ts[j]? = some t ∧ sets (addVal (sum (ts.take j)) t).val b
  ∀ (c : SieveCtl) (c0 c1 : Nat) (codes : List Nat), 1 ≤ c.set → c.set ≤ 6 → (c.taum = true → c.set < 3) →
    let xs := codes.map fun n => decodeFloat n 0
    let w := xs.length
    let x (i : Nat) : Val := xs.getD i zero
    let p0 := decodeFloat c0 0
    let p1 := decodeFloat c1 0
    let r := sieveRow c p0 p1 xs
    let d := r.rec'
    let marks (l : List Bool) (g : Nat → Bool) : Prop := ∀ i, i < w → l.getD i false = g i
    let spoilt : Prop := r.bad = true ∧ r.u = List.replicate w .nan ∧ r.flags.testBit 0 = true ∧ d.bad = true ∧ d.act = false
      ∧ d.supp = 0 ∧ d.tau = 0 ∧ d.sum = 0 ∧ marks d.mask (fun _ => false) ∧ marks d.aux fun _ => false
    -- a row that no rounding spoils
    let gives (spoils : Prop) (u : Nat → Val) (flag : Nat → Prop) (rest : Prop) : Prop :=
      (spoils → spoilt ∧ r.flags.testBit 2 = true)
        ∧ (¬spoils → r.bad = false ∧ r.u = (List.range w).map u ∧ (∀ b, r.flags.testBit b = true ↔ flag b) ∧ d.bad = false ∧ rest)
    let record (act : Bool) (tau sum : Nat) (mask aux : Nat → Bool) : Prop := d.act = act ∧ d.tau = tau ∧ d.sum = sum
      ∧ d.supp = ((List.range w).filter mask).length ∧ marks d.mask mask ∧ marks d.aux aux
    let invalid : Prop := (c.set ≠ 4 ∧ ∃ v ∈ xs, ¬fin v) ∨ (c.set < 4 ∧ c.taum = false ∧ ¬(fin p0 ∧ 0 < rat p0))
      ∨ (c.set = 4 ∧ (p0 = .nan ∨ p1 = .nan)) ∨ (c.taum = true ∧ ¬fin p1)
    -- SET 1 and 2
    let mag (v : Val) : Val := match v with
      | .fin n a b => if c.set = 2 then .fin false a b else .fin n a b
      | v => v
    let a (i : Nat) : Val := mag (x i)
    let neg (i : Nat) : Bool := c.set == 2 && decide (rat (x i) < 0)
    let above (tau : Val) (i : Nat) : Bool := decide (rat tau < rat (a i))
    let less (tau : Val) (i : Nat) : Val := round (addVal (a i) (negVal tau)).val
    let cut (tau : Val) (i : Nat) : Val :=
      if above tau i then (if neg i ∧ rat (less tau i) ≠ 0 then negVal (less tau i) else less tau i) else zero
    let cutSpoils (tau : Val) : Prop := ∃ i, i < w ∧ above tau i = true ∧ huge (less tau i)
    let cutSets (tau : Val) (b : Nat) : Prop := ∃ i, i < w ∧ above tau i = true ∧ sets (addVal (a i) (negVal tau)).val b
    d.set = c.set ∧ d.taum = c.taum ∧ d.grp = w / 128 - 1 ∧ d.adjsum = 0
      ∧ (invalid → spoilt ∧ r.flags = flagInv)
      ∧ (¬invalid → c.set = 2 → c.taum = false → ((List.range w).map fun i => rat (a i)).sum ≤ rat p0 →
        gives False x (fun _ => False) (record false 0 0 (above zero) neg))
      ∧ (¬invalid → c.set < 3 → c.taum = false → (c.set = 2 → rat p0 < ((List.range w).map fun i => rat (a i)).sum) →
        ∃ (p : List Val) (k : Nat) (v : Val), p.Perm (xs.map mag) ∧ p.Pairwise (fun y z => rat z ≤ rat y)
          ∧ let test (j : Nat) : Prop := 0 < j * rat (p.getD (j - 1) zero) - rat (sum (p.take j)) + rat p0
            let sums : Prop := ∃ j, j ≤ w ∧ huge (sum (p.take j))
            let tau := round v
            (sums ∨ ((k = 1 ∨ (1 ≤ k ∧ k ≤ w ∧ test k)) ∧ (∀ j, k < j → j ≤ w → ¬test j)
                ∧ fin v ∧ rat v = (rat (sum (p.take k)) - rat p0) / k))
              ∧ gives (sums ∨ huge tau ∨ cutSpoils tau) (cut tau) (fun b => sumSets p b ∨ sets v b ∨ cutSets tau b)
                (record true (code tau) (code (sum (p.take k))) (above tau) neg))
      ∧ (¬invalid → c.taum = true →
        let taken := (xs.map mag).filter fun v => decide (rat p1 < rat v)
        gives (cutSpoils p1) (cut p1) (fun b => sumSets taken b ∨ cutSets p1 b) (record true (code p1) (code (sum taken)) (above p1) neg))
      -- SET 3
      ∧ (¬invalid → c.set = 3 → ∃ q z : Val, fin q ∧ rat q = (xs.map fun v => rat v * rat v).sum ∧ fin z ∧ rat z = rat p0 * rat p0
        ∧ let norm := sqrtQuot q (.fin false 1 1)
          let f := sqrtQuot z q
          let live (i : Nat) : Bool := decide (rat (x i) ≠ 0)
          let scaled (i : Nat) : Val := (mulVal (x i) (round f)).val
          (rat q ≤ rat z → gives False x (sets norm) (record false 0x3F800000 (code norm) live fun _ => false))
            ∧ (rat z < rat q → gives (huge (round f) ∨ ∃ i, i < w ∧ huge (round (scaled i))) (fun i => round (scaled i))
              (fun b => sets norm b ∨ sets f b ∨ ∃ i, i < w ∧ sets (scaled i) b)
              (record true (code (round f)) (code norm) live fun _ => false)))
      -- SET 4
      ∧ (¬invalid → c.set = 4 → gives False (fun i => if x i = .nan then .nan else minVal (maxVal (x i) p0) p1) (fun _ => False)
        (record (xs.any fun v => ltVal v p0 || ltVal p1 v) 0 0 (fun i => ltVal p0 (x i) && ltVal (x i) p1) fun _ => false))
      ∧ (∀ y z, fin y → fin z → rat (maxVal y z) = max (rat y) (rat z) ∧ rat (minVal y z) = min (rat y) (rat z)
        ∧ (ltVal y z = true ↔ rat y < rat z))
      -- SET 5 and 6
      ∧ (¬invalid → 5 ≤ c.set →
        let up (q : Rat) : Rat := if c.set = 5 then q else -q
        let mean (i n : Nat) : Rat := ((xs.drop i).take n |>.map rat).sum / n
        ∃ pools : List (Nat × Nat × Val),
          (∀ i n v, (i, n, v) ∈ pools → 1 ≤ n ∧ fin v ∧ rat v = mean i n ∧ ∀ m, 1 ≤ m → m < n → up (mean i n) < up (mean i m))
            ∧ (∀ j i n v, pools[j]? = some (i, n, v) → i = ((pools.take j).map (·.2.1)).sum
              ∧ ∀ i' n' v', pools[j + 1]? = some (i', n', v') → up (mean i n) ≤ up (mean i' n'))
            ∧ (pools.map (·.2.1)).sum = w
            ∧ gives (∃ p ∈ pools, huge (round p.2.2))
              (fun i => match pools.find? fun p => decide (p.1 ≤ i ∧ i < p.1 + p.2.1) with
                | some p => round p.2.2
                | none => zero) (fun b => ∃ p ∈ pools, sets p.2.2 b)
              (d.act = decide (pools.length < w) ∧ d.supp = pools.length ∧ d.tau = 0 ∧ d.sum = 0 ∧ marks d.mask (fun _ => true)
                ∧ marks d.aux fun i => pools.any fun p => p.1 == i))
      -- R201, R202: the adjoint, by a record
      ∧ ∀ k : Support, k.mask.length = w → k.aux.length = w →
        let o := adjointRow c p0 xs k
        let m (i : Nat) : Bool := k.mask.getD i false
        let flips (i : Nat) : Bool := c.set == 2 && k.aux.getD i false
        let plus (v : Val) : Val := match v with
          | .fin n a b => if a = 0 then zero else .fin n a b
          | v => v
        let broken : Prop := o.1.bad = true ∧ o.1.u = List.replicate w .nan ∧ o.1.flags.testBit 0 = true ∧ o.2 = none
        let answers (spoils : Prop) (u : Nat → Val) (flag : Nat → Prop) (kept : Option Nat) : Prop :=
          (spoils → broken ∧ o.1.flags.testBit 2 = true)
            ∧ (¬spoils → o.1.bad = false ∧ o.1.u = (List.range w).map (fun i => plus (u i)) ∧ (∀ b, o.1.flags.testBit b = true ↔ flag b) ∧ o.2 = kept)
        let refused : Prop := (c.set ≠ 4 ∧ ∃ v ∈ xs, ¬fin v) ∨ (c.taum = true ∧ ¬fin p0) ∨ k.bad = true ∨ k.set ≠ c.set ∨ k.taum ≠ c.taum
          ∨ k.grp ≠ w / 128 - 1 ∨ (k.supp = 0 ∧ (c.set = 1 ∨ (c.set = 2 ∧ k.act = true)))
        let bends : Prop := c.set = 1 ∨ (c.set = 2 ∧ (k.act = true ∨ c.taum = true))
        (refused → broken ∧ o.1.flags = flagInv)
          ∧ (¬refused → bends →
            let ts := ((List.range w).filter m).map fun i => if flips i then negVal (x i) else x i
            let sums : Prop := ∃ j, j ≤ ts.length ∧ huge (sum (ts.take j))
            ∃ v : Val, (c.taum = false → ¬sums → fin v ∧ rat v = rat (sum ts) / k.supp)
              ∧ let mu := if c.taum then p0 else round v
                let left (i : Nat) : Val := (addVal (x i) (if flips i then mu else negVal mu)).val
                answers (sums ∨ huge mu ∨ ∃ i, i < w ∧ m i = true ∧ huge (round (left i))) (fun i => if m i then round (left i) else zero)
                  (fun b => sumSets ts b ∨ (c.taum = false ∧ sets v b) ∨ ∃ i, i < w ∧ m i = true ∧ sets (left i) b)
                  (if c.taum then some (code (sum ts)) else none))
          ∧ (¬refused → c.set = 2 → ¬bends → answers False x (fun _ => False) none)
          ∧ (¬refused → c.set = 3 →
            let scaled (i : Nat) : Res Val := mulVal (decodeFloat k.tau 0) (x i)
            (k.act = true → answers (∃ i, i < w ∧ huge (round (scaled i).val)) (fun i => round (scaled i).val)
                (fun b => ∃ i, i < w ∧ ((scaled i).flags.testBit b = true ∨ sets (scaled i).val b)) none)
              ∧ (k.act = false → answers False x (fun _ => False) none))
          ∧ (¬refused → c.set = 4 → answers False (fun i => if m i then x i else zero) (fun _ => False) none)
          ∧ (¬refused → 5 ≤ c.set → ∃ pools : List (Nat × Nat × Val),
            let part (p : Nat × Nat × Val) : List Val := (xs.drop p.1).take p.2.1
            let sums (p : Nat × Nat × Val) : Prop := ∃ j, j ≤ p.2.1 ∧ huge (sum ((part p).take j))
            (∀ p ∈ pools, 1 ≤ p.2.1 ∧ (p.1 = 0 ∨ k.aux.getD p.1 false = true) ∧ (∀ i, p.1 < i → i < p.1 + p.2.1 → k.aux.getD i false = false)
                ∧ (¬sums p → fin p.2.2 ∧ rat p.2.2 = rat (sum (part p)) / p.2.1))
              ∧ (∀ j p, pools[j]? = some p → p.1 = ((pools.take j).map (·.2.1)).sum) ∧ (pools.map (·.2.1)).sum = w
              ∧ answers (∃ p ∈ pools, sums p ∨ huge (round p.2.2))
                (fun i => match pools.find? fun p => decide (p.1 ≤ i ∧ i < p.1 + p.2.1) with
                  | some p => round p.2.2
                  | none => zero) (fun b => ∃ p ∈ pools, sumSets (part p) b ∨ sets p.2.2 b) none)

/-- R37, R38, R171, R172, R190, R191, R194, R200, R202: what a drain makes of a row whose words no other write met in the row's cycle. Each
accumulator is read by the mode of its own handle; the row goes through the Sieve where its handles are float, by the parameter entry and
the record of the row; then it is scaled and clipped, and rounded once, each element or each block of four. The record, the scale plane
and the row are written at the places that the descriptor names, at once or later, or the row fills vector registers. The model's own
choices: when the writes of a row are made is a free choice (log entries 7 and 28). -/
def Obligations.DrainRowsAreFormed : Prop :=
  let rat (v : Val) : Rat := match v with
    | .fin n a b => (if n then -1 else 1) * ((a : Rat) / b)
    | _ => 0
  let fin (v : Val) : Prop := ∃ n a b, v = Val.fin n a b ∧ b ≠ 0
  -- R37
  (∀ x s lo hi : Val,
      let y := mulVal x s
      let r := scaleClip x s lo hi
      r.flags = y.flags ∧ (y.val = .nan → r.val = .nan)
        ∧ (y.val ≠ .nan → r.val = (let a := if lo = .nan then y.val else maxVal y.val lo
          if hi = .nan then a else minVal a hi))
        ∧ (fin y.val → fin lo → fin hi → rat r.val = min (max (rat y.val) (rat lo)) (rat hi))
        ∧ ∀ f sat b, (scaleClipConvert x s lo hi f sat).val = (convertTo r.val f sat).val
          ∧ ((scaleClipConvert x s lo hi f sat).flags.testBit b = true ↔ y.flags.testBit b = true ∨ (convertTo r.val f sat).flags.testBit b = true))
    -- R200
    ∧ (∀ (k : Support) (n : Nat), k.tau < 2 ^ 32 → k.grp < 8 → k.set < 8 → k.supp < 2 ^ 16 → k.adjsum < 2 ^ 32 → k.sum < 2 ^ 32 →
      let bytes := k.bytes (8 * n)
      let part (o m : Nat) : Nat := leNat ((bytes.drop o).take m)
      bytes.length = 32 + 2 * n ∧ part 0 2 = k.supp
        ∧ part 2 2 = (if k.act then 1 else 0) + (if k.bad then 2 else 0) + 4 * k.set + (if k.taum then 32 else 0) + 64 * k.grp
        ∧ part 4 4 = k.tau ∧ part 8 4 = k.sum ∧ part 12 4 = k.adjsum ∧ part 16 16 = 0
        ∧ (∀ i, i < 8 * n → (part (32 + i / 8) 1).testBit (i % 8) = k.mask.getD i false ∧ (part (32 + n + i / 8) 1).testBit (i % 8) = k.aux.getD i false)
        ∧ (k.mask.length = 8 * n → k.aux.length = 8 * n → supportOf bytes (8 * n) = k))
    ∧ ∀ (s : State) (core : Nat) (d : DrainRun) (read : List (Nat × Byte)),
      let k := s.core core
      let r := d.row
      s.red = [] → k.drainRun = some d → d.peek = some (read, k.drainWords d.slots r) → (∀ p ∈ read, s.byte p.1 = p.2) →
      -- the descriptor (R170, R190)
      let word (i : Nat) : Nat := (d.desc.getD i 0).toNat
      let c : SieveCtl := { set := word 0 % 8, taum := (word 0).testBit 4, prow := (word 0).testBit 5, paddr := word 0 / 2 ^ 16 % 2 ^ 24 }
      let fmt := word 3 % 32
      let block := isBlockFmt fmt
      let w := 128 * d.slots.length
      let pitch := 32 + w / 4
      let own (a : Nat) : Nat := keyOf (.pm core (a % 2 ^ 20))
      -- the row
      let slot (i : Nat) : Option Nat := (d.slots[i / 128]?).join
      let int (i : Nat) : Bool := match slot i with
        | some q => tabGet false k.slotInt q
        | none => false
      let x (i : Nat) : Val := match slot i with
        | some q =>
          let v := tabGet 0 k.acm (16384 * q + 128 * r + i % 128)
          if int i then .fin v.msb v.toInt.natAbs 1 else decodeFloat v.toNat 0
        | none => .fin false 0 (2 ^ 149)
      let xs := (List.range w).map x
      let anyInt : Prop := ∃ i, i < w ∧ int i = true
      let allInt : Prop := ∀ i, i < w → int i = true
      -- the Sieve
      let entry := readLe s.byte (own (c.paddr + if c.prow then 8 * r else 0)) 8
      let needs : Prop := c.set < 5 ∧ (d.adjoint = true → c.taum = true)
      let p0 := decodeFloat (if needs then entry % 2 ^ 32 else 0) 0
      let p1 := decodeFloat (if needs then entry / 2 ^ 32 else 0) 0
      let recAt := word 7 % 2 ^ 24 + r * pitch
      let spoilt : Support := { tau := 0, grp := w / 128 - 1, taum := c.taum, set := c.set, bad := true, act := false, supp := 0, adjsum := 0, sum := 0
                                mask := [], aux := [] }
      let sieved : List Val × Nat × List (Nat × List Byte) :=
        if c.set = 0 then (xs, 0, [])
        else if allInt then (xs, flagInv, [])
        else if anyInt then (List.replicate w .nan, flagInv, if d.adjoint then [] else [(recAt, spoilt.bytes w)])
        else if d.adjoint then
          let o := adjointRow c p0 xs (supportOf ((keysFrom (own recAt) pitch).map s.byte) w)
          (o.1.u, o.1.flags, match o.2 with
            | some a => [(recAt + 12, leBytes 4 a)]
            | none => [])
        else
          let o := sieveRow c p0 p1 xs
          (o.u, o.flags, [(recAt, o.rec'.bytes w)])
      -- scale, clip and convert
      let y (i : Nat) : Res Val := scaleClip (sieved.1.getD i .nan) (decodeFloat (word 1 % 2 ^ 32) 0) (decodeFloat (word 2 % 2 ^ 32) 0)
        (decodeFloat (word 2 / 2 ^ 32) 0)
      let quad (b : Nat) : Res (Nat × List Nat) := blockQuantise ((List.range 4).map fun j => (y (4 * b + j)).val) (fmt - 5)
      let out (i : Nat) : Res Nat := if block then ⟨(quad (i / 4)).val.2.getD (i % 4) 0, (quad (i / 4)).flags⟩
        else convertTo (y i).val fmt ((word 3).testBit 5)
      ∃ (line plane : List Byte) (flags : Nat) (hold : Bool),
        line.length = w * fmtWidth fmt / 8 ∧ (∀ i, i < w → elemAt (leNat line) (fmtWidth fmt) i = (out i).val % 2 ^ fmtWidth fmt)
          ∧ plane.length = w / 2 ∧ (∀ b, b < w / 4 → elemAt (leNat plane) 16 b = (quad b).val.1 % 2 ^ 16)
          ∧ (∀ b, flags.testBit b = true ↔
            sieved.2.1.testBit b = true ∨ ∃ i, i < w ∧ ((y i).flags.testBit b = true ∨ (out i).flags.testBit b = true))
          ∧ let q := (w * fmtWidth fmt + 1023) / 1024
            let parts := sieved.2.2 ++ (if block then [(word 6 % 2 ^ 24 + r * (word 6 / 2 ^ 32), plane)] else [])
              ++ (if d.toRegs then [] else [(word 4 + r * (word 5 % 2 ^ 32), line)])
            let place (a : Nat) : Nat :=
              let peer := 8 * clusterOf core + a / 2 ^ 21 % 8
              if a.testBit 20 then keyOf (.scratch peer (a % 2 ^ 18)) else keyOf (.pm peer (a % 2 ^ 20))
            let cells := parts.flatMap fun p => (List.range p.2.length).map fun j => (place p.1 + 8 * j, p.2.getD j 0)
            let regs : List (Nat × Vec) := if d.toRegs then
                (List.range q).map fun j => (word 4 + r * q + j, BitVec.ofNat 1024 (leNat line / 2 ^ (1024 * j)))
              else []
            let kept := cells.filter fun c => !(c.1 % 8 == 4 && decide (16384 * (s.core (c.1 / 8 / 2 ^ 18)).nw ≤ c.1 / 8 % 2 ^ 18))
            let t := s.drainStep core
            (t.core core).drainRun = some { d with
                row := r + 1, next := d.next + d.pace, flags := (t.core core).drainRun.elim 0 (·.flags), peek := none
                cells := if hold then d.cells ++ cells else [], regs := if hold then d.regs ++ regs else [] }
              ∧ (t.core core).drainRun.elim 0 (·.flags) = d.flags ||| flags
              ∧ (∀ e, e ≠ d.ctx → t.ctx e = s.ctx e) ∧ (∀ j, j ≠ core → t.core j = s.core j)
              ∧ (hold = true → SameBytes s t ∧ t.ctx d.ctx = s.ctx d.ctx)
              ∧ (hold = false → d.cells = [] ∧ d.regs = [] ∧ s.drainHeld core cells = false ∧ SameBytesBut (kept.map (·.1)) s t
                ∧ ((kept.map (·.1)).Nodup → ∀ p b, (p, b) ∈ kept → s.drops p = false → t.byte p = b)
                ∧ ∀ n, (t.ctx d.ctx).vreg n = match regs.reverse.find? fun p => p.1 == n with
                  | some p => p.2
                  | none => (s.ctx d.ctx).vreg n)

/-! ### ENG slot and engines -/

/-- R122, R123, R363: an ENG instruction reads its operand block in the core's own PM, where every store of the context before it
stands, checks it, and puts the command at the end of each queue that it names, with the queue's next position. A block that breaks
a check, or a CPY or QFENCE without room, is ENGBLK; any other full queue holds the bundle; an error in the block's data is MEMERR.
The model's own choices: Edge cases are log entries 26, 45 and 73. -/
def Obligations.EngineCommandsAreEnqueued : Prop :=
  ∀ (s : State) (a f : BitVec 5), s.wlog = [] →
    let va := (s.aArg 0 a).toNat
    ∀ p ∈ [(1, Instr.cpy a f), (2, .mcast a f), (3, .bte a f), (4, .tld a f), (5, .tst a f), (6, .cmpx a f), (7, .cmpw a f), (8, .tgath a f),
        (9, .tscat a f), (10, .qfence a f), (11, .qpush a f), (12, .lkbegin a f), (13, .lkreq a f), (14, .lkupg a f), (15, .lkrel a f),
        (16, .lkrelall a f), (17, .coll a f), (18, .nettx a f), (19, .netrxp a f), (20, .stgrd a f), (21, .vdec a f), (22, .pgreq a f)],
      let op := p.1
      let len := (blockFields op).length + 1
      let u := s.touch (keysFrom (keyOf (.pm s.myCore (va % 2 ^ 20))) (8 * len))
      let w := (List.range len).map fun i => u.commitNat (va + 8 * i) 8
      let placed := ownPm s.myCore va (8 * len) = true ∧ va % 8 = 0
      let good := u.blockOk op w = true
      let qs := queuesOf op w
      let room := ∀ q ∈ qs, ((queueOf s.mine q).cmds.countP fun c => c.pos < 2 ^ 32) < queueDepth q
      let h := BitVec.ofNat 64 (w.getD 0 0)
      let x := s.me
      let c : Cmd :=
        { op := op, ctx := s.fl.ctx, node := x.node, launch := x.launch, stage := x.stage, inst := x.inst, flag := f.toNat
          fcore := if h.getLsbD 47 then (h.extractLsb' 48 8).toNat else s.myCore, baddr := va, block := w, pos := 0, mark := s.portId
          org := s.origin, begun := false, since := 0, void := (op == 13 || op == 14) && x.wound.isSome, retry := none, moved := 0
          pointer := 0, data := [] }
      let bad := exec p.2 s = .next ((s.slotFault 0x2B op va).closed s)
      (¬placed → bad)
        ∧ (placed → ∀ e, u.commitBad va (8 * len) = some e → exec p.2 s = .next ((u.accessFault e).closed s))
        ∧ (placed → u.commitBad va (8 * len) = none →
          (¬good → bad) ∧ (good → ¬room → (op = 1 ∨ op = 10 → bad) ∧ (op ≠ 1 → op ≠ 10 → exec p.2 s = .next (u.endFlight.closed s)))
          ∧ (good → room → ∃ qt, exec p.2 s = .next ((({ u with portId := s.portId + 1 }).setMine { s.mine with queues := qt }).closed s)
            ∧ ∀ q, tabGet Queue.init qt q = if q ∈ qs then
                { queueOf s.mine q with cmds := (queueOf s.mine q).cmds ++ [{ c with pos := (queueOf s.mine q).next }]
                                        next := ((queueOf s.mine q).next + 1) % 2 ^ 32 }
              else queueOf s.mine q))

/-- R122, R125 to R129, R264: the command that may begin reads what it keeps and does what it can, after every own-PM access that was
committed before it, and waits while one of those is held; one of size zero does nothing; a fault of the head halts its queue, to begin
anew, and a held bank makes it wait. A copy channel delivers 128 bytes and then writes its pointer. A command whose work is done leaves
its queue as the last completed and its flag is sent an increment; MCAST's rises at every destination, a NETRXP posts its buffer and
raises none yet, and a QFENCE leaves all its queues at once. The model's own choices: one step at the begin is log entry 44, commands of
size zero 45, what a held bank stops 38. -/
def Obligations.EngineCommandsBeginAndComplete : Prop :=
  ∀ (s : State) (core q : Nat) (c : Cmd), s.wlog = [] →
    let begin' := exec (.engineCommandBegin core q) s
    let point := exec (.copyPointerWrite core q) s
    let ends := exec (.engineCommandComplete core q) s
    let u := s.ownBefore core c.mark
    let c0 : Cmd := { c with moved := 0, since := u.dev.clock, data := [] }
    let inc (k : Nat) : Inc := { at' := (s.core k).el, flag := c.flag, n := 1, node := c.node, ctx := c.ctx, inst := c.inst, kills := true }
    let copied (n : Nat) : Ran := copyBytes core c.node (c.word 1) (c.word 2) (n / 32 + 1) c.moved c.moved n s
    let gone (t : State) : Prop := (∃ rest, (s.queue core q).cmds = c :: rest ∧ (t.queue core q).cmds = rest)
      ∧ (t.queue core q).last = some c.pos ∧ (∀ p, p ≠ q → t.queue core p = s.queue core p) ∧ SameBytes s t
    let left (t : State) : Prop := gone t ∧ (t.core c.fcore).incs = (s.core c.fcore).incs ++ [inc c.fcore]
    -- nothing keeps the engine from a byte, and no byte holds bad data
    let calm := s.red = [] ∧ s.dev.poison = [] ∧ s.dev.stacksGone = 0 ∧ s.dev.channelsGone = 0 ∧ s.dev.links = [] ∧ s.dev.errs = []
      ∧ ∀ x, (s.ctx x).bank = none
    let pm (ea i : Nat) : Nat := keyOf (.pm (8 * clusterOf core + ea / 2 ^ 21) (ea % 2 ^ 20 + i))
    let inPm (ea n : Nat) : Prop := ea < 2 ^ 24 ∧ bitOf ea 20 = false ∧ ea % 2 ^ 20 + n ≤ 2 ^ 20
    (s.toBegin core q = some c → q = 13 ∨ c.op = 10 ∨ zeroSize c = true → begin' = .next (s.setCmd core q { c with begun := true }))
      ∧ (s.toBegin core q = some c → q ≠ 13 → c.op ≠ 10 → zeroSize c = false → u.ownLeft core c.mark = true → begin' = .next (u.closed s))
      ∧ (s.toBegin core q = some c → q ≠ 13 → zeroSize c = false → u.ownLeft core c.mark = false →
        (c.op ∈ [1, 11, 19] → begin' = .next ((u.setCmd core q { c0 with begun := true }).closed s))
        ∧ (c.op = 22 → q = 19 → let r := u.runPages c0
          (r.2.2 = none → begin' = .next ((r.1.setHead core q { r.2.1 with begun := true }).closed s))
            ∧ ∀ e, r.2.2 = some e → begin' = .next ((r.1.haltCmd core q { c0 with data := [] } r.2.1.moved e).closed s))
        ∧ (c.op ∈ [2, 3, 4, 5, 6, 7, 8, 9] →
          (∀ e, u.keepOf core c0 = .error e → e.code = 0 → begin' = .next (u.closed s))
          ∧ (∀ e, u.keepOf core c0 = .error e → e.code ≠ 0 → begin' = .next ((u.haltCmd core q c0 0 e).closed s))
          ∧ ∀ kept v, u.keepOf core c0 = .ok (kept, v) →
            let d : Cmd := { c0 with data := kept }
            let r := v.runOn core d
            (r.fault = none → begin' = .next ((r.s.setCmd core q { d with begun := true, moved := r.n }).closed s))
            ∧ (∀ e, r.fault = some e → e.code = 0 → begin' = .next ((r.s.setCmd core q { d with begun := true, moved := r.n }).closed s))
            ∧ ∀ e, r.fault = some e → e.code ≠ 0 → (r.s.queue core q).cmds.head?.map (·.pos) = some c.pos → ∃ t h,
              begin' = .next t ∧ (t.queue core q).halted = some h ∧ h.cause.code = (engCause e).code
                ∧ ((t.queue core q).cmds.head?.map fun d => (d.pos, d.begun)) = some (c.pos, false)))
      ∧ (s.head core q = some c → c.op = 1 → c.begun = true → c.moved + 128 < c.word 3 → c.moved % 128 = 0 →
        ((copied 128).fault = none → bitOf (c.word 4) 24 = false → ∃ t, point = .next t
          ∧ (t.queue core q).cmds.head?.map (·.moved) = some (c.moved + 128) ∧ SameBytes (copied 128).s t)
        ∧ (calm → inPm (c.word 1) (c.moved + 128) → inPm (c.word 2) (c.moved + 128) → inPm (c.word 4 % 2 ^ 20) 4 →
          (∀ k, (s.core k).sealed = false) → (∀ i j, i < 128 → j < 128 → pm (c.word 1) (c.moved + i) ≠ pm (c.word 2) (c.moved + j)) →
          (∀ i j, i < 4 → j < 128 → pmKey core (c.word 4 % 2 ^ 20 + i) ≠ pm (c.word 1) (c.moved + j)
            ∧ pmKey core (c.word 4 % 2 ^ 20 + i) ≠ pm (c.word 2) (c.moved + j)) →
          ∃ t, point = .next t ∧ (t.queue core q).cmds.head?.map (·.moved) = some (c.moved + 128)
            ∧ (∀ i, i < 128 → t.byte (pm (c.word 2) (c.moved + i)) = s.byte (pm (c.word 1) (c.moved + i)))
            ∧ (bitOf (c.word 4) 24 = true → c.pointer < c.moved + 128 → ∀ i, i < 4 →
              t.byte (pmKey core (c.word 4 % 2 ^ 20 + i)) = BitVec.ofNat 8 ((c.moved + 128) / 256 ^ i))
            ∧ SameBytesBut ((List.range 128).map (fun i => pm (c.word 2) (c.moved + i))
                ++ if bitOf (c.word 4) 24 then (List.range 4).map fun i => pmKey core (c.word 4 % 2 ^ 20 + i) else []) s t))
      ∧ (s.head core q = some c → q ≠ 13 → c.op ≠ 10 → c.begun = true →
        (c.op ≠ 2 → zeroSize c = true ∨ (c.op ∈ [3, 4, 5, 6, 7, 8, 21] ∧ unitsOfCmd c ≤ c.moved) → ∃ t, ends = .next t ∧ left t)
        ∧ (c.op = 9 → zeroSize c = false → unitsOfCmd c ≤ c.moved → s.red = [] → ∃ t, ends = .next t ∧ left t)
        ∧ (c.op = 1 → zeroSize c = false → bitOf (c.word 4) 24 = false → c.moved = c.word 3 → ∃ t, ends = .next t ∧ left t)
        ∧ (c.op = 1 → zeroSize c = false → bitOf (c.word 4) 24 = false → c.moved % 128 = 0 → c.word 3 ≤ c.moved + 128 →
          (copied (c.word 3 - c.moved)).fault = none → ∃ t, ends = .next t
            ∧ (t.queue core q).last = some c.pos ∧ SameBytes (copied (c.word 3 - c.moved)).s t)
        ∧ (c.op = 2 → q = 4 → unitsOfCmd c ≤ c.moved → ∃ t, ends = .next t ∧ gone t
          ∧ ∀ k, (t.core k).incs = if k / 8 = core / 8 ∧ bitOf (c.word 2) (32 + k % 8) then (s.core k).incs ++ [inc k] else (s.core k).incs)
        ∧ (c.op = 19 → zeroSize c = false → ∃ t, ends = .next t ∧ gone t ∧ (∀ k, (t.core k).incs = (s.core k).incs)
          ∧ t.dev = { s.dev with rx := s.dev.rx ++ [rxOf core c] }))
      ∧ (s.head core q = some c → c.op = 10 → (∀ p ∈ queuesOf 10 c.block, (s.queue core p).cmds.head?.map (·.mark) = some c.mark) →
        ∃ t, ends = .next t ∧ SameBytes s t
          ∧ ∀ p, (t.queue core p).cmds = if p ∈ queuesOf 10 c.block then (s.queue core p).cmds.drop 1 else (s.queue core p).cmds)

/-- R124 to R128, R242 to R248, R252, R253, R299 to R302, R315, R334, R347, R349, R351, R353, R354: the bytes that engine commands move. An
engine reads and writes the places of its engine address, and the layout unit those of a tensor's row, with pads outside the tensor.
MCAST and BTE copy by granules, each read after those before it were written; TLD, TST and TGATH move rows, TSCAT contributes the words
of rows; CMPX and CMPW open and pack chunks and list those that fail; a QPUSH fills a free slot of its ring; a NETTX sends its packets;
a COLL gives and takes its part; a STGRD sends Read commands; VDEC writes rows of frames. The model's own choices: log entries 8, 26, 44,
45, 46, 85, 86 and 98. -/
def Obligations.EngineCommandsMoveTheirBytes : Prop :=
  ∀ (s : State) (core q : Nat) (c : Cmd), s.wlog = [] →
    let begin' := exec (.engineCommandBegin core q) s
    let ends := exec (.engineCommandComplete core q) s
    let u := s.ownBefore core c.mark
    let node := c.node
    let die := dieOf core
    let w := c.word
    let c0 : Cmd := { c with moved := 0, since := u.dev.clock, data := [] }
    let engine (a : State) (acc : Acc) (ea d n : Nat) : Placed := placeEngine a a.seen (a.spaceOf core node) core acc ea d n
    let row (a : State) (acc : Acc) (T : Tensor) (r j0 : Int) (n : Nat) : Placed :=
      placeWindow a a.seen (a.spaceOf core node) die acc T r j0 n
    let place (f : Nat → Nat) (n : Nat) : Placed := .ok ((List.range n).map fun i => .key (f i), [])
    let rd (a : State) (ea d n : Nat) (bs : List Byte) (b : State) : Prop := a.engRead core node ea d n = .ok (bs, b)
    let wr (a : State) (ea d : Nat) (bs : List Byte) (b : State) : Prop := a.engWrite core node ea d bs = .ok b
    let granules (d e n : Nat) : List (Nat × Nat × Nat) :=
      (List.range ((n + 31) / 32)).map fun i => (d + 32 * i, e + 32 * i, min 32 (n - 32 * i))
    let copy (src dst : Nat) (g : Nat × Nat × Nat) (a b : State) : Prop := ∃ bs v, rd a src g.1 g.2.2 bs v ∧ wr v dst g.2.1 bs b
    let inc (k : Nat) : Inc := { at' := (s.core k).el, flag := c.flag, n := 1, node := c.node, ctx := c.ctx, inst := c.inst, kills := true }
    -- the command leaves its queue, and its flag is sent an increment
    let left (x t : State) : Prop := SameBytes x t ∧ (s.queue core q).cmds = c :: (t.queue core q).cmds ∧ (t.queue core q).last = some c.pos
      ∧ (t.core c.fcore).incs = (x.core c.fcore).incs ++ [{ inc c.fcore with at' := (x.core c.fcore).el }]
    let halts (r : Result) (detail : Nat) : Prop := Gives r fun t => ∃ h, (t.queue core q).halted = some h ∧ h.cause.code = 0x34
      ∧ h.cause.detail % 2 ^ 32 = detail
    -- what reading and writing at places does
    (∀ a b ea d n bs, rd a ea d n bs b → Reads (engine a .read ea d n) bs a b)
      ∧ (∀ a b ea d bs, wr a ea d bs b → Writes (engine a .write ea d bs.length) bs a b)
      ∧ (∀ a b T r j0 n bs, a.readWindow core node T r j0 n = .ok (bs, b) → Reads (row a .read T r j0 n) bs a b)
      ∧ (∀ a b T r j0 bs, a.writeWindow core node T r j0 bs = .ok b → Writes (row a .write T r j0 bs.length) bs a b)
      ∧ (∀ a acc ea d n, ea < 2 ^ 24 → bitOf ea 20 = false → ea % 2 ^ 20 + d + n ≤ 2 ^ 20 →
        engine a acc ea d n = place (fun i => keyOf (.pm (8 * clusterOf core + ea / 2 ^ 21) (ea % 2 ^ 20 + d + i))) n)
      ∧ (∀ a acc ea d n, ea / 2 ^ 62 % 4 = 2 → ea % 2 ^ 23 + d + n ≤ 2 ^ 23 →
        engine a acc ea d n = place (fun i => keyOf (.csm (ea / 2 ^ 23 % 32) (ea % 2 ^ 23 + d + i))) n)
      ∧ (∀ a acc (T : Tensor) (r j0 : Int) n,
        let before := if j0 < 0 then min n j0.natAbs else 0
        let within := if 0 ≤ r ∧ r < T.trows then min (n - before) (T.rowBytes - (j0 + before).toNat) else 0
        let pad (i : Nat) : ByteSrc := .const (BitVec.ofNat 8 (packElems (fmtWidth T.fmt) (List.replicate 8 T.pad)
          / 2 ^ (8 * ((j0 + i) % (fmtWidth T.fmt : Int)).toNat)))
        (∀ e, placeVirtual a a.seen (a.spaceOf core node) die 3 acc false (T.base + r.toNat * T.rpitch + (j0 + before).toNat) within = .error e →
          row a acc T r j0 n = .error e)
        ∧ ∀ real ts, placeVirtual a a.seen (a.spaceOf core node) die 3 acc false (T.base + r.toNat * T.rpitch + (j0 + before).toNat) within
            = .ok (real, ts) → row a acc T r j0 n = .ok ((List.range before).map pad ++ real
              ++ (List.range (n - before - within)).map (fun i => pad (before + within + i)), ts))
      -- what a command does as it begins, where nothing keeps it waiting or faults
      ∧ (s.toBegin core q = some c → q ≠ 13 → (q = 15 → c.op = 18) → zeroSize c = false → u.ownLeft core c.mark = false →
        let finishes (units : Nat) (kept : List Nat) (x : State) : Prop :=
          begin' = .next ((x.setCmd core q { c0 with data := kept, begun := true, moved := units }).closed s)
        let read (v : State) (h : Nat) : State := v.descriptorRead (v.spaceOf core node) die c.org.htbase c.org.htlen h
        let tensor (v : State) (h : Nat) (T : Tensor) : Prop := v.tensorFor (v.spaceOf core node) die c.org.htbase c.org.htlen h = .ok T
        (c.op = 2 → 0 < w 3 →
          let dests := ((List.range 8).filter fun r => bitOf (w 2) (32 + r)).map fun r => clusterOf core * 8 + r
          let step (g : Nat × Nat × Nat) (a b : State) : Prop := ∃ bs v,
            let keys (k : Nat) : List Nat := keysFrom (keyOf (.pm k (w 2 % 2 ^ 20 + g.1))) g.2.2
            rd a (w 1) g.1 g.2.2 bs v ∧ a.heldAt core false ((dests.flatMap keys).map .key) = none
              ∧ b = dests.foldl (fun s k => s.storeCells ((keys k).zip bs)) (v.passed core (dests.flatMap keys))
          ∀ x, Through step (granules 0 0 (w 3)) u x → finishes (w 3) [] x)
        ∧ (c.op = 3 →
          let rows := w 3 / 2 ^ 32 % 2 ^ 16
          let n := w 3 % 2 ^ 32
          let step (j : Nat) (a b : State) : Prop := a.rangeHeld core node .read (w 1) (j * (w 4 % 2 ^ 32)) n = none
            ∧ a.rangeHeld core node .write (w 2) (j * (w 4 / 2 ^ 32 % 2 ^ 32)) n = none
            ∧ Through (copy (w 1) (w 2)) (granules (j * (w 4 % 2 ^ 32)) (j * (w 4 / 2 ^ 32 % 2 ^ 32)) n) a b
          ∀ x, Through step (List.range rows) u x → finishes rows [] x)
        ∧ (∀ T, c.op = 4 ∨ c.op = 5 → tensor u (w 1) T →
          let rows := w 3 % 2 ^ 16
          let cols := w 3 / 2 ^ 16 % 2 ^ 16
          let width := fmtWidth T.fmt
          let r (i : Nat) : Int := signExt (w 2 % 2 ^ 32) 32 + i
          let col := signExt (w 2 / 2 ^ 32 % 2 ^ 32) 32
          let n := (cols * width + 7) / 8
          let unit : Nat := if width = 4 then 2 else if width = 6 then 4 else 1
          let step (i : Nat) (a b : State) : Prop := ∃ bs v, if c.op = 4
            then a.readWindow core node T (r i) (col * width / 8) n = .ok (bs, v) ∧ wr v (w 4) (i * w 5) bs b
            else rd a (w 4) (i * w 5) n bs v ∧ v.writeWindow core node T (r i) (col * width / 8) bs = .ok b
          if col % unit ≠ 0 ∨ cols % unit ≠ 0 ∨ (1 < rows ∧ w 5 < n) then halts begin' 0
          else ∀ x, Through step (List.range rows) (read u (w 1)) x → finishes rows T.kept x)
        ∧ (∀ T, c.op = 8 ∨ c.op = 9 → tensor u (w 1) T →
          let n := w 3 % 2 ^ 32
          let fmt := w 3 / 2 ^ 32 % 2 ^ 5
          let index (i : Nat) (a v : State) (r : Int) : Prop := ∃ bs, rd a (w 2) (4 * i) 4 bs v ∧ r = signExt (leNat bs) 32
          let gather (i : Nat) (a b : State) : Prop := ∃ r v bs y, index i a v r
            ∧ v.readWindow core node T r 0 T.rowBytes = .ok (bs, y) ∧ wr y (w 4) (i * w 5) bs b
          let scatter (i : Nat) (a b : State) : Prop := ∃ r v, index i a v r ∧ (¬(0 ≤ r ∧ r < T.trows) → b = v)
            ∧ (0 ≤ r ∧ r < T.trows → ∃ bs y places via, rd v (w 4) (i * w 5) T.rowBytes bs y
              ∧ row y .write T r 0 T.rowBytes = .ok (places, via) ∧ y.heldAt core false places = none
              ∧ y.goneFault via (T.base + r.toNat * T.rpitch) (placedKeys places) = none
              ∧ b = (List.range ((T.rowBytes + 3) / 4)).foldl (fun s j =>
                let k := ((placedKeys places).drop (4 * j)).take 4
                s.addRed c.ctx (if fmt = 0 then 8 else if fmt = 1 then 9 else 0) k.length false k (leNat ((bs.drop (4 * j)).take 4)) c.mark
                  (softOf node places)) ((y.engWay core places via true).demote via (placedKeys places)))
          if (c.op = 9 ∧ fmt ≠ T.fmt) ∨ (1 < (if c.op = 9 then n else w 3) ∧ w 5 < T.rowBytes) then halts begin' 0
          else (c.op = 8 → ∀ x, Through gather (List.range (w 3)) (read u (w 1)) x → finishes (w 3) T.kept x)
            ∧ (c.op = 9 → ∀ x, Through scatter (List.range n) (read u (w 1)) x → finishes n T.kept x))
        ∧ (∀ word v, c.op = 6 ∨ c.op = 7 → rd u (w 4) 4 4 word v →
          let chunks := w 3 % 2 ^ 32
          let slot := w 3 / 2 ^ 32 % 2 ^ 9
          let check (bs : List Byte) : Nat := ((bs.zipIdx.map fun b => (bs.length - b.2) * b.1.toNat).sum % 255) * 256
            + (bs.map (·.toNat)).sum % 255
          let list (i : Nat) (a b : State) : Prop := ∃ bs y, rd a (w 4) 0 4 bs y
            ∧ let next := leBytes 4 (min (leNat bs + 1) (2 ^ 32 - 1))
              if leNat bs < leNat word then ∃ z, wr y (w 4) (8 + 4 * leNat bs) (leBytes 4 i) z ∧ wr z (w 4) 0 next b else wr y (w 4) 0 next b
          let pack (i : Nat) (a b : State) : Prop := ∃ bs y, rd a (w 1) (256 * i) 256 bs y
            ∧ let some' := bs.filter (· ≠ 0)
              let bitmap := leBytes 32 ((bs.zipIdx.map fun x => if x.1 = 0 then 0 else 2 ^ x.2).sum)
              if 36 + some'.length ≤ slot then
                wr y (w 2) (slot * i) (leBytes 4 (check bs * 2 ^ 16 + some'.length) ++ bitmap ++ some'
                  ++ List.replicate (slot - 36 - some'.length) 0) b
              else ∃ z, wr y (w 2) (slot * i) (leBytes 4 0x1FF ++ List.replicate (slot - 4) 0) z ∧ list i z b
          let open' (i : Nat) (a b : State) : Prop :=
            let fails (y : State) : Prop := ∃ z, wr y (w 2) (256 * i) (List.replicate 256 0) z ∧ list i z b
            let bad (y : State) (d n : Nat) : Prop := ∃ e, y.engRead core node (w 1) d n = .error e ∧ e.code = 0x35 ∧ fails y
            bad a (slot * i) 36 ∨ ∃ front y, rd a (w 1) (slot * i) 36 front y
            ∧ let header := leNat (front.take 4)
              let map := leNat (front.drop 4)
              let n := header % 512
              (256 < n ∨ slot < 36 + n → fails y)
                ∧ (¬(256 < n ∨ slot < 36 + n) → bad y (slot * i + 36) n ∨ ∃ bs z, rd y (w 1) (slot * i + 36) n bs z
                  ∧ let count (k : Nat) : Nat := ((List.range k).filter fun j => map.testBit j).length
                    let chunk := (List.range 256).map fun j => if map.testBit j then bs.getD (count j) 0 else 0
                    if header / 512 % 128 ≠ 0 ∨ count 256 ≠ n ∨ check chunk ≠ header / 2 ^ 16 % 2 ^ 16 then fails z
                    else wr z (w 2) (256 * i) chunk b)
          ∀ x, Through (if c.op = 6 then open' else pack) (List.range chunks) v x → finishes chunks [leNat word] x)
        ∧ (c.op = 18 → ∀ bs x, let n := w 4 % 2 ^ 32
          rd u (w 2) 0 n bs x →
          begin' = .next (((x.emit ((List.range ((n + 4095) / 4096)).map fun p => .packet (w 1 % 8) (w 1 / 2 ^ 16 % 2 ^ 32)
              (if w 3 = 0 then 0 else w 3 + 4096 * p) (w 4 / 2 ^ 32 % 2 ^ 8) (w 4 / 2 ^ 40 % 2 ^ 5) n (4096 * p)
              ((bs.drop (4096 * p)).take 4096))).setCmd core q { c0 with begun := true }).closed s))
        ∧ (c.op = 17 → c.data = [] →
          let g := w 1 / 2 ^ 8 % 2 ^ 8
          let cop := w 1 % 2 ^ 4
          let fmt := w 1 / 2 ^ 16 % 2 ^ 5
          (u.rankOf g core = none ∨ (cop = 2 ∧ w 4 % ((u.members g).length * (fmtWidth fmt / 8)) ≠ 0) → halts begin' 0)
            ∧ ∀ rank bs x, u.rankOf g core = some rank → ¬(cop = 2 ∧ w 4 % ((u.members g).length * (fmtWidth fmt / 8)) ≠ 0) →
              (if cop = 3 ∧ rank ≠ 0 then bs = [] ∧ x = u else rd u (w 2) 0 (w 4) bs x) →
              let k := tabGet 0 x.dev.collSeq (256 * g + rank)
              let p : CollPart := { group := g, op := k, rank := rank, cop := cop, fmt := fmt, len := w 4, data := bs }
              let y : State := { x with dev := { x.dev with collParts := x.dev.collParts ++ [p], collSeq := tabPut x.dev.collSeq (256 * g + rank) (k + 1)
                                                            out := x.dev.out ++ [.collective g k rank bs] } }
              begin' = .next ((y.setHead core q { c0 with begun := true, data := [k, rank] }).closed s))
        ∧ (c.op = 20 →
          let entry := u.dev.nsids.find? fun n => n.1 == w 1 % 8 && n.2.1 == w 1 / 2 ^ 8 % 2 ^ 32
          (Config.controller (w 1 % 8) = false ∨ entry = none → halts begin' 0)
            ∧ ∀ m i size block, Config.controller (w 1 % 8) = true → entry = some (m, i, size, block) → (size < w 2 + w 3 → halts begin' 0)
              ∧ (w 2 + w 3 ≤ size → ∀ srcs ts, placeEngine u u.seen (u.space node) core .write (w 4) 0 (w 3 * block) = .ok (srcs, ts) →
                finishes 0 [] (u.fills ts)))
        ∧ (c.op = 21 → ∀ desc v1, rd u (w 2) 0 72 desc v1 →
          let words := (List.range 9).map fun i => leNat ((desc.drop (8 * i)).take 8)
          let j := jobOf words
          let v2 := read v1 j.handle
          (jobOk words = false → halts begin' 0)
            ∧ ∀ T, jobOk words = true → tensor v1 j.handle T → (T.fmt ≠ j.ofmt → halts begin' 0)
              ∧ ∀ stream v3, T.fmt = j.ofmt → rd v2 (3 * 2 ^ 62 + j.bsaddr) 0 j.bslen stream v3 →
                let frames := (framesOf j.codec stream).take j.frames
                let small := ∃ p ∈ frames, p.1 < j.cropx + j.cropw ∨ p.2.1 < j.cropy + j.croph
                let bytes := j.dw * fmtWidth j.ofmt / 8
                let step (p : (Picture × Nat) × Nat) (a b : State) : Prop := ∃ bs, bs = leBytes bytes (packElems (fmtWidth j.ofmt)
                    ((List.range j.dw).map fun x => outCode j p.1.1 (p.2 / j.dh) x (p.2 % j.dh)))
                  ∧ a.writeWindow core node T ((j.row0 + 3 * j.dh * p.1.2 + p.2 : Nat) : Int) ((j.col0 * fmtWidth T.fmt / 8 : Nat) : Int) bs = .ok b
                (small → halts begin' 0)
                  ∧ (¬small → ∀ x, Through step (frames.zipIdx.flatMap fun p => (List.range (3 * j.dh)).map fun n => (p, n)) v3 x →
                    (frames.length < j.frames → halts begin' frames.length)
                      ∧ (frames.length = j.frames → finishes frames.length [] x))))
      -- what ends a command whose answer comes later
      ∧ (s.head core q = some c → c.begun = true → zeroSize c = false →
        (∀ l st, c.op = 11 → q = 12 → (s.dev.launches.find? fun p => p.1 == c.launch) = some (c.launch, l) → l.stages[w 1]? = some st →
          let key := stageKey (clusterOf core) (w 1)
          let ring := tabGet StageQueue.init l.stageQ key
          let isFree (i : Nat) : Prop := i ≤ st.qlen ∧ st.qbase + 64 * i ∉ ring.ready ∧ st.qbase + 64 * i ∉ ring.out
          ((∀ i, ¬isFree i) → ends = .next s)
            ∧ ∀ bs x, (∃ i, isFree i) → rd s (w 2) 0 64 bs x → s.red = [] → Gives ends fun t => ∃ i, isFree i
              ∧ let off := st.qbase + 64 * i
                let keys := keysFrom (keyOf (.csm (clusterOf core) off)) 64
                SameBytesBut keys x t ∧ (∀ j, j < 64 → t.byte (keyOf (.csm (clusterOf core) (off + j))) = bs.getD j 0)
                ∧ (t.queue core q).cmds = (s.queue core q).cmds.drop 1 ∧ (t.queue core q).last = some c.pos
                ∧ (t.core c.fcore).incs = (x.core c.fcore).incs ++ [{ inc c.fcore with at' := (x.core c.fcore).el }]
                ∧ ∃ l' : Launch, tabGet l t.dev.launches c.launch = l' ∧ ∃ before after : List Nat,
                  let ring' := tabGet StageQueue.init l'.stageQ key
                  ring.ready = before ++ after ∧ ring' = { ring with ready := before ++ off :: after, tail := (i + 1) % (st.qlen + 1)
                                                                     tags := ring'.tags }
                  ∧ ∀ d ∈ after.head?, (tabGet (0, 0) ring.tags d).1 = s.now ∧ core < (tabGet (0, 0) ring.tags d).2)
        ∧ (c.op = 18 → q = 15 → c.data.headD 0 = 0 → packets c ≤ c.moved → Gives ends (left s))
        ∧ (c.op = 17 → q = 14 →
          let g := w 1 / 2 ^ 8 % 2 ^ 8
          let cop := w 1 % 2 ^ 4
          let fmt := w 1 / 2 ^ 16 % 2 ^ 5
          let here (r : Nat) (p : CollPart) : Prop := p ∈ s.dev.collParts ∧ p.group = g ∧ p.op = c.data.getD 0 0 ∧ p.rank = r
          ((∃ r, r < (s.members g).length ∧ ∀ p, ¬here r p) → ends = .next s)
            ∧ ∀ parts : List CollPart, s.partsFor g (c.data.getD 0 0) = some parts →
              (parts.length = (s.members g).length ∧ ∀ r p, parts[r]? = some p → here r p)
              ∧ ((∃ p ∈ parts, p.cop ≠ cop ∨ p.fmt ≠ fmt ∨ p.len ≠ w 4) → halts ends 0)
              ∧ ((∀ p ∈ parts, p.cop = cop ∧ p.fmt = fmt ∧ p.len = w 4) →
                let size := fmtWidth fmt / 8
                let elem (i : Nat) : List Nat := parts.map fun p => leNat ((p.data.drop (size * i)).take size)
                let sum (xs : List Nat) : Nat :=
                  if fmt = 19 then ((xs.map fun x => signExt x 32).sum % 2 ^ 32).toNat
                  else (narrow (xs.tail.foldl (fun v y => decodeFloat (narrow (addVal v (decodeFloat y fmt)).val 0 false).val 0)
                    (decodeFloat (xs.headD 0) fmt)) fmt false).val
                let sums := (List.range (w 4 / size)).flatMap fun i => leBytes size (sum (elem i))
                let part := w 4 / parts.length
                let writes : List (Nat × List Byte) := if cop = 0 then [(0, sums)] else if cop = 1 then parts.zipIdx.map fun p => (p.2 * w 4, p.1.data)
                  else if cop = 2 then [(0, (sums.drop (c.data.getD 1 0 * part)).take part)] else [(0, (parts.head?.map (·.data)).getD [])]
                parts ≠ [] → ∀ x, Through (fun p a b => wr a (w 3) p.1 p.2 b) writes s x → Gives ends (left x)))
        ∧ (c.op = 20 → q = 17 → s.dev.nvmeDone = [] →
          let block := s.stgBlock c
          let b := c.data.headD 0
          let n := min (s.stgBatch c) (w 3 - b)
          (c.moved = w 3 * block → Gives ends (left s))
            ∧ (c.moved ≠ w 3 * block → b < w 3 → ∀ pair, s.freePair (w 1 % 8) = some pair →
              let dest := placeEngine s s.seen (s.space node) core .write (w 4) (b * block) (n * block)
              (∀ e, dest = .error e → e.code ≠ 0 → Gives ends fun t => ∃ h, (t.queue core q).halted = some h ∧ h.cause.code = (engCause e).code)
                ∧ ∀ srcs ts, dest = .ok (srcs, ts) → Gives ends fun t => ∃ rest,
                  t.dev.out = s.dev.out ++ .nvmeRead (w 1 % 8) pair (w 1 / 2 ^ 8 % 2 ^ 32) (w 2 + b) n (prpsOf srcs (w 4 % 2 ^ 57 + b * block)) :: rest))
        ∧ (c.op = 22 → q = 19 → w 2 % 2 ^ 32 ≤ c.moved → (∀ d ∈ c.data, d % 2 = 1 ∧ s.walksResident node (d / 2) = true) → Gives ends (left s)))

/-! ### Preparations, accesses, walks and gates -/

/-- R223, R227, R230, R233, R234, R250, R262: a preparation begins, once its bundle is whole and eight cycles have gone, when the accesses
of its bundle and the earlier ones have performed. In each cycle it reads or moves one granule, within four accesses of its cluster's
reconciler: first the snapshots of the map being left, each a write-back once whole, then what the entries of its map fill, keep or zero;
a load reads its descriptor as the entry begins and keeps it. It is true in the cycle after the last, or gone where a bind has emptied its
slot; a fault halts it at its granule. A write-back writes its snapshot into its backing tile, row after row, as a store of its context.
The model's own choices: the order of preparations that compete, and a held granule, are log entry 35, the bytes of a granule 42. -/
def Obligations.PreparationsMoveEntries : Prop :=
  ∀ (s : State) (c : Nat), s.wlog = [] →
    let x := s.ctx c
    let cl := clusterOf (coreOf c)
    let die := dieOf (coreOf c)
    let clean (u : State) : Prop := u.red = [] ∧ u.anyBad = false
    let alone (p : Prep) : Prop := (∀ q ∈ x.strays, q.halt ≠ none) ∧ x.prep = some p ∧ p.halt = none ∧ p.due ≤ (s.core (coreOf c)).el
    -- what one cycle of the reconciler does from `b`, where the slot holds `p`
    let goes (b : State) (p : Prep) (t : State) : Prop :=
      let y := b.ctx c
      let el := (b.core (coreOf c)).el
      let went (q : Prep) (cost : Nat) : Prep :=
        let r : Prep := { q with due := el + 1, spent := cost, retry := none }
        if (r.step cl).isSome then r else { r with moved := true, reached := q.next.length, gran := 0 }
      let stands (q : Prep) : Prop := t.ctx c = { y with prep := some q } ∧ SameBytes b t
      (p.step cl = none → stands (went p 0))
        ∧ ∀ snap e i g, p.step cl = some (snap, e, i, g) →
          let cost := if snap = false ∧ e.carry = 1 then 2 else 1
          let waits := b.granuleHeld cl p snap e g = true ∨ 4 < b.spentIn cl el + b.reservedIn c p el + cost
          let target := e.granule cl g
          (waits → stands p)
            ∧ (¬waits → snap = true → clean b →
              let bytes := p.taken ++ target.map b.byte
              let kept : WriteBack := { entry := i, map := p.org.phase, org := p.org, handle := e.bhandle, row0 := e.row0, col0 := e.col0
                                        bytes := bytes, gran := 0, desc := [], advanced := none }
              t.ctx c = { y with wbacks := if g = e.len then y.wbacks ++ [kept] else y.wbacks
                                 prep := some (went { p with snapped := p.snapped + 1, taken := if g = e.len then [] else bytes } 1) }
                ∧ SameBytes b t)
            ∧ (¬waits → snap = false → clean b → (∀ k ∈ target, b.drops k = false) →
              let moved (desc : List Nat) (f : Nat → Option Byte) : Prop :=
                t.ctx c = { y with prep := some (went { p with reached := if g = e.len then i + 1 else i, gran := if g = e.len then 0 else g + 1
                                                               desc := if g = e.len then [] else desc } cost) }
                  ∧ SameBytesBut target b t ∧ ∀ j k y, target[j]? = some k → f j = some y → t.byte k = y
              (e.carry ≠ 1 → e.carry ≠ 2 → moved [] fun _ => some 0)
                ∧ (∀ src, e.carry = 1 → p.cur[e.ksrc]? = some src → moved [] fun j => ((src.granule cl g)[j]?).map b.byte)
                ∧ ∀ bytes desc v, e.carry = 2 → b.carried c p e g = .ok (bytes, desc, v) → moved desc (fun j => bytes[j]?)
                  ∧ ∀ T v', b.mapTensor c p.org p.desc e.bhandle = .ok (T, v') → desc = T.kept ∧ (∀ T', keptTensor p.desc = some T' → T = T')
                    ∧ ∀ srcs ts, placeTileRow v' v'.seen (v'.originSpace c p.org) die 1 .read none T (e.row0 + g) e.col0 0 128 = .ok (srcs, ts) →
                      bytes = srcs.map (srcByte b.byte))
            ∧ ∀ f desc, ¬waits → snap = false → b.carried c p e g = .error (f, desc) → ∃ q, (t.ctx c).prep = some q
              ∧ q = { p with reached := i, gran := g, desc := desc, halt := q.halt, retry := q.retry }
              ∧ (f.code = 0 → q.halt = none ∧ q.retry = p.retry)
              ∧ (f.code ≠ 0 → q.retry = none ∧ ∃ h, q.halt = some h ∧ h.cause.code = (engCause f).code)
    (∀ p, alone p → p.stage = 0 →
      let u := s.performUpTo c p.bundle
      let left := ∃ i ∈ (u.ctx c).port, i.bundle ≤ p.bundle ∧ isMark i = false
      let q : Prep := { p with stage := 1, due := (s.core (coreOf c)).el, began := (s.core (coreOf c)).el }
      (p.whole = false ∨ left → exec (.preparationBegin c) s = .next s)
        ∧ (p.whole = true → ¬left → ∃ t, exec (.preparationBegin c) s = .next t ∧ goes (u.setCtx c { u.ctx c with prep := some q }) q t))
      ∧ (∀ p, alone p → p.stage = 1 → p.moved = true →
        exec (.preparationTrue c) s = .next (s.setCtx c { x with prep := some { p with stage := 2 } }))
      ∧ (∀ p rest, x.strays = p :: rest → p.halt = none → p.stage = 1 → p.due ≤ (s.core (coreOf c)).el → p.moved = true →
        exec (.preparationTrue c) s = .next (s.setCtx c { x with strays := rest }))
      ∧ (∀ p, alone p → p.stage = 1 → p.moved = false → ∃ t, exec (.preparationTrue c) s = .next t ∧ goes s p t)
      ∧ ∀ w rest, x.wbacks = w :: rest → x.wbHalt = none →
        let tensor := s.mapTensor c w.org w.desc w.handle
        let row (T : Tensor) (v : State) := placeTileRow v v.seen (v.originSpace c w.org) die 1 .write none T (w.row0 + w.gran) w.col0 0 128
        (∀ T v srcs ts, tensor = .ok (T, v) → w.bytes.length = 128 * (w.gran + 1) → row T v = .ok (srcs, ts) → s.red = [] →
          let places := srcs.filterMap ByteSrc.place
          v.pathHeld (coreOf c) places false = false → v.goneFault ts 0 places = none →
          ∃ t, exec (.writeBackPerform c) s = .next t
            ∧ ((∀ tr ∈ ts, tr.dup = false) → t.ctx c = { x with wbacks := rest, wbRetry := none } ∧ SameBytesBut places s t
              ∧ ∀ k ∈ places, (s.copyOf (coreOf c) (lineOf k)).length ∈ [0, 128] → ∀ old, t.cachedByte (coreOf c) k old = t.byte k)
            ∧ (places.Nodup → ∀ j k, j < 128 → (srcs[j]?).bind ByteSrc.place = some k → s.drops k = false →
              t.byte k = w.bytes.getD (128 * w.gran + j) 0))
          ∧ (∀ T v, s.red = [] → tensor = .ok (T, v) → w.bytes.length / 128 ≤ w.gran → ∃ t, exec (.writeBackPerform c) s = .next t ∧ SameBytes s t
            ∧ t.ctx c = { x with wbacks := rest, wbRetry := none })
          ∧ ∀ f, f.code ≠ 0 → tensor = .error f ∨ (∃ T v, tensor = .ok (T, v) ∧ w.gran < w.bytes.length / 128 ∧ row T v = .error f) → ∃ t h w',
            exec (.writeBackPerform c) s = .next t ∧ (t.ctx c).wbHalt = some h ∧ (t.ctx c).wbacks = w' :: rest
              ∧ w' = { w with desc := w'.desc } ∧ h.cause.code = (engCause f).code

/-- R87, R106, R109, R116 to R119, R258, R266, R325, R338: an access performs once it may: a load returns the bytes of memory, or of
an older copy in L1 where one stands; a store and an atomic write them; a reduction joins those pending; a post is on its way, no
earlier than those its context posted to the flag before it. A walk and late data freeze the core's clock and are counted. The oven
timer gates a still core's clock, and then its power. The model's own choices: Free values are log entry 7, one store log entry 18. -/
def Obligations.AccessesPerformAndClocksStop : Prop :=
  ∀ (s : State) (c idx core : Nat), s.wlog = [] →
    let x := s.ctx c
    let k := s.core core
    let stopped (n : Nat) (cnt : Nat) : Core :=
      { k with el := k.el + n, oven := k.oven + n, fcyc := min (k.fcyc + n) (2 ^ 32 - 1), fcnt := cnt }
    (s.portReady c idx = false → exec (.accessPerform c idx) s = .next s)
      ∧ (∀ i, x.port[idx]? = some i → s.portReady c idx = true → s.anyBad = false → s.red = [] →
        let noDup : Prop := ∀ tr ∈ i.via, tr.dup = false
        let after' := x.port.eraseIdx idx
        ∃ t, exec (.accessPerform c idx) s = .next t
        ∧ (noDup → (∀ d, d ≠ c → t.ctx d = s.ctx d) ∧ ∃ marks, after' = marks ++ (t.ctx c).port ∧ ∀ m ∈ marks, isMark m = true)
        ∧ let got (bs : List Byte) (srcs : List ByteSrc) : Prop := (t.ctx c).pend = x.pend.map fun p =>
            if p.id = i.id ∧ p.got = false then { p with got := true, ready := !p.freeze, w := loadValue p.w bs srcs } else p
          match i.op with
          | .load srcs => SameBytes s t ∧ ∃ old, (i.acq = true → old = false) ∧
              got (srcs.map (srcByte fun k => s.cachedByte (coreOf c) k old)) srcs
          | .store cells => (t.ctx c).pend = x.pend
              ∧ ((cells.map (·.1)).Nodup → ∀ k b, (k, b) ∈ cells → s.drops k = false → t.byte k = b)
              ∧ (noDup → SameBytesBut (cells.map (·.1)) s t
                ∧ ∀ k ∈ cells.map (·.1), (s.copyOf (coreOf c) (lineOf k)).length ∈ [0, 128] → ∀ old, t.cachedByte (coreOf c) k old = t.byte k)
          | .amo op n srcs arg cmp => let keys := srcs.filterMap ByteSrc.place
              keys.Nodup → (∀ k ∈ keys, s.drops k = false) →
              let m := leNat (srcs.map (srcByte s.byte))
              got (leBytes n m) (keys.map .key) ∧ leNat (keys.map t.byte) = atomicNew op n m arg cmp % 256 ^ keys.length
                ∧ (noDup → SameBytesBut keys s t)
          | .red op n ordered srcs arg => let keys := srcs.filterMap ByteSrc.place
              let soft := srcs.any fun b => match b with
                | .cell _ _ => true
                | _ => false
              let e := s.redEntry c op n ordered keys arg i.id (if soft then some x.node else none) !(i.rel && i.scope == 5)
              noDup → (∀ m ∈ after'.head?, isMark m = false) → SameBytes s t
                ∧ t.red = if s.dropsRed e.keys then [] else [e]
          | .fence _ => SameBytes s t ∧ (t.ctx c).pend = x.pend
          | .post o f n near => SameBytes s t ∧ (t.ctx c).pend = x.pend ∧ ∃ inc later, (t.core o).incs = (s.core o).incs ++ inc :: later
              ∧ inc.flag = f ∧ inc.n = n ∧ inc.ctx = c ∧ (s.core o).el < inc.at'
              ∧ (∀ j ∈ (s.core o).incs, j.flag = f → j.ctx = c → j.kills = true → j.at' ≤ inc.at')
              ∧ (near = true → inc.at' = s.postAt o f c ((s.core o).el + 1)))
      ∧ (∃ n, 0 < n ∧ exec (.tableWalkComplete core) s =
          .next (({ s with fresh := s.fresh + 1 }).setCore core (stopped n (min (k.fcnt + 1) (2 ^ 32 - 1)))))
      ∧ (s.lateLandings core = [] → exec (.lateDataFreeze core) s = .next s)
      ∧ (s.lateLandings core ≠ [] → ∃ t n, exec (.lateDataFreeze core) s = .next t ∧ 0 < n
        ∧ (∃ l, { t.core core with incs := k.incs, l1 := l } = { stopped n (t.core core).fcnt with l1 := l })
        ∧ (t.core core).fcnt = (if t.lateLandings core = [] then min (k.fcnt + 1) (2 ^ 32 - 1) else k.fcnt)
        ∧ ((∀ j, j < 4 → ∀ p ∈ (s.ctx (4 * core + j)).pend, p.ready = false → p.due ≤ k.cyc → p.got = true) → t.lateLandings core = [])
        ∧ ∀ i, s.lateLandings core = [(c, i.id)] → x.port = [i] → s.portReady c 0 = true → s.anyBad = false → coreOf c = core →
          (∀ j, j < 4 → 4 * core + j ≠ c → (s.ctx (4 * core + j)).port = []) → i.op.reads = true → t.lateLandings core = [])
      ∧ (exec (.clockGate core) s =
          .next (if 4096 ≤ k.oven ∧ k.gate = 0 ∧ s.coreStill core then s.setCore core { k with gate := 1 } else s))
      ∧ (exec (.powerGate core) s = .next (if 4194304 ≤ k.oven ∧ k.hang = false ∧ s.boundOn core ≠ [] then
          State.signal { s.setCore core { k with hang := true, gate := if s.coreStill core then 2 else k.gate } with
            dev := { s.dev with hanglog := s.dev.hanglog ||| 2 ^ core } } 2 0 else s))
      ∧ ∀ pasid va bytes, ∃ t, exec (.atsInvalidationRequest pasid va bytes) s = .next t
        ∧ t = { s with dev := { s.dev with atc := t.dev.atc } }
        ∧ ∀ e, e ∈ t.dev.atc ↔ e ∈ s.dev.atc ∧ ¬(e.1 = pasid ∧ e.2.1 < va + bytes ∧ va < e.2.1 + e.2.2)

/-- R86, R89, R212, R213, R285, R287, R313, R332, R333, R362: between bundles a wait that has reached its limit is taken as WAITTO, with
an arrival withdrawn unless its barrier has completed; the pending causes are taken in the order fatal, replayable, WOUND, the others; a
write to a watched line, and room in a trap queue, let what stopped go on where it stopped; a parked NEXT that has something to do is
checked again. The model's own choices: Fields no rule gives are log entries 48 and 50, a barrier that has completed is log entry 23, and
what goes on after a wake is log entry 59. -/
def Obligations.ContextEventsBetweenBundles : Prop :=
  ∀ (s : State) (c : Nat), s.wlog = [] →
    let x := s.ctx c
    let split (u : State) (code detail faddr smask qid : Nat) : Split :=
      { code := code, detail := detail, faddr := faddr, smask := smask, sres := 0, epc := (u.ctx c).pc, lit := (u.ctx c).inRun
        capv := false, phase := (u.ctx c).phase, gen := (u.ctx c).phgen, bytes := [], line := 0, mig := false, qid := qid }
    let rank (d : Cause) : Nat := if 0x20 ≤ d.code then 0 else if 0x10 ≤ d.code then 1 else if d.code = 5 then 2 else 3
    let goesOn (t : State) (d : Nat) (f : Frame) (r : Option Cause) : Prop :=
      (t.ctx d).mode = .running ∧ (t.ctx d).pc = f.epc ∧ (t.ctx d).inRun = f.lit ∧ (t.ctx d).resume = some f ∧ (t.ctx d).park = none
        ∧ (t.ctx d).monitor = [] ∧ (t.ctx d).retry = r
    let again (t : State) (core q : Nat) (d : Cmd) (rest : List Cmd) (r : Option Cause) : Prop :=
      (t.queue core q).halted = none ∧ (t.queue core q).cmds = { d with retry := r } :: rest
    let once (h : Halt) : Option Cause := if h.told = .written then some h.cause else none
    (s.waitExpired c = false → exec (.waitTimeout c) s = .next s)
      ∧ (∀ t0 limit detail, x.waitFrom = some (t0, limit, detail) → s.waitExpired c = true →
        let here := (detail % 256, x.trapm)
        let leaves := detail.testBit 8 = true ∧ here ∈ x.arrived ∧ here ∉ x.passed
        let v := if leaves then s.withdraw c (detail % 256) else s
        let u := v.setCtx c { x with waitFrom := none, arrived := if leaves then x.arrived.erase here else x.arrived }
        let cl := clusterOf (coreOf c)
        ∃ t, exec (.waitTimeout c) s = .next t ∧ t = (u.takeFault c (split u 4 detail 0 0 0xFF)).closed s
          ∧ (leaves → v.barrier cl (detail % 256) = { s.barrier cl (detail % 256) with
              count := (s.barrier cl (detail % 256)).count - 1, waiting := (s.barrier cl (detail % 256)).waiting.erase c }))
      ∧ (x.due = none → exec (.boundaryTrap c) s = .next s)
      ∧ (∀ e, x.due = some e →
        (e ∈ x.boundary ∨ ∃ o, x.wound = some o ∧ e = { code := 5, detail := o, faddr := 0, smask := 0 })
          ∧ (x.trapm = true → 0x10 ≤ e.code)
          ∧ (∀ d ∈ x.boundary, x.trapm = false ∨ 0x10 ≤ d.code → rank e ≤ rank d)
          ∧ (x.wound.isSome = true → x.trapm = false → rank e ≤ 2)
          ∧ let w := s.setCtx c { x with mode := .running, boundary := x.boundary.erase e, wound := if e.code = 5 then none else x.wound }
            let v := if e.code = 0x32 then w else w.enterRun c
            exec (.boundaryTrap c) s =
              .next ((v.takeFault c (split v e.code e.detail e.faddr e.smask (if e.code = 0x33 then 13 else 0xFF))).closed s))
      ∧ (∀ line, ∃ t, exec (.monitorWake line) s = .next t
        ∧ let still : Prop := ∀ core q h, (s.queue core q).halted = some h → h.told ≠ .moved
          (still → SameBytes s t)
        ∧ (∀ d f e, (s.ctx d).parkedNow = true → line ∈ (s.ctx d).monitor → (s.ctx d).park = some (f, e) →
          goesOn t d f (if (s.ctx d).mode = .parked then some e else none))
        ∧ (∀ d p h, (s.ctx d).prep = some p → p.halt = some h → line ∈ h.lines → h.cause.code = 0x12 →
          (t.ctx d).prep = some { p with halt := none, retry := once h })
        ∧ (∀ d h, (s.ctx d).wbHalt = some h → line ∈ h.lines → h.cause.code = 0x12 →
          (t.ctx d).wbHalt = none ∧ (t.ctx d).wbRetry = once h)
        ∧ ∀ core q h d rest, still → (s.queue core q).halted = some h → line ∈ h.lines → h.cause.code = 0x12 → (s.queue core q).cmds = d :: rest →
          match lookup s s.seen (s.spaceOf core d.node) h.cause.faddr .read with
          | .stop _ _ _ => (∃ ls, (t.queue core q).halted = some { h with lines := ls }) ∧ (t.queue core q).cmds = d :: rest
          | _ => again t core q d rest (once h))
      ∧ (∀ node, (s.trapsPending node = none → exec (.trapQueueRetry node) s = .next s)
        ∧ ∀ n, s.trapsPending node = some n → (255 ≤ n → exec (.trapQueueRetry node) s = .next s)
          ∧ (n < 255 → ∃ t, exec (.trapQueueRetry node) s = .next t ∧ SameBytes s t
            ∧ (∀ d f e, (s.ctx d).mode = .parkedFull → (s.ctx d).node = node → (s.ctx d).park = some (f, e) → goesOn t d f none)
            ∧ ∀ core q h d rest, (s.queue core q).halted = some h → h.told = .full → h.cause.code = 0x12 →
              (s.queue core q).cmds = d :: rest → d.node = node → again t core q d rest none))
      ∧ exec (.nextWake c) s = .next (if x.mode = .yielded ∧ s.decide c ≠ .park then s.setCtx c { x with mode := .running } else s)

/-! ### Locks and launches -/

/-- R276 to R288: LKBEGIN gives a transaction its ordinal. A request that its ancestors cover, or on a free lock under a granted
parent, is granted at once with its flag; one that a holder keeps from it waits, and wounds a younger holder. An upgrade of the
only holder is granted; a release frees its lock and lets the waiter in, once the accesses before it have performed; without a
transaction a command is a lock error. Commands of an instance that has ended run on. Age counts and cancellations of wounded
transactions reach the other homes. A command that fails changes nothing, and a killed context is not wounded (R285, R287). The model's
own choices: Orders that no rule gives are log entries 47, 49 and 50; what a raised count sends is log entry 111; the transaction that a
command accepted late acts under is log entry 110; an LKBEGIN first performs the accesses before it and waits behind a held one (log
entries 28 and 38). -/
def Obligations.LockHomesGrantAndRelease : Prop :=
  ∀ (s : State) (core idx home ctx src : Nat), s.wlog = [] →
    let x := s.home home
    let exact (a : Nat × Nat) (t : State) : Prop :=
      let y := t.home home
      y.cancels = x.cancels.erase a ∧ y.age = x.age ∧ (∀ j, j ≠ home → t.home j = s.home j)
        ∧ ((s.ctx ctx).txn ≠ some a.2 → y.entries = x.entries ∧ y.late = x.late)
        ∧ ((s.ctx ctx).txn = some a.2 → (∀ e ∈ y.entries, e.ctx = ctx → e.mode ≠ 0 ∧ e.want = 0) ∧ (∀ l ∈ y.late, l.ctx ≠ ctx)
          ∧ (∀ e ∈ x.entries, e.ctx ≠ ctx → e ∈ y.entries)
          ∧ ∀ e ∈ x.entries, e.ctx = ctx → e.mode ≠ 0 → { e with want := 0, esc := false } ∈ y.entries)
    (x.ages.find? (fun a => a.1 == src) = none → exec (.ageCountReceive home src) s = .next s)
      ∧ (∀ a, x.ages.find? (fun a => a.1 == src) = some a →
        let m := max x.age (min a.2 (2 ^ 59 - 1))
        ∃ t, exec (.ageCountReceive home src) s = .next t ∧ t.home home = { x with age := m, ages := x.ages.erase a }
          ∧ ∀ j, j < 32 → j ≠ home → t.home j =
            { s.home j with ages := (s.home j).ages ++ if x.age / 1024 = m / 1024 then [] else [(home, m)] })
      ∧ (x.cancels.find? (fun a => a.1 == ctx) = none → exec (.woundCancelArrival home ctx) s = .next s)
      ∧ (∀ a, x.cancels.find? (fun a => a.1 == ctx) = some a → Gives (exec (.woundCancelArrival home ctx) s) (exact a))
      ∧ (s.lockReady core idx = none → exec (.lockHomeAccept core idx) s = .next s)
      ∧ ∀ c, s.lockReady core idx = some c →
        let h := lockHome c
        let n := lockName c
        let mode := bits (c.word 2) 50 3
        let frees : Prop := c.op = 15 ∨ c.op = 16
        let u := if frees then s.performBefore c.ctx c.mark else s
        let waits : Prop := frees ∧ u.pendingBefore c.ctx c.mark = true
        let banked : Bool := (s.heldAt core false ((resKeys core c).map .key)).isSome || (s.ownBefore core c.mark).ownLeft core c.mark
        let y := u.ctx c.ctx
        let H := u.home h
        let q := u.queue core 13
        let run := exec (.lockHomeAccept core idx) s
        let live := y.inst = c.inst ∧ y.mode ∉ [Mode.killed, .unbound, .ended]
        let taken (t : State) : Prop := (t.queue core 13).last = (if c.pos < 2 ^ 32 then some c.pos else q.last)
          ∧ (t.queue core 13).cmds.map (·.pos) = (q.cmds.eraseIdx idx).map (·.pos)
        let flagged (t : State) : Prop := c.flag = 32 ∨ ∃ a inc b, (t.core c.fcore).incs = (u.core c.fcore).incs ++ a ++ inc :: b
          ∧ inc.flag = c.flag ∧ inc.n = 1 ∧ inc.ctx = c.ctx ∧ inc.node = c.node
        let wrong (code : Nat) (t : State) : Prop := taken t ∧ (∀ j, t.home j = u.home j)
          ∧ (¬live → t.ctx c.ctx = y) ∧ (live → (t.ctx c.ctx).boundary = y.boundary ++ [{
            code := 0x33, detail := (if c.op = 12 then 0 else c.word 1 * 2 ^ 32 + bits (c.word 2) 48 2 * 2 ^ 9) + h * 2 ^ 4 + code
            faddr := c.baddr, smask := 0 }])
        let named (p : LockEntry → Bool) : List LockEntry := H.entries.filter p
        let asks (op ord : Nat) : Prop := c.op = op ∧ c.void = false ∧ y.txn = some ord ∧ n.handle ≠ 0 ∧ mode ≠ 0 ∧ c.flag < 32
        -- what a release must follow, a hold of the bank of a result, and a request that a wound has taken back
        (waits → run = .next (u.closed s)) ∧ (c.op = 12 → banked = true → run = .next ((s.ownBefore core c.mark).closed s))
          ∧ (c.op = 13 ∨ c.op = 14 → c.void = true →
            Gives run fun t => taken t ∧ t.home h = H ∧ (t.core c.fcore).incs = (s.core c.fcore).incs)
          ∧ (¬waits → y.txn = none → c.op = 15 ∨ ((c.op = 13 ∨ c.op = 14) ∧ c.void = false) → Gives run (wrong 6))
          -- LKBEGIN
          ∧ (c.op = 12 → banked = false → s.holdsLocks c.ctx = true → Gives run (wrong 7))
          ∧ (c.op = 12 → banked = false → s.holdsLocks c.ctx = false →
            let age := max H.age (min (H.age + 1) (2 ^ 59 - 1))
            Gives run fun t => taken t ∧ flagged t ∧ (t.home h).age = age ∧ (t.ctx c.ctx).txn = some (age * 32 + h)
              ∧ (t.ctx c.ctx).txnPat = y.cmpat ∧ (t.ctx c.ctx).wound = none
              ∧ ((s.core core).sealed = false → c.word 2 % 2 ^ 20 + 8 ≤ 2 ^ 20 → ∀ i, i < 8 →
                t.byte (keyOf (.pm core (c.word 2 % 2 ^ 20 + i))) = BitVec.ofNat 8 ((age * 32 + h) / 256 ^ i)))
          -- LKREQ
          ∧ (∀ ord, asks 13 ord → (n.lvl = 2 → lineMode mode = true) → H.has c.ctx (· == n) = false →
            let e : LockEntry := { node := n.node, handle := n.handle, lvl := n.lvl, tile := n.tile, line := n.line, ctx := c.ctx, ord := ord
                                   mode := 0, want := mode, fcore := c.fcore, flag := c.flag, pat := y.txnPat, esc := false }
            let room := H.entries.length + 64 ≤ 4096 ∧ ∀ tile, n.lvl = 2 → n.parent = some tile →
              (named (lineUnder tile c.ctx)).length + (H.late.filter fun l => l.ctx == c.ctx && tile.passes l.name).length < y.txnLlim
            (H.covered c.ctx n mode = true → Gives run fun t => taken t ∧ flagged t ∧ (t.home h).entries = H.entries)
              ∧ (H.covered c.ctx n mode = false → H.parentPresent c.ctx n mode = false → Gives run (wrong 1))
              ∧ (H.covered c.ctx n mode = false → H.parentPresent c.ctx n mode = true → room →
                (named (fun d => d.name == n) = [] → H.parentGranted c.ctx n mode = true →
                    (∀ d ∈ H.entries, d.ctx = c.ctx → d.want = 0) → Gives run fun t => taken t ∧ flagged t
                      ∧ (t.home h).entries = H.entries ++ [{ e with mode := mode, want := 0 }])
                  ∧ ∀ g, named (fun d => d.name == n) = [g] → g.ctx ≠ c.ctx → g.mode ≠ 0 → g.want = 0 → compat y.txnPat g.mode mode = false →
                    Gives run fun t => taken t ∧ (t.core c.fcore).incs = (s.core c.fcore).incs ∧ e ∈ (t.home h).entries
                      ∧ (∃ d ∈ (t.home h).entries, d.ctx = g.ctx ∧ d.name = n ∧ d.mode = g.mode)
                      ∧ (ord < g.ord → (s.ctx g.ctx).mode ≠ .killed →
                        (t.ctx g.ctx).wound = some ((s.ctx g.ctx).wound.getD ord))
                      ∧ (g.ord ≤ ord ∨ (s.ctx g.ctx).mode = .killed → t.ctx g.ctx = s.ctx g.ctx)))
          -- LKUPG
          ∧ (∀ ord e, asks 14 ord → H.entryOf c.ctx n = some e → e.mode ≠ 0 → e.want = 0 → e.esc = false →
            let target := joinMode e.mode mode
            (n.lvl = 2 → lineMode target = true) → H.parentPresent c.ctx n target = true ∨ H.covered c.ctx n target = true →
              (target = e.mode → Gives run fun t => taken t ∧ flagged t ∧ (t.home h).entries = H.entries)
                ∧ (target ≠ e.mode → named (fun d => d.name == n) = [e] → H.parentGranted c.ctx n target = true →
                  (∀ d ∈ H.entries, d.ctx = c.ctx → d.want = 0) → Gives run fun t => taken t ∧ flagged t
                    ∧ (t.home h).entries = H.entries.map fun d =>
                      if d.ctx = c.ctx ∧ d.name = n then { e with mode := target, fcore := c.fcore, flag := c.flag } else d))
          -- LKREL and LKRELALL
          ∧ (∀ ord e, ¬waits → c.op = 15 → y.txn = some ord → n.handle ≠ 0 → H.has c.ctx n.passes = false →
            named (fun d => d.ctx == c.ctx && d.name == n) = [e] → Gives run fun t => taken t ∧ flagged t
              ∧ (∀ d ∈ (t.home h).entries, ¬(d.ctx = c.ctx ∧ d.name = n))
              ∧ ∀ w, named (fun d => d.name == n) = [e, w] ∨ named (fun d => d.name == n) = [w, e] → e.mode ≠ 0 → w.mode = 0 → w.want ≠ 0 →
                w.esc = false → H.parentGranted w.ctx n w.want = true → (∀ d ∈ H.entries, d.ctx = w.ctx → d ≠ w → d.want = 0) →
                  { w with mode := w.want, want := 0 } ∈ (t.home h).entries)
          ∧ (¬waits → c.op = 16 → Gives run fun t => taken t ∧ flagged t ∧ (∀ d ∈ (t.home h).entries, d.ctx ≠ c.ctx)
              ∧ ∀ l ∈ (t.home h).late, l.ctx ≠ c.ctx)

/-- R306, R307, R310, R311, R320 to R322, R324: a cluster takes the launch of the queue that the order names: the launch is in
flight and every context that its gangs were given is bound to it at reset values, its carries in s0 to s7. Bad material puts the
queue in error state. A launch retires when all of it has ended: DONE is written, PROG grows and its tail records become the queue's
children, in the order of their contexts and instances. The watchdog asks for a pre-emption first and then kills. The model's own
choices: Where no rule orders or defines it, log entries 51 to 54. -/
def Obligations.LaunchesAreAdmittedAndRetired : Prop :=
  ∀ (s : State) (q cl id : Nat), s.wlog = [] →
    let d := s.drainRed fun _ => true
    let bound (t : State) (id : Nat) (l : Launch) (places : List (Nat × Nat)) : Prop :=
      (∃ y, t.launch id = some y ∧ y.clusters = l.clusters ++ [cl] ∧ y.stages = l.stages ∧ ∀ p ∈ places, p.1 ∈ y.ran)
        ∧ ∀ p ∈ places, let z := t.ctx p.1
          z.mode = .running ∧ z.launch = id ∧ z.node = l.node ∧ z.prio = l.prio ∧ z.cmpat = l.cmpat ∧ z.priv = l.priv ∧ z.compat = l.compat
            ∧ z.pc = 0 ∧ z.inRun = false ∧ z.pend = [] ∧ z.loops = [] ∧ z.txn = none ∧ (∀ r, z.sreg r = l.carries.getD r 0)
            ∧ (∀ r, z.areg r = 0 ∧ z.vreg r = 0 ∧ z.mreg r = 0 ∧ z.preg r = 0)
            ∧ ∃ st, l.stages[z.stage]? = some st ∧ z.cbase = st.cbase ∧ z.dbase = st.dbase ∧ z.dictn = st.dictn ∧ z.tgrant = st.tgrant
    let ready (l : Launch) : State := if (d.cluster cl).fused = l.fuse then d else d.cleanCluster cl
    let clean (l : Launch) : Prop := (d.cluster cl).fused = l.fuse ∨ (ready l).clusterClean cl = true
    (∀ x, d.hw q = some x → x.state = 1 → x.launch = none → x.children ≠ [] ∨ x.pending ≠ 0 →
      (∀ e, d.loadNext q x = .error e → exec (.launchAdmit q cl) s =
          .next (((d.afterLoad q x).setHw q { x with state := 4, err := e }).closed s))
        ∧ (∀ l, d.loadNext q x = .ok l → d.choice cl ≠ some q ∨ d.admits d.dev.nextLaunch l cl = none →
          exec (.launchAdmit q cl) s = .next s)
        ∧ (∀ l places, d.loadNext q x = .ok l → d.choice cl = some q → d.admits d.dev.nextLaunch l cl = some places → ¬clean l →
          exec (.launchAdmit q cl) s = .next (d.closed s))
        ∧ ∀ l places, d.loadNext q x = .ok l → d.choice cl = some q → d.admits d.dev.nextLaunch l cl = some places → clean l →
          ∃ t, exec (.launchAdmit q cl) s = .next t ∧ t.dev.nextLaunch = d.dev.nextLaunch + 1
            ∧ t.hw q = some { x with
                state := 2, launch := some d.dev.nextLaunch, wdFrom := s.dev.clock, wdOnce := false, children := x.children.drop 1
                head := if x.children = [] then (x.head + 1) % 2 ^ 32 else x.head }
            ∧ bound t d.dev.nextLaunch l places)
      ∧ (∀ x l places, d.hw q = some x → x.state = 2 → x.launch = some id → d.launch id = some l → l.more = true → cl ∉ l.clusters →
        d.choice cl = some q → d.admits id l cl = some places → clean l → ∃ t, exec (.launchAdmit q cl) s = .next t ∧ t.hw q = d.hw q
          ∧ bound t id l places)
      ∧ (s.launch id = none → exec (.launchRetire id) s = .next s)
      ∧ (∀ l, s.launch id = some l → s.mayRetire id l = false → exec (.launchRetire id) s = .next s)
      ∧ (∀ l, s.launch id = some l → s.mayRetire id l = true →
        (∃ c ∈ l.ran, ((l.ran.foldl State.performAll s).ctx c).port.all isMark = false) → exec (.launchRetire id) s = .next s)
      ∧ (∀ l x, s.launch id = some l → s.mayRetire id l = true → s.hw l.queue = some x → x.state ≠ 4 →
        (∀ c ∈ l.ran, ((l.ran.foldl State.performAll s).ctx c).port.all isMark = true) →
        let u := (l.ran.foldl State.performAll s).drainRed fun _ => true
        let w : Except AFault State := if l.doneVa = 0 then .ok u else writeVirtual u (u.space l.node) 0 l.doneVa (leBytes 8 l.tag) false
        ∃ (t : State) (y : HwQueue) (ts : List TailRec), exec (.launchRetire id) s = .next t ∧ t.launch id = none ∧ t.hw l.queue = some y
          ∧ y.launch = none ∧ y.prog = (x.prog + 1) % 2 ^ 32 ∧ y.lastTag = l.tag ∧ y.children = ts ++ x.children ∧ ts.Perm l.tails
          ∧ ts.Pairwise (fun a b => a.ctx < b.ctx ∨ (a.ctx = b.ctx ∧ a.inst ≤ b.inst))
          ∧ (∀ e, w = .error e → y.state = 4 ∧ y.err = 8)
          ∧ ∀ v, w = .ok v → (x.preq = true → y.state = 3 ∧ y.preq = false)
            ∧ (x.preq = false → y.state = (if y.children = [] ∧ y.pending = 0 then 0 else 1))
            ∧ (y.state = 0 → ∀ k, t.byte k = v.byte k))
      ∧ ∀ x l, s.hw q = some x → x.launch = some id → s.launch id = some l →
        (x.state ≠ 2 ∨ l.wdlim = 0 ∨ s.dev.clock - x.wdFrom < l.wdlim * 65536 → exec (.watchdogExpiry q) s = .next s)
          ∧ (x.state = 2 → l.wdlim ≠ 0 → l.wdlim * 65536 ≤ s.dev.clock - x.wdFrom →
            (x.wdOnce = false → exec (.watchdogExpiry q) s =
                .next (s.setHw q { x with preq := true, wdOnce := true, wdFrom := s.dev.clock }))
              ∧ (x.wdOnce = true → ∃ t, exec (.watchdogExpiry q) s = .next t ∧ (t.hw q).map (·.state) = some 5
                ∧ ∀ c, (s.ctx c).launch = id → (s.ctx c).killable = true → (t.ctx c).mode = .killed))

/-! ### The host port, the network, storage -/

/-- R307, R339 to R342, R355, R369: a request from the host takes the next sequence number. One that must follow an earlier posted write
is held; else it is sent on: a doorbell sets PTAIL, an overrun stops its queue and a record readies an empty one; a write splits into
routes whose bytes are written at their acknowledgements; a read returns data or aborts; writes to BAR0 reach the mailbox and clear
HANGLOG; a read of BAR0 returns its registers. A flit with a bad CRC is replayed with every later one, and the sixteenth failed replay in
a row retrains the link, which holds what would cross it; the error is counted and puts the link under test. Without a host port nothing
arrives but what the BMC writes to the mailbox. The model's own choices: the time of the bytes is log entry 56, the BMC's way 70, a write
to a unit left out 77, the flits are log entry 97. -/
def Obligations.HostRequestsAreOrdered : Prop :=
  ∀ (s : State) (q v off len ro ido rid value seq route link : Nat) (data : List Byte) (mask : BitVec 256), s.wlog = [] →
    let doorbell := Instr.doorbellWrite q v ro ido rid
    let read := Instr.apertureRead ⟨2, off⟩ len ro ido rid
    let peek := Instr.apertureRead ⟨0, off⟩ len ro ido rid
    let write := Instr.apertureWrite off data ro ido rid
    let hang := Instr.hanglogWrite ⟨mask, ro, ido, rid⟩
    let reg := Instr.mgmtRegisterWrite off ⟨value, ro, ido, rid⟩
    let mk (kind addr : Nat) (bs : List Byte) (n ro ido rid : Nat) : Inbound :=
      { seq := s.dev.inSeq, kind := kind, addr := addr, data := bs, len := n, ro := ro, ido := ido, rid := rid, cells := [], routes := []
        sent := false }
    let requests : List (Instr × Inbound) :=
      [(doorbell, mk 2 (0x100000 + 8 * (q % 65536)) (leBytes 8 v) 8 ro ido rid), (write, mk 0 off data data.length ro ido rid),
        (read, mk 1 off [] len ro ido rid), (peek, mk 3 off [] len ro ido rid), (hang, mk 2 0x10C0 (leBytes 32 mask.toNat) 32 ro ido rid),
        (reg, mk 2 off (leBytes 4 value) 4 ro ido rid)]
    let isRead (x : Inbound) : Prop := x.kind = 1 ∨ x.kind = 3
    let follows (x w : Inbound) : Prop := w.kind ∈ [0, 2] ∧ w.seq < x.seq
      ∧ ((isRead x ∧ (x.ido = 0 ∨ x.rid = w.rid)) ∨ (¬isRead x ∧ x.ro = 0 ∧ (x.ido = 0 ∨ x.rid = w.rid)))
    let settled := ∀ w ∈ s.dev.inbound, w.sent = true ∧ w.kind < 4
    let open' := ∀ d, s.iodHeld d = false
    let free (x : Inbound) : Prop := settled ∧ ∀ w ∈ s.dev.inbound, w.seq ≠ s.dev.inSeq ∧ ¬follows x w
    let rung (x : HwQueue) (p : Nat) : HwQueue :=
      let y := { x with ptail := p % 2 ^ 32 }
      if 2 ^ x.rsz < y.pending ∧ x.state ≠ 4 ∧ x.state ≠ 5 then { y with state := 4, err := 1 }
      else { y with state := if x.state = 0 ∨ x.state = 1 then (if y.children = [] ∧ y.pending = 0 then 0 else 1) else x.state }
    let place (acc : Acc) (n : Nat) (node va : Nat) : Placed := placeVirtual s s.seen (s.space node) 0 3 acc false va n
    let kept (t : State) : Prop := t.dev.inbound = s.dev.inbound ∧ t.dev.inSeq = s.dev.inSeq + 1
    (s.dev.hostUp = false → (∀ p ∈ requests, ¬(p.2.kind = 2 ∧ p.2.addr < 0x208) → exec p.1 s = .next s)
        ∧ (off + 4 ≤ 0x100 → s.dev.mbBusy = false → Gives (exec reg s) fun t => t.dev.inbound = s.dev.inbound ∧ t.dev.inSeq = s.dev.inSeq
          ∧ (∀ j, j < 4 → tabGet 0 t.dev.mbCmd (off + j) = BitVec.ofNat 8 (value / 256 ^ j))
          ∧ ∀ j, j < off ∨ off + 4 ≤ j → tabGet 0 t.dev.mbCmd j = tabGet 0 s.dev.mbCmd j))
      ∧ (s.dev.hostUp = true → ∀ p ∈ requests, settled → (∃ w ∈ s.dev.inbound, follows p.2 w) →
      exec p.1 s = .next { s with dev := { s.dev with inSeq := s.dev.inSeq + 1, inbound := s.dev.inbound ++ [p.2] } })
      ∧ (s.dev.hostUp = true → ∀ p ∈ requests, free p.2 →
        (∀ x, p.1 = doorbell → s.hw (q % 65536) = some x → Gives (exec doorbell s) fun t => kept t ∧ t.hw (q % 65536) = some (rung x v))
          ∧ (p.1 = hang → Gives (exec hang s) fun t => kept t ∧ ∀ b, t.dev.hanglog.testBit b =
              (s.dev.hanglog.testBit b && !mask.getLsbD b))
          ∧ (p.1 = reg → off + 4 ≤ 0x100 → s.dev.mbBusy = false → Gives (exec reg s) fun t => kept t
              ∧ (∀ j, j < 4 → tabGet 0 t.dev.mbCmd (off + j) = BitVec.ofNat 8 (value / 256 ^ j))
              ∧ ∀ j, j < off ∨ off + 4 ≤ j → tabGet 0 t.dev.mbCmd j = tabGet 0 s.dev.mbCmd j)
          ∧ (p.1 = reg → off = 0x200 → value % 2 = 1 → s.dev.mbBusy = false → Gives (exec reg s) fun t => kept t
              ∧ t.dev.mbBusy = true ∧ t.agenda = .event ((commandOf (s.mbWord 0 % 256)).getD .mailboxUnknownOpcode) :: s.agenda)
          ∧ (p.1 = peek → Gives (exec peek s) fun t => kept t ∧ SameBytes s t
              ∧ t.dev.out = s.dev.out ++ [.barData off ((List.range len).map fun i => s.barByte (off + i))])
          ∧ (p.1 = read → s.aperture off = none → Gives (exec read s) fun t => kept t ∧ SameBytes s t
              ∧ t.dev.out = s.dev.out ++ [.readAbort s.dev.inSeq] ∧ t.dev.aperr = s.dev.aperr + 1 ∧ t.dev.aperrAddr = off)
          ∧ (p.1 = write → s.aperture off = none → Gives (exec write s) fun t => kept t ∧ SameBytes s t ∧ t.dev.out = s.dev.out
              ∧ t.dev.aperr = s.dev.aperr + 1 ∧ t.dev.aperrAddr = off)
          ∧ ∀ node va, s.aperture off = some (node, va) →
            (∀ e, p.1 = read → place .read len node va = .error e → e.mig = false → Gives (exec read s) fun t => kept t
              ∧ t.dev.out = s.dev.out ++ [.readAbort s.dev.inSeq] ∧ t.dev.aperr = s.dev.aperr + 1 ∧ t.dev.aperrAddr = va)
              ∧ (∀ srcs ts, p.1 = read → place .read len node va = .ok (srcs, ts) → s.red = [] → s.anyBad = false →
                s.iodWaits (placedKeys srcs) true = false → Gives (exec read s) fun t => kept t ∧ SameBytes s t ∧ ∃ tag attr,
                  let host := (placedKeys srcs).filter fun k => k % 8 == 5
                  t.dev.out = (s.fills ts).dev.out ++ (if host = [] then [] else [.hostRead tag attr host])
                    ++ [.readData s.dev.inSeq (srcs.map (srcByte s.byte))])
              ∧ (∀ srcs ts, p.1 = write → place .write data.length node va = .ok (srcs, ts) → open' → s.goneFault ts va (placedKeys srcs) ≠ none →
                Gives (exec write s) fun t => kept t ∧ SameBytes s t ∧ t.dev.aperr = s.dev.aperr + 1 ∧ t.dev.aperrAddr = va)
              ∧ (∀ e, p.1 = write → place .write data.length node va = .error e → e.mig = false → Gives (exec write s) fun t => kept t
                ∧ SameBytes s t ∧ t.dev.aperr = s.dev.aperr + 1 ∧ t.dev.aperrAddr = va)
              ∧ ∀ srcs ts, p.1 = write → place .write data.length node va = .ok (srcs, ts) → cellsOf srcs data ≠ [] → open' →
                s.goneFault ts va (placedKeys srcs) = none → Gives (exec write s) fun t => ((∀ tr ∈ ts, tr.dup = false) → SameBytes s t) ∧ ∃ y, t.dev.inbound = s.dev.inbound ++ [y] ∧ y.seq = s.dev.inSeq
                  ∧ y.sent = true ∧ y.kind = 0 ∧ y.cells = cellsOf srcs data ∧ ∀ d, d ∈ y.routes ↔ ∃ c ∈ y.cells, homeDie c.1 = d)
      ∧ ((s.dev.inbound.find? fun x => x.seq == seq && x.routes.contains route) = none → exec (.routeAck seq route) s = .next s)
      ∧ (∀ x, (s.dev.inbound.find? fun x => x.seq == seq && x.routes.contains route) = some x →
          s.iodHeld route = true ∨ (∃ c ∈ x.cells, homeDie c.1 = route ∧ s.unitBusy c.1 = true) → exec (.routeAck seq route) s = .next s)
      ∧ (∀ x, (s.dev.inbound.find? fun x => x.seq == seq && x.routes.contains route) = some x → s.red = [] → s.iodHeld route = false →
        (∀ c ∈ x.cells, homeDie c.1 = route → s.unitBusy c.1 = false) →
        let wrote (t : State) : Prop := (x.cells.map (·.1)).Nodup → ∀ k b, (k, b) ∈ x.cells → homeDie k = route → s.drops k = false →
          t.byte k = b
        (x.routes.erase route ≠ [] → Gives (exec (.routeAck seq route) s) fun t => wrote t ∧ t.dev.inbound = s.dev.inbound.map fun z =>
            if z.seq = seq then { x with
              cells := x.cells.filter fun c => homeDie c.1 != route, routes := x.routes.erase route } else z)
          ∧ (x.routes.erase route = [] → Gives (exec (.routeAck seq route) s) fun t => wrote t ∧ (∀ z ∈ t.dev.inbound, z.seq ≠ seq)
            ∧ ∀ z w n, s.dev.inbound = [x, z] → z.seq ≠ seq → z.kind = 2 → z.sent = false → z.addr = 0x100000 + 8 * n → n < 65536 →
              z.data.length = 8 → s.hw n = some w → t.dev.inbound = [] ∧ t.hw n = some (rung w (leNat (z.data.take 4)))))
      ∧ let was := s.link link
        let fails := if s.dev.clock < was.replayUntil then was.fails + 1 else 0
        let back : Link := { was with retrain := false, fails := 0, replayUntil := 0 }
        Gives (exec (.flitCrcError link) s) (fun t => ∃ flit til, s.dev.clock < til
            ∧ (s.dev.clock < was.replayUntil → flit = was.replayFrom)
            ∧ (was.replayUntil ≤ s.dev.clock → flit = was.next ∨ flit ∈ was.kept.map (·.1))
            ∧ t = { (s.setLink link { was with fails := fails, replayFrom := flit, replayUntil := til }).setUnitErr 4 link
                { s.unitErr 4 link with uncorrectable := (s.unitErr 4 link).uncorrectable + 1, testing := true } with
                fresh := s.fresh + 2, agenda := if 16 ≤ fails then .event (.linkRetrain link) :: s.agenda else s.agenda })
          ∧ exec (.linkRetrain link) s = .next (if 16 ≤ was.fails then s.setLink link { was with retrain := true } else s)
          ∧ Gives (exec (.linkRetrainComplete link) s) (fun t => (∀ l, (t.link l).retrain = if l = link then false else (s.link l).retrain)
            ∧ (s.dev.nvmeDone = [] → ∀ l, t.link l = if l = link then back else s.link l))
          ∧ (settled → s.dev.nvmeDone = [] → exec (.linkRetrainComplete link) s = .next (s.setLink link back))

/-- R302, R334, R345, R347, R349 to R351: a packet lands at its address in the domain of its endpoint and its flag follows, or is
refused; a packet of an untargeted message fills the buffer its message has taken or the next posted one, and the last brings the
header and the flag. An acknowledgement counts once, and a refused packet is sent again; a timeout, a failed or late Read command and
a failed page request halt their queue with ENGFAULT; a completion writes its blocks; an answered page lets further pages be asked
for, 32 at most. A failed request to host memory gives a load no data and raises MEMERR; none fails late before the port's timeout.
What would write while a bank, a link or a test holds it has not landed yet.
The model's own choices: where the spec is silent, log entries 46, 80, 84, 86, 93, 98 and 99. -/
def Obligations.NetworkAndStorageEventsAnswer : Prop :=
  ∀ (s : State) (ep raddr rcore rflag core pos port pair src msg len off packet status page code agent idx : Nat) (data : List Byte)
    (part : CollPart), s.wlog = [] →
    let answer (at' : Nat) (b : Bool) : List Out := [.packetAnswer ep at' b]
    let lands := exec (.packetLanding ep raddr rcore rflag data) s
    let message := exec (.untargetedMessage port ep src ⟨msg, len, off, data⟩) s
    let halts (r : Result) (core q detail faddr : Nat) : Prop := Gives r fun t => ∃ h, (t.queue core q).halted = some h
      ∧ h.cause.code = 0x34 ∧ h.cause.detail % 2 ^ 32 = detail ∧ h.cause.faddr = faddr
    let refused : Result := .next (s.emit (answer 0 false))
    (s.endpointNode ep = none → lands = .next (s.emit (answer raddr false)) ∧ message = refused)
      ∧ (∀ node, s.endpointNode ep = some node →
        let k := rcore % 256
        let placed := placeVirtual s s.seen (s.space node) 0 3 .write false raddr data.length
        let mine := s.dev.rx.filter fun b => b.port == port && b.node == node
        let rx := (mine.find? fun b => b.msg == some (src, msg, len)).or (mine.find? fun b => b.msg.isNone)
        (∀ e, placed = .error e → lands = .next (s.emit (answer raddr false)))
          ∧ (∀ srcs ts, placed = .ok (srcs, ts) → s.iodWaits (placedKeys srcs) false = true → lands = .next s)
          ∧ (∀ srcs ts, placed = .ok (srcs, ts) → s.iodWaits (placedKeys srcs) false = false → Gives lands fun t =>
            let host := (cellsOf srcs data).filter fun c => c.1 % 8 == 5
            (s.red = [] → ∃ attr : HostAttr, attr.relaxed = true
              ∧ t.dev.out = (s.fills ts).dev.out ++ (if host = [] then [] else [.hostWrite attr host]) ++ answer raddr true)
            ∧ (((cellsOf srcs data).map (·.1)).Nodup → ∀ j b, (j, b) ∈ cellsOf srcs data → s.drops j = false → t.byte j = b)
            ∧ (t.core k).incs = (s.core k).incs ++
              [{ at' := (s.core k).el, flag := rflag % 32, n := 1, node := node, ctx := 0, inst := 0, kills := false }])
          ∧ (rx = none → message = refused)
          ∧ ∀ b, rx = some b →
            let all := b.got ++ [(off, data.length)]
            let last : Prop := len ≤ (all.map (·.2)).sum
            let body := s.engWrite b.core node b.buf (64 + off) (data.take (b.len - 64 - off))
            let head := leBytes 8 (len % 2 ^ 32 + src % 2 ^ 32 * 2 ^ 32) ++ leBytes 56 (if b.len - 64 < len then 1 else 0)
            let gives (v : State) (p : State → Prop) : Prop :=
              Gives message fun t => SameBytes v t ∧ t.dev.out = v.dev.out ++ answer 0 true ∧ p t
            ((off, data.length) ∈ b.got → message = .next (s.emit (answer 0 true)))
              ∧ ((off, data.length) ∉ b.got →
                (∀ e, body = .error e → message = if e.code = 0 then .next s else refused)
                  ∧ ∀ v, body = .ok v →
                    (¬last → gives v fun t => t.dev.rx = s.dev.rx.map fun d =>
                      if d = b then { b with msg := some (src, msg, len), got := all } else d)
                    ∧ (last → (∀ e, v.engWrite b.core node b.buf 0 head = .error e → message = if e.code = 0 then .next s else refused)
                      ∧ ∀ w, v.engWrite b.core node b.buf 0 head = .ok w → gives w fun t => t.dev.rx = s.dev.rx.erase b
                        ∧ (t.core b.fcore).incs = (s.core b.fcore).incs ++ [{ at' := (s.core b.fcore).el, flag := b.flag, n := 1
                                                                              node := node, ctx := b.ctx, inst := b.inst, kills := true }])))
      ∧ exec (.collectivePacket part.group part.op part.rank part.cop part.fmt part.len part.data) s =
          .next (if ∃ p ∈ s.dev.collParts, p.group = part.group ∧ p.op = part.op ∧ p.rank = part.rank then s
            else { s with dev := { s.dev with collParts := s.dev.collParts ++ [part] } })
      ∧ (∀ c, s.cmdAt core 15 pos = some c → c.begun = true →
        let count := (c.word 4 % 2 ^ 32 + 4095) / 4096
        let acked := (c.data.drop 1).filter (· < 2 ^ 32)
        let refused := ((c.data.drop 1).filter (2 ^ 32 ≤ ·)).map (· - 2 ^ 32)
        let again := (packet :: refused).eraseDups
        let with' (acked refused : List Nat) : Cmd := { c with moved := acked.length, data := 0 :: acked ++ refused.map (2 ^ 32 + ·) }
        let read (a : State) (p : Nat) : Except AFault (List Byte × State) :=
          a.engRead core c.node (c.word 2) (4096 * p) (min 4096 (c.word 4 % 2 ^ 32 - 4096 * p))
        let why : Nat × Nat := if c.data.headD 0 = 3 then (c.data.getD 1 0, c.data.getD 2 0) else (0, 0)
        let put (d : Cmd) (t : State) : Prop := t = s.setQueue core 15 (t.queue core 15)
          ∧ (t.queue core 15).cmds = (s.queue core 15).cmds.map fun e => if e.pos = c.pos then d else e
        let landed := exec (.packetAck core ⟨pos, packet, true⟩) s
        let sent := exec (.packetAck core ⟨pos, packet, false⟩) s
        (packet < count → packet ∉ acked → c.data.headD 0 = 0 →
            Gives landed (put (with' (packet :: acked) (refused.filter (· ≠ packet))))
            ∧ (∀ x, Through (fun p a b => ∃ bs v, read a p = .ok (bs, v) ∧ b = v.emit [packetOf c p bs]) again.reverse s x →
              sent = .next ((x.setCmd core 15 (with' acked [])).closed s))
            ∧ ∀ e, again = [packet] → read s packet = .error e → (e.code = 0 ∨ (s.head core 15).map (·.pos) ≠ some pos → Gives sent (put (with' acked [packet])))
              ∧ (e.code ≠ 0 → (s.head core 15).map (·.pos) = some pos → Gives sent fun t => ∃ h, (t.queue core 15).halted = some h
                ∧ h.cause.code = (engCause e).code))
          ∧ (count ≤ packet ∨ packet ∈ acked ∨ c.data.headD 0 ≠ 0 → landed = .next s ∧ sent = .next s)
          ∧ ((s.head core 15).map (·.pos) = some pos → halts (exec (.transportTimeout core pos) s) core 15 (why.1 % 2 ^ 32) why.2)
          ∧ (s.head core 15 = some c → c.op = 18 → zeroSize c = false → c.data.headD 0 ≠ 0 →
            halts (exec (.engineCommandComplete core 15) s) core 15 (why.1 % 2 ^ 32) why.2)
          ∧ ((s.head core 15).map (·.pos) ≠ some pos → Gives (exec (.transportTimeout core pos) s) (put { c with data := [1] })))
      ∧ ((s.pair port pair)[idx]? = none → exec (.nvmeCompletion port ⟨pair, idx⟩ status data) s = .next s)
      ∧ (∀ r c, (s.pair port pair)[idx]? = some r → s.head r.core 17 = some c → c.begun = true → c.pos = r.pos → s.ends port pair = [] →
        let nvme := exec (.nvmeCompletion port ⟨pair, idx⟩ status data) s
        let cells := (r.prps.flatMap fun p => keysFrom p.1 p.2).zip data
        (status ≠ 0 → halts nvme r.core 17 (status % 2 ^ 16) 0)
          ∧ (status = 0 → s.iodWaits (cells.map (·.1)) false = true → Gives nvme fun t => SameBytes s t ∧ t.queue r.core 17 = s.queue r.core 17
            ∧ t.pair port pair = (s.pair port pair).eraseIdx idx ∧ t.ends port pair = [⟨r, 0, data⟩])
          ∧ (status = 0 → s.iodWaits (cells.map (·.1)) false = false → Gives nvme fun t => t.pair port pair = (s.pair port pair).eraseIdx idx
            ∧ ((cells.map (·.1)).Nodup → ∀ j b, (j, b) ∈ cells → s.drops j = false → t.byte j = b)
            ∧ (t.queue r.core 17).cmds = { c with moved := c.moved + r.blocks * s.stgBlock c } :: (s.queue r.core 17).cmds.drop 1))
      ∧ (∀ r c, s.dev.nvmeDone = [(32 * port + pair, [⟨r, 0, data⟩])] → r.core = core → s.head core 17 = some c → c.begun = true → c.pos = r.pos →
        c.op = 20 → c.word 3 ≠ 0 → c.moved + r.blocks * s.stgBlock c = c.word 3 * s.stgBlock c →
        let cells := (r.prps.flatMap fun p => keysFrom p.1 p.2).zip data
        s.iodWaits (cells.map (·.1)) false = false → Gives (exec (.engineCommandComplete core 17) s) fun t =>
          ((cells.map (·.1)).Nodup → ∀ j b, (j, b) ∈ cells → s.drops j = false → t.byte j = b)
            ∧ (t.queue core 17).cmds = (s.queue core 17).cmds.drop 1 ∧ t.dev.nvmeDone = [])
      ∧ (∀ c, s.head core 17 = some c → c.begun = true → c.op = 20 →
        let late : Prop := ∃ p ∈ s.dev.nvme, ∃ r ∈ p.2, r.core = core ∧ r.pos = c.pos ∧ r.since + 15000000000 ≤ s.dev.clock
        (late → halts (exec (.storageTimeout core) s) core 17 (2 ^ 16) 0) ∧ (¬late → exec (.storageTimeout core) s = .next s))
      ∧ (∀ c, s.head core 19 = some c → c.begun = true → 2 * page ∈ c.data →
        let response := exec (.pageRequestResponse core page code) s
        (code ≠ 0 → halts response core 19 0 page)
          ∧ (code = 0 → s.anyBad = false → Gives response fun t => ∃ (more : List Nat) (k : Nat),
            let now := c.data.map (fun p => if p = 2 * page then 2 * page + 1 else p) ++ more
            t.dev.out = s.dev.out ++ (more.filter (· % 2 == 0)).map (fun p => Out.pageRequest (s.space c.node).pasid (p / 2))
              ∧ c.moved ≤ k ∧ (k < c.word 2 % 2 ^ 32 → 32 ≤ now.countP (· % 2 == 0))
              ∧ (t.queue core 19).cmds = { c with data := now, moved := k } :: (s.queue core 19).cmds.drop 1))
      ∧ (let x := s.ctx agent
        let failed := exec (.hostErrorCompletion agent idx status) s
        let timed := exec (.hostCompletionTimeout agent idx) s
        (∀ i, agent < 1024 → x.port[idx]? = some i →
          let y : Ctx := { x with port := x.port.eraseIdx idx }
          let data := match i.op with
            | .load _ => True
            | .amo .. => True
            | _ => False
          ((opKeys i.op).find? (fun k => k % 8 == 5) = none → failed = .next s)
            ∧ ∀ k, (opKeys i.op).find? (fun k => k % 8 == 5) = some k →
              let e : Cause := { code := 0x35, detail := 6 + status % 2 ^ 16 * 256, faddr := failAddr i.via i.addr k, smask := 0 }
              (data → failed = .next (s.setCtx agent { y with pend := x.pend.map fun d =>
                  if d.id = i.id ∧ d.got = false then { d with got := true, ready := !d.freeze, w := .fail e } else d }))
                ∧ (¬data → failed = .next (if status = 9 then s.setCtx agent { y with boundary := addCause x.boundary e } else s)))
          ∧ (1024 ≤ agent →
            let k := (agent - 1024) / 20
            let q := (agent - 1024) % 20
            let cmds := (s.queue k q).cmds
            let holds (c : Cmd) : Bool := q == 15 && c.begun && c.word 2 % 2 ^ 57 ≤ idx && idx < c.word 2 % 2 ^ 57 + c.word 4 % 2 ^ 32
            ((s.queue k q).halted ≠ none → failed = .next s)
              ∧ ∀ c, (s.queue k q).halted = none → (cmds.find? holds).or (cmds.head?.filter (·.begun)) = some c → (c.op = 20 → q = 17) →
                let detail := 6 + status % 2 ^ 16 * 256
                let posted := c.op = 19 ∨ c.op = 20
                let leads := c.op = 20 ∨ cmds.head?.map (·.pos) = some c.pos
                (posted ∧ status ≠ 9 → failed = .next s) ∧ (¬(posted ∧ status ≠ 9) → leads → halts failed k q detail idx)
                  ∧ (¬(posted ∧ status ≠ 9) → ¬leads → failed = .next (s.setCmd k q { c with data := [3, detail, idx] })))
          ∧ (∀ t, s.requestFrom agent idx = some t → t + 1500000 * s.dev.timeout ≤ s.dev.clock →
            Gives (exec (.hostErrorCompletion agent idx 8) s) fun u => timed = .next { u with dev := { u.dev with aer := u.dev.aer ||| 2 ^ 14 } })
          ∧ ((∀ t, s.requestFrom agent idx = some t → s.dev.clock < t + 1500000 * s.dev.timeout) → timed = .next s))

/-! ### Errors, the start, power -/

/-- R356 to R358, R366 to R368, R372: an error is counted and puts its unit under test; one that is not corrected poisons its 64-bit word,
or loses a context's data where its unit holds no memory. A test that passes classes its errors transient; one that fails, lasting: each
failed row, column, bank or lane takes a spare, and with none left its words are poisoned and its unit is marked for removal in the
starter record. A start resets every core and context, keeps HBM, STM and host memory and writes the record anew, and the module has power
only where every step went through. Each power period moves the duty by at most one sixteenth; 105 degrees set it to 4, and 120 take the
power away. A SELFTEST is answered when its test ends. The model's own choices: Choices are log entries 10, 13, 66, 68, 69, 70, 76, 77, 78
and 107. -/
def Obligations.ErrorsStartAndPower : Prop :=
  ∀ (s : State) (kind unit sev addr failed watts copies fails other cores clusters hbms channels : Nat), s.wlog = [] →
    let u := s.unitErr kind unit
    let d := s.dev
    let start := exec (.startModule copies fails other cores clusters hbms channels) s
    let rec' := d.recordFor copies
    let right : Bool := sev == 0 && (kind == 0 || kind == 2)
    let found := if u.parts = [] then [failed - 1] else u.parts
    let rows := (found.map (rowOf kind unit)).eraseDups
    let short : Bool := failed != 0 && decide (u.spares < rows.length)
    let word (k : Nat) : Nat := k / 64 * 8 + k % 8
    let tested := exec (.selfTestComplete kind unit failed) s
    (Gives (exec (.errorDetected kind unit sev addr) s) fun t => SameBytes s t
      ∧ (∀ c, t.core c = { s.core c with el := (t.core c).el, cyc := (t.core c).cyc })
      ∧ (∀ c, unitCore kind unit ≠ some c → t.core c = s.core c)
      ∧ (t.unitErr kind unit).testing = true ∧ (t.unitErr kind unit).parts = u.parts ++ [addr]
      ∧ (t.unitErr kind unit).correctable = u.correctable + (if right then 1 else 0)
      ∧ (t.unitErr kind unit).uncorrectable = u.uncorrectable + (if right then 0 else 1)
      ∧ (t.unitErr kind unit).chunks =
        (if kind = 1 then (u.chunks ++ (s.catchUpUnit kind unit).chunkNow unit).eraseDups else u.chunks)
      ∧ (right = true ∨ kind = 1 ∨ holdsMemory kind unit = false → t.dev.poison = d.poison)
      ∧ (right = false → kind ≠ 1 → holdsMemory kind unit = true → ∀ g, g ∈ t.dev.poison ↔ g = word addr ∨ g ∈ d.poison)
      ∧ (right = true ∨ kind = 1 ∨ holdsMemory kind unit = true → t.ctxs = s.ctxs)
      ∧ (right = false → kind ≠ 1 → holdsMemory kind unit = false → (s.ctx (addr % 1024)).killable = true → t.ctx (addr % 1024) =
        { s.ctx (addr % 1024) with boundary := (s.ctx (addr % 1024)).boundary ++
          [{ code := 0x35, detail := kind + (if kind = 0 then unit % 2 ^ 16 else unit) * 256, faddr := 0, smask := 0 }] }))
      ∧ (u.testing = false → tested = .next (s.catchUpUnit kind unit))
      ∧ (u.testing = true → d.nvmeDone = [] → Gives tested fun t => SameBytes s t ∧ (t.unitErr kind unit).testing = false
        ∧ (t.unitErr kind unit).parts = [] ∧ (t.unitErr kind unit).cls = (if failed = 0 then 1 else 2)
        ∧ (failed = 0 → t.dev.start = d.start ∧ (t.unitErr kind unit).spares = u.spares ∧ t.dev.poison = d.poison)
        ∧ (failed ≠ 0 → t.dev.startOther = d.start ∧ t.dev.start.seq = d.start.seq + 1)
        ∧ (d.testCmd = some (kind, unit) → t.dev.testCmd = none ∧ t.dev.mbStatus = 0 ∧ t.dev.mbBusy = false)
        ∧ (d.testCmd ≠ some (kind, unit) → t.dev.testCmd = d.testCmd ∧ t.dev.mbStatus = d.mbStatus ∧ t.dev.mbBusy = d.mbBusy))
      ∧ (u.testing = true → d.nvmeDone = [] → failed ≠ 0 → kind ≠ 2 → Gives tested fun t =>
        (t.unitErr kind unit).spares = u.spares - rows.length
        ∧ t.dev.start.spareLog = (((rows.take u.spares).zipIdx.map fun p => (8 * unit + kind, 2 ^ 20 + (u.spares - p.2), p.1)).reverse)
          ++ d.start.spareLog
        ∧ (∀ g, g ∈ t.dev.poison ↔ g ∈ d.poison
          ∨ ∃ p ∈ found, holdsMemory kind unit = true ∧ rowOf kind unit p ∈ rows.drop u.spares ∧ g = word p)
        ∧ ∀ n,
          t.dev.start.cores.testBit n = (d.start.cores.testBit n || (short
            && ((kind == 0 && decide (unit / 2 ^ 22 < 8) && n == unit % 2 ^ 16) || (kind == 1 && n == unit))))
          ∧ t.dev.start.clusters.testBit n = (d.start.clusters.testBit n || (short && kind == 0 && decide (8 ≤ unit / 2 ^ 22) && n == unit % 2 ^ 16))
          ∧ t.dev.start.channels.testBit n = (d.start.channels.testBit n || (short && kind == 3 && n == unit))
          ∧ t.dev.start.links.testBit n = (d.start.links.testBit n || (short && decide (4 ≤ kind) && n == unit))
          ∧ t.dev.start.hbms = d.start.hbms)
      ∧ (∀ p, u.testing = true → d.nvmeDone = [] → failed ≠ 0 → kind = 2 → rows = [p] → Gives tested fun t =>
        let bank := Config.hbmBank (p / 8)
        let used := tabGet 0 u.rows bank
        let v := t.unitErr kind unit
        (used < 16 → v.spares = u.spares ∧ tabGet 0 v.rows bank = used + 1 ∧ t.dev.start.hbms = d.start.hbms
            ∧ t.dev.start.spareLog = (8 * unit + kind, 64 * bank + used, p) :: d.start.spareLog)
          ∧ (16 ≤ used → u.spares ≠ 0 → v.spares = u.spares - 1 ∧ tabGet 0 v.rows bank = 0 ∧ t.dev.start.hbms = d.start.hbms
            ∧ t.dev.start.spareLog = (8 * unit + kind, 2 ^ 20 + u.spares, p) :: d.start.spareLog)
          ∧ (16 ≤ used → u.spares = 0 → ∀ n, t.dev.start.hbms.testBit n = (d.start.hbms.testBit n || n == unit / 32)))
      ∧ (Gives start fun t => t.ctxs = [] ∧ t.red = [] ∧ t.tlb = [] ∧ t.agenda = [] ∧ t.fl.live = false
        ∧ (∀ k, t.byte k = if k % 8 = 0 ∨ k % 8 = 1 ∨ k % 8 = 5 then s.byte k else 0)
        ∧ t.dev.start.seq = rec'.seq + 1 ∧ t.dev.startOther = (if rec' = d.start then d.start else d.startOther))
      ∧ (Gives start fun t => (∀ c, (t.core c).cyc = 0 ∧ (t.core c).tiles = [] ∧ (t.core c).entries = [])
        ∧ (∀ c, c < 256 → (t.core c).removed = (t.dev.start.cores.testBit c || t.dev.start.clusters.testBit (c / 8)))
        ∧ (∀ g, g < 32 → (t.cluster g).removed = t.dev.start.clusters.testBit g)
        ∧ t.dev.stacksGone = t.dev.start.hbms ∧ t.dev.channelsGone = t.dev.start.channels ∧ t.dev.domains = [] ∧ t.dev.hwq = []
        ∧ 1 ≤ t.dev.timeout ∧ t.dev.timeout ≤ 4000
        ∧ (t.dev.powered = true → t.dev.ststep = 8)
        ∧ t.dev.hostUp = decide ((t.dev.start.steps.getD 2 (0, 0, 0)).1 ≠ 3)
        ∧ (copies % 4 = 0 → fails.testBit 0 = false → (t.dev.start.steps.getD 0 (0, 0, 0)).2.2 = 0xFFFF
          ∧ t.dev.start.seq = max (if copies.testBit 2 then d.start.seq else 0) (if copies.testBit 3 then d.startOther.seq else 0) + 1)
        ∧ (fails.testBit 0 = true → (rec'.steps.getD 0 (0, 0, 0)).1 = 0 → t.dev.powered = false ∧ t.dev.ststep = 257
          ∧ (t.dev.start.steps.getD 0 (0, 0, 0)).2.1 = (rec'.steps.getD 0 (0, 0, 0)).2.1 + 1))
      ∧ (let duty := if d.limit < watts then max 4 (d.duty - 1) else if 100 * watts < 95 * d.limit then min 16 (d.duty + 1) else d.duty
        let now := d.clock / 150000
        (now ≤ d.period → exec (.powerPeriod watts) s = .next s)
          ∧ (d.period < now → duty = d.duty → exec (.powerPeriod watts) s = .next { s with dev := { d with pwr := watts, period := now } })
          ∧ (d.period < now → duty ≠ d.duty → exec (.powerPeriod watts) s =
            .next (State.signal { s.catchUpAll with dev := { d with pwr := watts, duty := duty, period := now } } 3 0)))
      ∧ exec .thermalThrottle s = .next (State.signal { s.catchUpAll with dev := { d with duty := 4 } } 3 0)
      ∧ exec .thermalShutdown s = .next { s with dev := { d with powered := false } }

/-! ### Device commands -/

/-- R326, R331, R337, R340, R346, R348, R351, R364, R365, R369 to R372: each command of the mailbox answers a status and a response.
With its fields in their ranges, else 2, and its objects there and in the right state, else 3, it has its effect and the status is
0; XINVAL and MIGRATE stay busy until every access that used a translation of their range has performed. The model's own choices:
Layouts and cases that no rule gives are log entries 62 to 68, EPBIND of node 0 and what a GRPDEF drops 46, the masking of an answer's
vector 96, what a command's reads ask of the host 79. -/
def Obligations.DeviceCommandsAnswer : Prop :=
  ∀ s : State, s.wlog = [] →
    let W := s.mbWord
    let d := s.dev
    let bad (n : Nat) : Result := .next (s.answer n [])
    let ok (u : State) : Result := .next ((u.answer 0 []).closed s)
    let setDev (e : Dev) : State := { s with dev := e }
    let dom (va : Nat) : Prop := s.domainOk va = true
    let still (u : State) (node va n : Nat) : Prop :=
      let out (via : List Trans) : Prop := ∀ t ∈ via, ¬(t.space = node + 1 ∧ t.base < va + n ∧ va < t.base + t.size)
      (∀ p ∈ u.ctxs, ∀ i ∈ p.2.port, out i.via) ∧ (∀ x ∈ u.dev.inbound, x.cells = [])
        ∧ (∀ p ∈ u.dev.nvme, ∀ r ∈ p.2, out r.via) ∧ ∀ p ∈ u.dev.nvmeDone, ∀ e ∈ p.2, out e.read.via
    let root (w : Nat) : Prop := bits w 0 4 = 0 ∧ bits w 4 2 < 2 ∧ bits w 6 6 = 0 ∧ w / 2 ^ 52 = 0
    let gives (r : Result) (p : State → Prop) : Prop := Gives r fun t => t.dev.mbStatus = 0 ∧ t.dev.mbBusy = false ∧ p t
    -- what an answer is
    (∀ (u : State) (n : Nat) (bs : List Byte), (u.answer n bs).dev.mbStatus = n ∧ (u.answer n bs).dev.mbBusy = false
        ∧ (bs.length ≤ 256 → ∀ j, j < 256 → tabGet 0 (u.answer n bs).dev.mbResp j = bs.getD j 0)
        ∧ ∀ v, (d.vectors.find? fun v => v.1 == 0) = some v →
          let masked : Prop := (d.tableByte (16 * v.2.2 + 12)).toNat % 2 = 1
          (s.answer n bs).dev.out = d.out ++ (if masked then [] else [.msi v.2.2])
            ∧ (s.answer n bs).dev.pba = if masked then d.pba ||| 2 ^ v.2.2 else d.pba)
      -- identity, configuration, errors, power
      ∧ exec .mailboxUnknownOpcode s = bad 1
      ∧ exec .ident s = .next (s.answer 0
          (leBytes 8 Config.partNumber ++ leBytes 8 (Config.imageParts d.runningImage).1 ++ leBytes 8 d.start.seq))
      ∧ exec .getcfg s = .next (s.answer 0 (leBytes 32 d.start.cores ++ leBytes 8 (d.start.clusters % 2 ^ 32 + d.start.hbms % 2 ^ 12 * 2 ^ 32)
          ++ leBytes 4 d.start.channels))
      ∧ (let u := s.unitErr (W 1 % 16) (W 2)
        exec .errget s = if isUnit (W 1 % 16) (W 2) then .next (s.answer 0
          (leBytes 8 u.correctable ++ leBytes 8 u.uncorrectable ++ leBytes 8 u.cls ++ leBytes 8 (u.left (W 1 % 16)))) else bad 2)
      ∧ (isUnit (W 1) (W 2) = true → Gives (exec .selftest s) fun t => SameBytes s t
          ∧ t.dev.testCmd = some (W 1, W 2) ∧ t.dev.mbBusy = d.mbBusy ∧ t.dev.out = d.out
          ∧ t.unitErr (W 1) (W 2) = { s.unitErr (W 1) (W 2) with testing := true } ∧ t.dev.start = d.start)
      ∧ (isUnit (W 1) (W 2) = false → Gives (exec .selftest s) fun t => t.dev.mbStatus = 2 ∧ t.dev.errs = d.errs)
      ∧ (W 1 % 2 = 0 → exec .startrec s = .next (s.answer 0 (d.start.bytes.take 256)))
      ∧ (W 1 % 2 = 1 → exec .startrec s = .next ((setDev { d with
          start := { d.start with steps := List.replicate 8 (0, 0, 0), seq := d.start.seq + 1 }, startOther := d.start }).answer 0
            (d.start.bytes.take 256)))
      ∧ exec .pwrlimit s = (if 1000 ≤ W 1 % 4096 ∧ W 1 % 4096 ≤ 2800 then ok (setDev { d with limit := W 1 % 4096 }) else bad 2)
      ∧ (let node := if W 1 % 16 = 1 then W 2 else 0
        (4 ≤ W 1 % 16 → exec .setvec s = bad 2)
          ∧ (W 1 % 16 = 1 → ¬dom (W 2) → exec .setvec s = bad 3)
          ∧ (W 1 % 16 < 4 → (W 1 % 16 = 1 → dom (W 2)) → exec .setvec s = ok (setDev { d with vectors :=
            (W 1 % 16, node, W 3 % 2048) :: (d.vectors.filter fun v => !(v.1 == W 1 % 16 && v.2.1 == node)) })))
      ∧ exec .attest s = (if W 5 % 64 = 0 then ok (s.storeVia []
          (((s.report ++ Config.ed25519Sign identitySeed s.report).zipIdx).map fun p => (busKey (W 5 + p.2), p.1)) false) else bad 2)
      ∧ (let keys := (List.range (W 2)).map fun i => busKey (W 1 + i)
        let image := keys.map s.byte
        let u := s.askHost keys
        SameBytes s u ∧ exec .fwstage s =
          if imageOk image then ok { u with dev := { u.dev with staged := some image } } else .next ((u.answer 4 []).closed s))
      -- spaces and domains
      ∧ (¬root (W 1) → exec .mgmtroot s = bad 2) ∧ (root (W 1) → d.hwq ≠ [] → exec .mgmtroot s = bad 3)
      ∧ (root (W 1) → d.hwq = [] → exec .mgmtroot s = ok { s with
          dev := { d with mgmt := some (W 1 / 2 ^ 12 % 2 ^ 40 * 2 ^ 12, W 1 / 2 ^ 4 % 4, W 2 % 2 ^ 20) }
          tlb := s.tlb.filter fun t => t.space ≠ 0 })
      ∧ (¬root (W 2) → exec .domcreate s = bad 2)
      ∧ (root (W 2) → s.nodeOk (W 1) = false ∨ (s.domain (W 1)).isSome = true → exec .domcreate s = bad 3)
      ∧ (∀ bs, root (W 2) → s.nodeOk (W 1) = true → s.domain (W 1) = none → readVirtual s s.mgmtSpace 0 (W 1 + 48) 8 = .ok bs →
        (leNat bs).testBit 35 = true → gives (exec .domcreate s) fun t => SameBytes s t ∧ t.domain (W 1) = some
            { node := W 1, root := W 2 / 2 ^ 12 % 2 ^ 40 * 2 ^ 12, loc := W 2 / 2 ^ 4 % 4, pasid := W 3 % 2 ^ 20, live := true, subst := 0
              pidx := 0, rovf := 0, fovf := 0 }
          ∧ ∀ tr ∈ t.tlb, tr.space ≠ W 1 + 1)
      ∧ (∀ i ∈ [Instr.outcome, .domteardown, .xinval], ¬dom (W 1) → exec i s = bad 3)
      ∧ (dom (W 1) → exec .outcome s = ok (s.writeOutcome (W 1)))
      ∧ (dom (W 1) → gives (exec .domteardown s) fun t => t.domain (W 1) = none ∧ (∀ tr ∈ t.tlb, tr.space ≠ W 1 + 1)
        ∧ (∀ c, (s.ctx c).mode ≠ .unbound → (s.ctx c).node = W 1 → (t.ctx c).mode = .unbound ∧ (t.ctx c).port = [] ∧ (t.ctx c).pend = []
          ∧ (t.ctx c).prep = none ∧ (t.ctx c).strays = [] ∧ (t.ctx c).wbacks = [])
        ∧ (∀ b, t.dev.apbind = some b → b.1 ≠ W 1) ∧ (∀ r ∈ t.dev.rx, r.node ≠ W 1)
        ∧ (∀ core q, ∀ c ∈ (t.queue core q).cmds, c.node ≠ W 1)
        ∧ (∀ core off, freezes s (W 1) core = true → t.byte (keyOf (.pm core off)) = 0 ∧ (t.core core).frozen = false)
        ∧ ∀ q x id l, s.hw q = some x → x.launch = some id → s.launch id = some l → l.node = W 1 → (t.hw q).map (·.state) = some 5)
      ∧ (dom (W 1) →
        let u := s.settleDomain (W 1)
        (still u (W 1) (W 2) (W 3) → exec .xinval s = .next (((u.dropRange (W 1) (W 2) (W 3)).answer 0 []).closed s)
            ∧ ∀ tr, tr.space = W 1 + 1 → tr.base < W 2 + W 3 → W 2 < tr.base + tr.size → tr ∉ (u.dropRange (W 1) (W 2) (W 3)).tlb)
          ∧ (¬still u (W 1) (W 2) (W 3) → exec .xinval s = .next (u.closed s)))
      ∧ (¬(W 2 % 65536 = 0 ∧ W 2 < 2 ^ 57) → exec .apbind s = bad 2)
      ∧ (W 2 % 65536 = 0 → W 2 < 2 ^ 57 → exec .apbind s =
          if s.domainOk (W 1) then ok (setDev { d with apbind := some (W 1, W 2) }) else bad 3)
      -- migration
      ∧ (let loc := W 4 % 4
        let dup := (W 4).testBit 2
        let pa2 := bits (W 4) 16 35 * 2 ^ 16
        let pa := W 3
        (d.moving = none → (2 ≤ loc ∨ (dup = true ∧ loc ≠ 0) → exec .migrate s = bad 2)
          ∧ (loc < 2 → (dup = true → loc = 0) → ¬dom (W 1) → exec .migrate s = bad 3)
          ∧ ∀ tr, loc < 2 → (dup = true → loc = 0) → dom (W 1) → walk s.seen (s.space (W 1)) (W 2) .read = .ok tr → tr.loc < 2 →
            let fit (l a : Nat) : Prop := a % tr.size = 0 ∧ a + tr.size ≤ if l = 0 then 576 * 2 ^ 30 else 2 ^ 41
            let home (a : Nat) : Bool := a / (48 * 2 ^ 30) < 6
            let may := fit loc pa ∧ (dup = true → fit 0 pa2 ∧ home pa ≠ home pa2)
            (¬may → exec .migrate s = bad 2)
              ∧ (may → Gives (exec .migrate s) fun t => t.dev.moving = some tr ∧ t.dev.mbBusy = d.mbBusy
                ∧ ∀ b, (readLe t.byte tr.entry 8).testBit b = (b == 7 || (b != 2 && (readLe s.seen tr.entry 8).testBit b))))
          ∧ ∀ tr, d.moving = some tr →
            let u := s.settleDomain (W 1)
            (¬still u (W 1) tr.base tr.size → exec .migrate s = .next (u.closed s))
              ∧ (still u (W 1) tr.base tr.size → exec .migrate s =
                .next (((((u.dropRange (W 1) tr.base tr.size).endMove tr loc pa dup pa2).pump).answer 0 []).closed s))
              ∧ (dup = false → loc < 2 → tr.loc < 2 → s.red = [] → s.anyBad = false → d.inbound = [] → d.nvmeDone = [] → (∀ c, (s.ctx c).port = []) →
                let src (i : Nat) : Nat := physKey tr.loc 0 (tr.pa + i)
                let dst (i : Nat) : Nat := physKey loc 0 (pa + i)
                (∀ i j, i < tr.size → j < 8 → dst i ≠ tr.entry + 8 * j) → (∀ i j, i < tr.size → j < tr.size → dst i ≠ src j) →
                (still s (W 1) tr.base tr.size) → gives (exec .migrate s) fun t => t.dev.moving = none ∧ (∀ i, i < tr.size → t.byte (dst i) = s.byte (src i))
                  ∧ readLe t.byte tr.entry 8 = (7 + (if tr.w then 8 else 0) + loc * 16 + (if tr.tol then 256 else 0) + pa) % 2 ^ 64
                  ∧ ∀ u ∈ t.tlb, ¬(u.space = W 1 + 1 ∧ u.base < tr.base + tr.size ∧ tr.base < u.base + u.size)))
      -- work queues
      ∧ (let w := W 2
        let node := W 3 % 2 ^ 57
        let q := W 1 % 65536
        let x : HwQueue :=
          { ring := w % 2 ^ 57, rsz := w / 2 ^ 57 % 2 ^ 5, head := 0, ptail := 0, node := node, save := W 4 % 2 ^ 57, state := 0, err := 0
            tovf := false, preq := false, prog := 0, launch := none, children := [], lastTag := 0, wdFrom := 0, wdOnce := false }
        let right := w % 64 = 0 ∧ x.rsz ≤ 16 ∧ W 4 % 64 = 0
        (¬right → exec .qcreate s = bad 2)
          ∧ (right → s.nodeOk node = false ∨ (s.hw q).isSome = true → exec .qcreate s = bad 3)
          ∧ (right → s.nodeOk node = true → s.hw q = none → exec .qcreate s = ok (s.setHw q x)))
      ∧ (∀ i ∈ [Instr.qdestroy, .qclear, .qpreempt, .qresume, .qkill],
        (65536 ≤ W 1 → exec i s = bad 2) ∧ (W 1 < 65536 → s.hw (W 1) = none → exec i s = bad 3))
      ∧ (∀ x, W 1 < 65536 → s.hw (W 1) = some x →
        let q := W 1
        let idle : Nat := if x.children = [] ∧ x.pending = 0 then 0 else 1
        (x.state ∉ [0, 3, 4, 5] → exec .qdestroy s = bad 3)
          ∧ (x.state ∈ [0, 3, 4, 5] → gives (exec .qdestroy s) fun t => t.hw q = none ∧ (∀ p, p ≠ q → t.hw p = s.hw p)
            ∧ ∀ id, x.launch = some id → t.launch id = none)
          ∧ (x.state ∉ [4, 5] → exec .qclear s = bad 3)
          ∧ (x.state ∈ [4, 5] → gives (exec .qclear s) fun t => t.hw q = some { x with
              state := idle, err := 0, tovf := false, launch := none, wdOnce := false }
            ∧ ∀ id, x.launch = some id → t.launch id = none)
          ∧ exec .qpreempt s = ok (s.setHw q { x with preq := true })
          ∧ exec .qresume s = (if x.state = 3 then ok (s.setHw q { x with state := idle }) else bad 3)
          ∧ gives (exec .qkill s) fun t => (t.hw q).map (·.state) = some 5
            ∧ ∀ id c, x.launch = some id → (s.ctx c).launch = id → (s.ctx c).killable = true → (t.ctx c).mode = .killed)
      -- agents
      ∧ (let c := W 1 % 1024
        let x := s.ctx c
        let core := W 1 % 256
        let q := W 1 / 2 ^ 16 % 2 ^ 8
        (x.killable = false → exec .kill s = bad 3 ∧ ((W 1).testBit 63 = false → exec .resume s = bad 3))
          ∧ (x.killable = true → gives (exec .kill s) fun t => (t.ctx c).mode = .killed)
          ∧ ((W 1).testBit 63 = false → x.killable = true → x.parkedNow = false → gives (exec .resume s) fun t => (t.ctx c).mode = x.mode)
          ∧ (∀ f e, (W 1).testBit 63 = false → x.parkedNow = true → x.park = some (f, e) → gives (exec .resume s) fun t =>
            (t.ctx c).mode = .running ∧ (t.ctx c).resume = some f ∧ (t.ctx c).pc = f.epc ∧ (t.ctx c).inRun = f.lit ∧ (t.ctx c).park = none)
          ∧ ((W 1).testBit 63 = true → 20 ≤ q → exec .resume s = bad 2)
          ∧ ∀ h, (W 1).testBit 63 = true → q < 20 → (s.queue core q).halted = some h →
            (h.cause.code ≠ 0x12 → exec .resume s = bad 3)
              ∧ (h.cause.code = 0x12 → gives (exec .resume s) fun t => (t.queue core q).halted = none
                ∧ (t.queue core q).cmds.map (·.pos) = (s.queue core q).cmds.map (·.pos)))
      -- network and storage
      ∧ (W 3 ≠ 0 → ¬dom (W 3) → exec .epbind s = bad 3)
      ∧ (W 3 = 0 ∨ dom (W 3) → exec .epbind s = ok (setDev { d with endpoints :=
          (W 1 % 2 ^ 32, W 2, W 3) :: (d.endpoints.filter fun e => e.1 ≠ W 1 % 2 ^ 32) }))
      ∧ (let n := W 1 / 256 % 256 + 1
        (∀ e, readWords s s.mgmtSpace (W 2) n = .error e → exec .grpdef s = bad 3)
          ∧ ∀ ws, readWords s s.mgmtSpace (W 2) n = .ok ws → d.mgmt.isSome = true → gives (exec .grpdef s) fun t =>
            tabGet [] t.dev.groups (W 1 % 256) = ws.map (fun w => (w % 2 ^ 32, w / 2 ^ 32 % 2 ^ 8))
              ∧ ∀ p ∈ t.dev.collParts, p.group ≠ W 1 % 256)
      ∧ (let port := W 1 % 8
        let mine (n : Nat × Nat × Nat × Nat) : Bool := n.1 == port && n.2.1 == W 2
        (¬(W 2 ≠ 0 ∧ W 2 < 2 ^ 32 - 1) → exec .nsattach s = bad 2)
          ∧ (W 2 ≠ 0 → W 2 < 2 ^ 32 - 1 → W 3 % 2 = 1 → exec .nsattach s = if d.nsids.any mine then
            ok (setDev { d with nsids := d.nsids.filter fun n => !mine n }) else bad 3)
          ∧ (W 2 ≠ 0 → W 2 < 2 ^ 32 - 1 → W 3 % 2 = 0 → exec .nsattach s = match Config.drive port (W 2) with
            | some (size, big) => if Config.controller port && !d.nsids.any mine then
                ok (setDev { d with nsids := (port, W 2, size, if big then 4096 else 512) :: d.nsids }) else bad 3
            | none => bad 3))
end

