-- ==== Sys2Proof/Laws/Tab.lean ====
section
/-! SUPPORT. Lemmas of sparse tables: a key read after a write, and the canonical form kept. -/

namespace Sys2Proof.Machine

/-! ### Reading after writing -/

@[simp] theorem tabGet_nil {α : Type} (d : α) (n : Nat) : tabGet d [] n = d := rfl

/-- A change of every entry that leaves the default alone. -/
theorem tabGet_map {α : Type} (d : α) (g : α → α) (h : g d = d) (t : Tab α) (n : Nat) :
    tabGet d (t.map fun p => (p.1, g p.2)) n = g (tabGet d t n) := by
  induction t with
  | nil => simp [h]
  | cons p t ih =>
    simp only [List.map_cons, tabGet]
    split <;> simp_all

@[simp] theorem tabGet_put_self {α : Type} (d : α) (t : Tab α) (n : Nat) (x : α) : tabGet d (tabPut t n x) n = x := by
  induction t with
  | nil => simp [tabPut, tabGet]
  | cons p t ih =>
    obtain ⟨k, v⟩ := p
    simp only [tabPut]
    split
    · simp [tabGet]
    · split
      · simp [tabGet]
      · rename_i h
        simp [tabGet, Ne.symm h, ih]

@[simp] theorem tabGet_put_ne {α : Type} (d : α) (t : Tab α) (n : Nat) (x : α) {m : Nat} (h : m ≠ n) :
    tabGet d (tabPut t n x) m = tabGet d t m := by
  induction t with
  | nil => simp [tabPut, tabGet, Ne.symm h]
  | cons p t ih =>
    obtain ⟨k, v⟩ := p
    simp only [tabPut]
    split
    · simp [tabGet, Ne.symm h]
    · split
      · subst_vars
        simp [tabGet, Ne.symm h]
      · simp [tabGet, ih]

theorem tabGet_put {α : Type} (d : α) (t : Tab α) (n : Nat) (x : α) (m : Nat) :
    tabGet d (tabPut t n x) m = if m = n then x else tabGet d t m := by
  by_cases h : m = n
  · simp [h]
  · simp [h]

@[simp] theorem tabPut_put {α : Type} (t : Tab α) (n : Nat) (x y : α) : tabPut (tabPut t n x) n y = tabPut t n y := by
  induction t with
  | nil => simp [tabPut]
  | cons p t ih =>
    by_cases h : n < p.1
    · simp [tabPut, h]
    · by_cases h2 : n = p.1 <;> simp [tabPut, h, h2, ih]

@[simp] theorem tabGet_erase_self {α : Type} (d : α) (t : Tab α) (n : Nat) : tabGet d (tabErase t n) n = d := by
  induction t with
  | nil => rfl
  | cons p t ih =>
    obtain ⟨k, v⟩ := p
    simp only [tabErase]
    split
    · exact ih
    · rename_i h
      simp [tabGet, h, ih]

@[simp] theorem tabGet_erase_ne {α : Type} (d : α) (t : Tab α) {n m : Nat} (h : m ≠ n) :
    tabGet d (tabErase t n) m = tabGet d t m := by
  induction t with
  | nil => rfl
  | cons p t ih =>
    obtain ⟨k, v⟩ := p
    simp only [tabErase]
    split
    · subst_vars
      simp [tabGet, Ne.symm h, ih]
    · simp [tabGet, ih]

theorem tabGet_set {α : Type} [DecidableEq α] (d : α) (t : Tab α) (n : Nat) (x : α) (m : Nat) :
    tabGet d (tabSet d t n x) m = if m = n then x else tabGet d t m := by
  unfold tabSet
  by_cases h : m = n <;> by_cases hx : x = d <;> simp [h, hx]

/-! ### The canonical form -/

/-- Every key of the table exceeds the bound. -/
theorem tabSorted_lower {α : Type} {t : Tab α} {lo : Nat} (h : tabSorted (some lo) t = true) :
    ∀ p ∈ t, lo < p.1 := by
  induction t generalizing lo with
  | nil => simp
  | cons q t ih =>
    simp only [tabSorted, Bool.and_eq_true, decide_eq_true_eq] at h
    intro p hp
    rcases List.mem_cons.1 hp with rfl | hp
    · exact h.1
    · exact Nat.lt_trans h.1 (ih h.2 p hp)

theorem tabSorted_weaken {α : Type} {t : Tab α} {lo hi : Nat} (h : tabSorted (some hi) t = true) (hl : lo ≤ hi) :
    tabSorted (some lo) t = true := by
  cases t with
  | nil => rfl
  | cons q t =>
    simp only [tabSorted, Bool.and_eq_true, decide_eq_true_eq] at h ⊢
    exact ⟨by omega, h.2⟩

theorem tabSorted_none {α : Type} {t : Tab α} {lo : Nat} (h : tabSorted (some lo) t = true) : tabSorted none t = true := by
  cases t with
  | nil => rfl
  | cons q t =>
    simp only [tabSorted, Bool.and_eq_true, decide_eq_true_eq] at h ⊢
    exact ⟨trivial, h.2⟩

theorem tabSorted_filter {α : Type} (f : Nat × α → Bool) {t : Tab α} {lo : Option Nat} (h : tabSorted lo t = true) :
    tabSorted lo (t.filter f) = true := by
  induction t generalizing lo with
  | nil => rfl
  | cons q t ih =>
    simp only [tabSorted, Bool.and_eq_true] at h
    simp only [List.filter]
    split
    · simp only [tabSorted, Bool.and_eq_true]
      exact ⟨h.1, ih h.2⟩
    · have ht := ih h.2
      cases lo with
      | none => exact tabSorted_none ht
      | some b =>
        have hb : b < q.1 := by simpa using h.1
        exact tabSorted_weaken ht (by omega)

theorem tabErase_eq_filter {α : Type} (t : Tab α) (n : Nat) : tabErase t n = t.filter fun p => p.1 ≠ n := by
  induction t with
  | nil => rfl
  | cons q t ih =>
    obtain ⟨k, v⟩ := q
    by_cases h : k = n <;> simp [tabErase, h, ih]

theorem tabSorted_cons {α : Type} {t : Tab α} {lo : Option Nat} {n : Nat} {x : α} (hn : ∀ b, lo = some b → b < n)
    (h : tabSorted (some n) t = true) : tabSorted lo ((n, x) :: t) = true := by
  cases lo with
  | none => simpa [tabSorted] using h
  | some b => simpa [tabSorted, hn b rfl] using h

theorem tabSorted_put {α : Type} {t : Tab α} {lo : Option Nat} {n : Nat} (x : α) (h : tabSorted lo t = true)
    (hn : ∀ b, lo = some b → b < n) : tabSorted lo (tabPut t n x) = true := by
  induction t generalizing lo with
  | nil => exact tabSorted_cons hn rfl
  | cons q t ih =>
    obtain ⟨k, v⟩ := q
    have hk : ∀ b, lo = some b → b < k := by rintro b rfl; exact tabSorted_lower h (k, v) (by simp)
    have ht : tabSorted (some k) t = true := by simp only [tabSorted, Bool.and_eq_true] at h; exact h.2
    simp only [tabPut]
    split
    · exact tabSorted_cons hn (tabSorted_cons (by rintro b ⟨⟩; omega) ht)
    · split
      · subst_vars
        exact tabSorted_cons hn ht
      · exact tabSorted_cons hk (ih ht (by rintro b ⟨⟩; omega))

theorem mem_tabPut {α : Type} {t : Tab α} {n : Nat} {x : α} {p : Nat × α} (h : p ∈ tabPut t n x) : p = (n, x) ∨ p ∈ t := by
  induction t with
  | nil => simpa [tabPut] using h
  | cons q t ih =>
    obtain ⟨k, v⟩ := q
    simp only [tabPut] at h
    split at h
    · simpa using h
    · split at h
      · rcases List.mem_cons.1 h with h | h <;> simp [h]
      · rcases List.mem_cons.1 h with h | h
        · simp [h]
        · rcases ih h with h | h <;> simp [h]

theorem tabWf_filter {α : Type} [DecidableEq α] {d : α} (f : Nat × α → Bool) {t : Tab α} (h : tabWf d t = true) :
    tabWf d (t.filter f) = true := by
  simp only [tabWf, Bool.and_eq_true, List.all_eq_true] at h ⊢
  exact ⟨tabSorted_filter f h.1, fun p hp => h.2 p (List.mem_filter.1 hp).1⟩

/-- Setting a value keeps the canonical form. -/
theorem tabWf_set {α : Type} [DecidableEq α] {d : α} {t : Tab α} (n : Nat) (x : α) (h : tabWf d t = true) :
    tabWf d (tabSet d t n x) = true := by
  unfold tabSet
  split
  · rw [tabErase_eq_filter]; exact tabWf_filter _ h
  · rename_i hx
    simp only [tabWf, Bool.and_eq_true, List.all_eq_true] at h ⊢
    refine ⟨tabSorted_put x h.1 (by simp), fun p hp => ?_⟩
    rcases mem_tabPut hp with rfl | hp
    · simpa using hx
    · exact h.2 p hp

/-- A table in canonical form is known by its values. -/
theorem tabGet_of_lower {α : Type} {d : α} {t : Tab α} {n : Nat} (h : ∀ p ∈ t, n < p.1) : tabGet d t n = d := by
  induction t with
  | nil => rfl
  | cons q t ih =>
    obtain ⟨k, v⟩ := q
    have hk : n < k := h (k, v) (by simp)
    simp only [tabGet]
    rw [if_neg (by omega)]
    exact ih fun p hp => h p (by simp [hp])

theorem tabWf_tail {α : Type} [DecidableEq α] {d : α} {q : Nat × α} {t : Tab α} (h : tabWf d (q :: t) = true) :
    tabWf d t = true ∧ (∀ p ∈ t, q.1 < p.1) ∧ q.2 ≠ d := by
  simp only [tabWf, tabSorted, Bool.and_eq_true, List.all_cons, decide_eq_true_eq] at h
  refine ⟨?_, tabSorted_lower h.1.2, h.2.1⟩
  simp only [tabWf, Bool.and_eq_true]
  exact ⟨tabSorted_none h.1.2, h.2.2⟩

theorem tab_ext {α : Type} [DecidableEq α] {d : α} {t u : Tab α} (ht : tabWf d t = true) (hu : tabWf d u = true)
    (h : ∀ n, tabGet d t n = tabGet d u n) : t = u := by
  induction t generalizing u with
  | nil =>
    cases u with
    | nil => rfl
    | cons q u => exact absurd (by simpa [tabGet] using (h q.1).symm) (tabWf_tail hu).2.2
  | cons p t ih =>
    cases u with
    | nil => exact absurd (by simpa [tabGet] using h p.1) (tabWf_tail ht).2.2
    | cons q u =>
      obtain ⟨k, v⟩ := p
      obtain ⟨l, w⟩ := q
      obtain ⟨ht1, ht2, ht3⟩ := tabWf_tail ht
      obtain ⟨hu1, hu2, hu3⟩ := tabWf_tail hu
      have hkl : k = l := by
        rcases Nat.lt_trichotomy k l with hlt | heq | hgt
        · have e := h k
          rw [tabGet, if_pos rfl, tabGet_of_lower (fun p hp => ?_)] at e
          · exact absurd e ht3
          · rcases List.mem_cons.1 hp with rfl | hp
            · exact hlt
            · exact Nat.lt_trans hlt (hu2 p hp)
        · exact heq
        · have e := h l
          rw [show tabGet d ((l, w) :: u) l = w by simp [tabGet], tabGet_of_lower (fun p hp => ?_)] at e
          · exact absurd e.symm hu3
          · rcases List.mem_cons.1 hp with rfl | hp
            · exact hgt
            · exact Nat.lt_trans hgt (ht2 p hp)
      subst hkl
      have hvw : v = w := by simpa [tabGet] using h k
      subst hvw
      rw [ih ht1 hu1]
      intro n
      by_cases hn : n = k
      · subst hn
        rw [tabGet_of_lower ht2, tabGet_of_lower hu2]
      · simpa [tabGet, Ne.symm hn] using h n

/-! ### Consecutive keys -/

theorem tabGet_from {α : Type} (d : α) (t : Tab α) {lo n : Nat} (h : lo ≤ n) : tabGet d (tabFrom t lo) n = tabGet d t n := by
  induction t with
  | nil => rfl
  | cons p t ih =>
    simp only [tabFrom] at ih
    by_cases hp : lo ≤ p.1
    · simp only [tabFrom, List.filter, hp, decide_true, tabGet, ih]
    · have : p.1 ≠ n := by omega
      simp only [tabFrom, List.filter, hp, decide_false, tabGet, if_neg this, ih]

theorem tabGet_below {α : Type} (d : α) (t : Tab α) {hi n : Nat} (h : n < hi) : tabGet d (tabBelow t hi) n = tabGet d t n := by
  induction t with
  | nil => rfl
  | cons p t ih =>
    simp only [tabBelow] at ih
    by_cases hp : p.1 < hi
    · simp only [tabBelow, List.filter, hp, decide_true, tabGet, ih]
    · have : p.1 ≠ n := by omega
      simp only [tabBelow, List.filter, hp, decide_false, tabGet, if_neg this, ih]

theorem tabGet_none {α : Type} {d : α} {t : Tab α} {n : Nat} (h : ∀ p ∈ t, p.1 ≠ n) : tabGet d t n = d := by
  induction t with
  | nil => rfl
  | cons p t ih =>
    rw [tabGet, if_neg (h p (List.mem_cons_self ..))]
    exact ih fun q hq => h q (List.mem_cons_of_mem _ hq)

theorem tabGet_append {α : Type} (d : α) (t u : Tab α) (n : Nat) : tabGet d (t ++ u) n = tabGet (tabGet d u n) t n := by
  induction t with
  | nil => rfl
  | cons p t ih => simp only [List.cons_append, tabGet, ih]

/-- Reading consecutive keys in one pass gives what reading each of them gives. -/
theorem tabWalk_eq {α : Type} (d : α) (n lo : Nat) (t : Tab α) (hs : tabSorted none t = true) (hl : ∀ p ∈ t, lo ≤ p.1) :
    tabWalk d n lo t = (List.range n).map fun i => tabGet d t (lo + i) := by
  induction n generalizing lo t with
  | zero => rfl
  | succ n ih =>
    rw [List.range_succ_eq_map, List.map_cons, List.map_map]
    have sh : ∀ u : Tab α, ((fun i => tabGet d u (lo + i)) ∘ Nat.succ) = fun i => tabGet d u (lo + 1 + i) := by
      intro u; funext i; simp only [Function.comp]; congr 1; omega
    cases t with
    | nil => rw [tabWalk, ih (lo + 1) [] rfl (by simp), sh]; rfl
    | cons p t =>
      have ht : tabSorted (some p.1) t = true := by simpa [tabSorted] using hs
      have hb := tabSorted_lower ht
      rw [tabWalk]
      by_cases hp : p.1 = lo
      · rw [if_pos hp, ih (lo + 1) t (tabSorted_none ht) (fun q hq => by have := hb q hq; omega), sh]
        congr 1
        · simp [tabGet, hp]
        · apply List.map_congr_left
          intro i _
          rw [tabGet, if_neg (by omega)]
      · have hlp := hl p (List.mem_cons_self ..)
        rw [if_neg hp, ih (lo + 1) (p :: t) hs, sh]
        · congr 1
          refine (tabGet_none fun q hq => ?_).symm
          rcases List.mem_cons.1 hq with rfl | hq
          · simpa using hp
          · have := hb q hq; simp only [Nat.add_zero]; omega
        · intro q hq
          rcases List.mem_cons.1 hq with rfl | hq
          · omega
          · have := hb q hq; omega

theorem tabDense_eq {α : Type} (d : α) (n lo : Nat) (t : Tab α) :
    tabDense d n lo t = (List.range n).map fun i => tabGet d t (lo + i) := by
  unfold tabDense
  dsimp only
  split
  · rename_i h
    rw [tabWalk_eq d n lo _ h (fun p hp => by simpa using (List.mem_filter.1 hp).2)]
    exact List.map_congr_left fun i _ => tabGet_from d t (by omega)
  · rfl

end Sys2Proof.Machine
end

