-- ==== Sys2Proof/Laws/State.lean ====
section
/-! SUPPORT. What each update of the state leaves in each field, and reading a unit after a unit has been written. -/

namespace Sys2Proof.Machine

variable (s : State) (c k : Nat)

/-! ### A context written -/

@[simp] theorem State.setCtx_cores (x : Ctx) : (s.setCtx c x).cores = s.cores := rfl
@[simp] theorem State.setCtx_clusters (x : Ctx) : (s.setCtx c x).clusters = s.clusters := rfl
@[simp] theorem State.setCtx_dev (x : Ctx) : (s.setCtx c x).dev = s.dev := rfl
@[simp] theorem State.setCtx_mem (x : Ctx) : (s.setCtx c x).mem = s.mem := rfl
@[simp] theorem State.setCtx_wlog (x : Ctx) : (s.setCtx c x).wlog = s.wlog := rfl
@[simp] theorem State.setCtx_red (x : Ctx) : (s.setCtx c x).red = s.red := rfl
@[simp] theorem State.setCtx_tlb (x : Ctx) : (s.setCtx c x).tlb = s.tlb := rfl
@[simp] theorem State.setCtx_fl (x : Ctx) : (s.setCtx c x).fl = s.fl := rfl
@[simp] theorem State.setCtx_agenda (x : Ctx) : (s.setCtx c x).agenda = s.agenda := rfl
@[simp] theorem State.setCtx_pace (x : Ctx) : (s.setCtx c x).pace = s.pace := rfl
@[simp] theorem State.setCtx_turns (x : Ctx) : (s.setCtx c x).turns = s.turns := rfl
@[simp] theorem State.setCtx_fresh (x : Ctx) : (s.setCtx c x).fresh = s.fresh := rfl
@[simp] theorem State.setCtx_portId (x : Ctx) : (s.setCtx c x).portId = s.portId := rfl
@[simp] theorem State.setCtx_walks (x : Ctx) : (s.setCtx c x).walks = s.walks := rfl
@[simp] theorem State.setCtx_now (x : Ctx) : (s.setCtx c x).now = s.now := rfl

/-! ### A core written -/

@[simp] theorem State.setCore_ctxs (x : Core) : (s.setCore k x).ctxs = s.ctxs := rfl
@[simp] theorem State.setCore_clusters (x : Core) : (s.setCore k x).clusters = s.clusters := rfl
@[simp] theorem State.setCore_dev (x : Core) : (s.setCore k x).dev = s.dev := rfl
@[simp] theorem State.setCore_mem (x : Core) : (s.setCore k x).mem = s.mem := rfl
@[simp] theorem State.setCore_wlog (x : Core) : (s.setCore k x).wlog = s.wlog := rfl
@[simp] theorem State.setCore_red (x : Core) : (s.setCore k x).red = s.red := rfl
@[simp] theorem State.setCore_tlb (x : Core) : (s.setCore k x).tlb = s.tlb := rfl
@[simp] theorem State.setCore_fl (x : Core) : (s.setCore k x).fl = s.fl := rfl
@[simp] theorem State.setCore_agenda (x : Core) : (s.setCore k x).agenda = s.agenda := rfl
@[simp] theorem State.setCore_pace (x : Core) : (s.setCore k x).pace = s.pace := rfl
@[simp] theorem State.setCore_turns (x : Core) : (s.setCore k x).turns = s.turns := rfl
@[simp] theorem State.setCore_fresh (x : Core) : (s.setCore k x).fresh = s.fresh := rfl
@[simp] theorem State.setCore_portId (x : Core) : (s.setCore k x).portId = s.portId := rfl
@[simp] theorem State.setCore_walks (x : Core) : (s.setCore k x).walks = s.walks := rfl
@[simp] theorem State.setCore_now (x : Core) : (s.setCore k x).now = s.now := rfl

/-! ### A cluster written -/

@[simp] theorem State.setCluster_ctxs (x : Cluster) : (s.setCluster k x).ctxs = s.ctxs := rfl
@[simp] theorem State.setCluster_cores (x : Cluster) : (s.setCluster k x).cores = s.cores := rfl
@[simp] theorem State.setCluster_dev (x : Cluster) : (s.setCluster k x).dev = s.dev := rfl
@[simp] theorem State.setCluster_mem (x : Cluster) : (s.setCluster k x).mem = s.mem := rfl
@[simp] theorem State.setCluster_wlog (x : Cluster) : (s.setCluster k x).wlog = s.wlog := rfl
@[simp] theorem State.setCluster_red (x : Cluster) : (s.setCluster k x).red = s.red := rfl
@[simp] theorem State.setCluster_tlb (x : Cluster) : (s.setCluster k x).tlb = s.tlb := rfl
@[simp] theorem State.setCluster_fl (x : Cluster) : (s.setCluster k x).fl = s.fl := rfl
@[simp] theorem State.setCluster_agenda (x : Cluster) : (s.setCluster k x).agenda = s.agenda := rfl
@[simp] theorem State.setCluster_pace (x : Cluster) : (s.setCluster k x).pace = s.pace := rfl
@[simp] theorem State.setCluster_turns (x : Cluster) : (s.setCluster k x).turns = s.turns := rfl
@[simp] theorem State.setCluster_fresh (x : Cluster) : (s.setCluster k x).fresh = s.fresh := rfl
@[simp] theorem State.setCluster_portId (x : Cluster) : (s.setCluster k x).portId = s.portId := rfl
@[simp] theorem State.setCluster_walks (x : Cluster) : (s.setCluster k x).walks = s.walks := rfl
@[simp] theorem State.setCluster_now (x : Cluster) : (s.setCluster k x).now = s.now := rfl

/-! ### The context of the flight written -/

@[simp] theorem State.setMe_cores (x : Ctx) : (s.setMe x).cores = s.cores := rfl
@[simp] theorem State.setMe_clusters (x : Ctx) : (s.setMe x).clusters = s.clusters := rfl
@[simp] theorem State.setMe_dev (x : Ctx) : (s.setMe x).dev = s.dev := rfl
@[simp] theorem State.setMe_mem (x : Ctx) : (s.setMe x).mem = s.mem := rfl
@[simp] theorem State.setMe_wlog (x : Ctx) : (s.setMe x).wlog = s.wlog := rfl
@[simp] theorem State.setMe_red (x : Ctx) : (s.setMe x).red = s.red := rfl
@[simp] theorem State.setMe_tlb (x : Ctx) : (s.setMe x).tlb = s.tlb := rfl
@[simp] theorem State.setMe_fl (x : Ctx) : (s.setMe x).fl = s.fl := rfl
@[simp] theorem State.setMe_agenda (x : Ctx) : (s.setMe x).agenda = s.agenda := rfl
@[simp] theorem State.setMe_pace (x : Ctx) : (s.setMe x).pace = s.pace := rfl
@[simp] theorem State.setMe_turns (x : Ctx) : (s.setMe x).turns = s.turns := rfl
@[simp] theorem State.setMe_fresh (x : Ctx) : (s.setMe x).fresh = s.fresh := rfl
@[simp] theorem State.setMe_portId (x : Ctx) : (s.setMe x).portId = s.portId := rfl
@[simp] theorem State.setMe_walks (x : Ctx) : (s.setMe x).walks = s.walks := rfl
@[simp] theorem State.setMe_now (x : Ctx) : (s.setMe x).now = s.now := rfl

/-! ### Its core written -/

@[simp] theorem State.setMine_ctxs (x : Core) : (s.setMine x).ctxs = s.ctxs := rfl
@[simp] theorem State.setMine_clusters (x : Core) : (s.setMine x).clusters = s.clusters := rfl
@[simp] theorem State.setMine_dev (x : Core) : (s.setMine x).dev = s.dev := rfl
@[simp] theorem State.setMine_mem (x : Core) : (s.setMine x).mem = s.mem := rfl
@[simp] theorem State.setMine_wlog (x : Core) : (s.setMine x).wlog = s.wlog := rfl
@[simp] theorem State.setMine_red (x : Core) : (s.setMine x).red = s.red := rfl
@[simp] theorem State.setMine_tlb (x : Core) : (s.setMine x).tlb = s.tlb := rfl
@[simp] theorem State.setMine_fl (x : Core) : (s.setMine x).fl = s.fl := rfl
@[simp] theorem State.setMine_agenda (x : Core) : (s.setMine x).agenda = s.agenda := rfl
@[simp] theorem State.setMine_pace (x : Core) : (s.setMine x).pace = s.pace := rfl
@[simp] theorem State.setMine_turns (x : Core) : (s.setMine x).turns = s.turns := rfl
@[simp] theorem State.setMine_fresh (x : Core) : (s.setMine x).fresh = s.fresh := rfl
@[simp] theorem State.setMine_portId (x : Core) : (s.setMine x).portId = s.portId := rfl
@[simp] theorem State.setMine_walks (x : Core) : (s.setMine x).walks = s.walks := rfl
@[simp] theorem State.setMine_now (x : Core) : (s.setMine x).now = s.now := rfl

/-! ### The flight ended -/

@[simp] theorem State.endFlight_ctxs : (s.endFlight).ctxs = s.ctxs := rfl
@[simp] theorem State.endFlight_cores : (s.endFlight).cores = s.cores := rfl
@[simp] theorem State.endFlight_clusters : (s.endFlight).clusters = s.clusters := rfl
@[simp] theorem State.endFlight_dev : (s.endFlight).dev = s.dev := rfl
@[simp] theorem State.endFlight_mem : (s.endFlight).mem = s.mem := rfl
@[simp] theorem State.endFlight_wlog : (s.endFlight).wlog = s.wlog := rfl
@[simp] theorem State.endFlight_red : (s.endFlight).red = s.red := rfl
@[simp] theorem State.endFlight_tlb : (s.endFlight).tlb = s.tlb := rfl
@[simp] theorem State.endFlight_agenda : (s.endFlight).agenda = s.agenda := rfl
@[simp] theorem State.endFlight_pace : (s.endFlight).pace = s.pace := rfl
@[simp] theorem State.endFlight_turns : (s.endFlight).turns = s.turns := rfl
@[simp] theorem State.endFlight_fresh : (s.endFlight).fresh = s.fresh := rfl
@[simp] theorem State.endFlight_portId : (s.endFlight).portId = s.portId := rfl
@[simp] theorem State.endFlight_walks : (s.endFlight).walks = s.walks := rfl
@[simp] theorem State.endFlight_now : (s.endFlight).now = s.now := rfl

/-! ### A slot made the one in flight -/

@[simp] theorem State.atSlot_ctxs : (s.atSlot k).ctxs = s.ctxs := rfl
@[simp] theorem State.atSlot_cores : (s.atSlot k).cores = s.cores := rfl
@[simp] theorem State.atSlot_clusters : (s.atSlot k).clusters = s.clusters := rfl
@[simp] theorem State.atSlot_dev : (s.atSlot k).dev = s.dev := rfl
@[simp] theorem State.atSlot_mem : (s.atSlot k).mem = s.mem := rfl
@[simp] theorem State.atSlot_wlog : (s.atSlot k).wlog = s.wlog := rfl
@[simp] theorem State.atSlot_red : (s.atSlot k).red = s.red := rfl
@[simp] theorem State.atSlot_tlb : (s.atSlot k).tlb = s.tlb := rfl
@[simp] theorem State.atSlot_agenda : (s.atSlot k).agenda = s.agenda := rfl
@[simp] theorem State.atSlot_pace : (s.atSlot k).pace = s.pace := rfl
@[simp] theorem State.atSlot_turns : (s.atSlot k).turns = s.turns := rfl
@[simp] theorem State.atSlot_fresh : (s.atSlot k).fresh = s.fresh := rfl
@[simp] theorem State.atSlot_portId : (s.atSlot k).portId = s.portId := rfl
@[simp] theorem State.atSlot_walks : (s.atSlot k).walks = s.walks := rfl
@[simp] theorem State.atSlot_now : (s.atSlot k).now = s.now := rfl

/-! ### A branch taken -/

@[simp] theorem State.goto_ctxs : (s.goto k).ctxs = s.ctxs := rfl
@[simp] theorem State.goto_cores : (s.goto k).cores = s.cores := rfl
@[simp] theorem State.goto_clusters : (s.goto k).clusters = s.clusters := rfl
@[simp] theorem State.goto_dev : (s.goto k).dev = s.dev := rfl
@[simp] theorem State.goto_mem : (s.goto k).mem = s.mem := rfl
@[simp] theorem State.goto_wlog : (s.goto k).wlog = s.wlog := rfl
@[simp] theorem State.goto_red : (s.goto k).red = s.red := rfl
@[simp] theorem State.goto_tlb : (s.goto k).tlb = s.tlb := rfl
@[simp] theorem State.goto_agenda : (s.goto k).agenda = s.agenda := rfl
@[simp] theorem State.goto_pace : (s.goto k).pace = s.pace := rfl
@[simp] theorem State.goto_turns : (s.goto k).turns = s.turns := rfl
@[simp] theorem State.goto_fresh : (s.goto k).fresh = s.fresh := rfl
@[simp] theorem State.goto_portId : (s.goto k).portId = s.portId := rfl
@[simp] theorem State.goto_walks : (s.goto k).walks = s.walks := rfl
@[simp] theorem State.goto_now : (s.goto k).now = s.now := rfl

/-! ### A write put on its way -/

@[simp] theorem State.write_cores (x : RegWrite) : (s.write x k).cores = s.cores := rfl
@[simp] theorem State.write_clusters (x : RegWrite) : (s.write x k).clusters = s.clusters := rfl
@[simp] theorem State.write_dev (x : RegWrite) : (s.write x k).dev = s.dev := rfl
@[simp] theorem State.write_mem (x : RegWrite) : (s.write x k).mem = s.mem := rfl
@[simp] theorem State.write_wlog (x : RegWrite) : (s.write x k).wlog = s.wlog := rfl
@[simp] theorem State.write_red (x : RegWrite) : (s.write x k).red = s.red := rfl
@[simp] theorem State.write_tlb (x : RegWrite) : (s.write x k).tlb = s.tlb := rfl
@[simp] theorem State.write_fl (x : RegWrite) : (s.write x k).fl = s.fl := rfl
@[simp] theorem State.write_agenda (x : RegWrite) : (s.write x k).agenda = s.agenda := rfl
@[simp] theorem State.write_pace (x : RegWrite) : (s.write x k).pace = s.pace := rfl
@[simp] theorem State.write_turns (x : RegWrite) : (s.write x k).turns = s.turns := rfl
@[simp] theorem State.write_fresh (x : RegWrite) : (s.write x k).fresh = s.fresh := rfl
@[simp] theorem State.write_portId (x : RegWrite) : (s.write x k).portId = s.portId := rfl
@[simp] theorem State.write_walks (x : RegWrite) : (s.write x k).walks = s.walks := rfl
@[simp] theorem State.write_now (x : RegWrite) : (s.write x k).now = s.now := rfl

/-! ### Units read back -/

@[simp] theorem State.ctx_setCtx (x : Ctx) : (s.setCtx c x).ctx c = x := by simp [State.ctx, State.setCtx]
@[simp] theorem State.ctx_setCtx_ne (x : Ctx) {d : Nat} (h : d ≠ c) : (s.setCtx c x).ctx d = s.ctx d := by
  simp [State.ctx, State.setCtx, h]
@[simp] theorem State.core_setCore (x : Core) : (s.setCore k x).core k = x := by simp [State.core, State.setCore]
@[simp] theorem State.core_setCore_ne (x : Core) {j : Nat} (h : j ≠ k) : (s.setCore k x).core j = s.core j := by
  simp [State.core, State.setCore, h]
@[simp] theorem State.cluster_setCluster (x : Cluster) : (s.setCluster k x).cluster k = x := by
  simp [State.cluster, State.setCluster]
@[simp] theorem State.cluster_setCluster_ne (x : Cluster) {j : Nat} (h : j ≠ k) : (s.setCluster k x).cluster j = s.cluster j := by
  simp [State.cluster, State.setCluster, h]
@[simp] theorem State.core_setCtx (x : Ctx) : (s.setCtx c x).core k = s.core k := rfl
@[simp] theorem State.cluster_setCtx (x : Ctx) : (s.setCtx c x).cluster k = s.cluster k := rfl
@[simp] theorem State.ctx_setCore (x : Core) : (s.setCore k x).ctx c = s.ctx c := rfl
@[simp] theorem State.cluster_setCore (x : Core) : (s.setCore c x).cluster k = s.cluster k := rfl
@[simp] theorem State.ctx_setCluster (x : Cluster) : (s.setCluster k x).ctx c = s.ctx c := rfl
@[simp] theorem State.core_setCluster (x : Cluster) : (s.setCluster c x).core k = s.core k := rfl
@[simp] theorem State.me_setMe (x : Ctx) : (s.setMe x).me = x := by simp [State.me, State.setMe]
@[simp] theorem State.mine_setMe (x : Ctx) : (s.setMe x).mine = s.mine := rfl
@[simp] theorem State.myCore_setMe (x : Ctx) : (s.setMe x).myCore = s.myCore := rfl
@[simp] theorem State.mine_setMine (x : Core) : (s.setMine x).mine = x := by simp [State.mine, State.setMine, State.myCore]
@[simp] theorem State.me_setMine (x : Core) : (s.setMine x).me = s.me := rfl
@[simp] theorem State.core_setMe (x : Ctx) : (s.setMe x).core k = s.core k := rfl
@[simp] theorem State.cluster_setMe (x : Ctx) : (s.setMe x).cluster k = s.cluster k := rfl
@[simp] theorem State.ctx_setMine (x : Core) : (s.setMine x).ctx c = s.ctx c := rfl
@[simp] theorem State.ctx_setMe_ne (x : Ctx) {d : Nat} (h : d ≠ s.fl.ctx) : (s.setMe x).ctx d = s.ctx d := by
  simp [State.setMe, h]
@[simp] theorem State.ctx_endFlight : s.endFlight.ctx c = s.ctx c := rfl
@[simp] theorem State.core_endFlight : s.endFlight.core k = s.core k := rfl
@[simp] theorem State.cluster_endFlight : s.endFlight.cluster k = s.cluster k := rfl
@[simp] theorem State.endFlight_live : s.endFlight.fl.live = false := rfl
@[simp] theorem State.ctx_atSlot : (s.atSlot k).ctx c = s.ctx c := rfl
@[simp] theorem State.me_atSlot : (s.atSlot k).me = s.me := rfl
@[simp] theorem State.atSlot_slot : (s.atSlot k).fl.slot = k := rfl
@[simp] theorem State.ctx_goto : (s.goto k).ctx c = s.ctx c := rfl
@[simp] theorem State.goto_target : (s.goto k).fl.target = some (k, false) := rfl

/-! ### A unit set twice holds what was set last -/

@[simp] theorem State.setCtx_setCtx (s : State) (c : Nat) (x y : Ctx) : (s.setCtx c x).setCtx c y = s.setCtx c y := by
  simp [State.setCtx]
@[simp] theorem State.setCore_setCore (s : State) (k : Nat) (x y : Core) : (s.setCore k x).setCore k y = s.setCore k y := by
  simp [State.setCore]
@[simp] theorem State.setCluster_setCluster (s : State) (k : Nat) (x y : Cluster) :
    (s.setCluster k x).setCluster k y = s.setCluster k y := by simp [State.setCluster]
@[simp] theorem State.setMe_setMe (s : State) (x y : Ctx) : (s.setMe x).setMe y = s.setMe y := by
  simp [State.setMe]
@[simp] theorem State.setMine_setMine (s : State) (x y : Core) : (s.setMine x).setMine y = s.setMine y := by
  simp [State.setMine, State.myCore]

end Sys2Proof.Machine
end

