-- ==== Sys2Proof/Laws/Mem.lean ====
section
/-! SUPPORT. Bytes of memory read after writes, and what the end of a meaning does to them (R5, R238; log entry 5). -/

namespace Sys2Proof.Machine

/-! ### The log of a step -/

theorem tabGet_commitLog (m : Tab Byte) (l : List (Nat × Byte)) (k : Nat) :
    tabGet 0 (commitLog m l) k = (logGet l k).getD (tabGet 0 m k) := by
  induction l with
  | nil => rfl
  | cons p l ih =>
    obtain ⟨j, b⟩ := p
    simp only [commitLog, logGet, tabGet_set, ih]
    by_cases h : j = k
    · simp [h]
    · simp [h, Ne.symm h]

theorem commitLog_wf {m : Tab Byte} (l : List (Nat × Byte)) (h : Memory.wf m = true) : Memory.wf (commitLog m l) = true := by
  induction l with
  | nil => exact h
  | cons p l ih => exact tabWf_set _ _ ih

@[simp] theorem commitLog_nil (m : Tab Byte) : commitLog m [] = m := rfl

theorem State.byte_clean {s : State} (h : s.wlog = []) (k : Nat) : s.byte k = tabGet 0 s.mem k := by
  simp [State.byte, h, logGet]

@[simp] theorem State.wakes_clean {s : State} (h : s.wlog = []) : s.wakes = [] := by simp [State.wakes, h]

/-! ### The end of a meaning -/

/-- A meaning that writes no memory answers its state as it stands. -/
theorem done_eq {s r : State} (hw : r.wlog = []) (hm : r.mem = s.mem) : done s r = .next r := by
  simp only [done, State.wakes_clean hw, hw, commitLog_nil, List.nil_append, ← hm]
  cases r
  cases hw
  rfl

theorem done_closed (s r : State) : done s r = .next (r.closed s) := rfl

theorem State.closed_byte {s r : State} (hm : r.mem = s.mem) (k : Nat) : (r.closed s).byte k = r.byte k := by
  simp only [State.closed, State.byte, logGet, Option.getD_none, hm]
  exact tabGet_commitLog s.mem r.wlog k

theorem State.closed_inv {s : State} (r : State) (h : s.Inv) : (r.closed s).Inv := ⟨commitLog_wf _ h.1, rfl⟩

/-- The end of a meaning keeps the invariant. -/
theorem done_inv {s r t : State} (h : s.Inv) (e : done s r = .next t) : t.Inv := by
  rw [done_closed] at e; cases e; exact State.closed_inv r h

/-! ### Writing bytes -/

theorem State.poke_eq (s : State) (k : Nat) (b : Byte) :
    s.poke k b = if s.drops k then s else { s with wlog := (k, b) :: s.wlog } := by
  unfold State.poke State.drops
  cases h : pmCoreOf k <;> simp

theorem State.poke_drops (s : State) (k : Nat) (b : Byte) (j : Nat) : (s.poke k b).drops j = s.drops j := by
  rw [State.poke_eq]; split <;> rfl

/-- A byte written is read back, and every other byte stays as it is. -/
theorem State.byte_poke (s : State) (k : Nat) (b : Byte) (j : Nat) :
    (s.poke k b).byte j = if j = k ∧ s.drops k = false then b else s.byte j := by
  rw [State.poke_eq]
  by_cases hd : s.drops k = true
  · simp [hd]
  · by_cases hj : j = k
    · simp [hd, hj, State.byte, logGet]
    · simp [hd, hj, State.byte, logGet, Ne.symm hj]

/-- Bytes that no cell of a list names stay as they are. -/
theorem State.byte_pokes_other (cells : List (Nat × Byte)) (s : State) (j : Nat) (h : j ∉ cells.map (·.1)) :
    (s.pokes cells).byte j = s.byte j := by
  induction cells generalizing s with
  | nil => rfl
  | cons p l ih =>
    simp only [List.map_cons, List.mem_cons, not_or] at h
    have := ih (s.poke p.1 p.2) h.2
    simp only [State.pokes, List.foldl_cons] at this ⊢
    rw [this, State.byte_poke]
    simp [h.1]

theorem State.pokes_drops (cells : List (Nat × Byte)) (s : State) (j : Nat) : (s.pokes cells).drops j = s.drops j := by
  induction cells generalizing s with
  | nil => rfl
  | cons p l ih =>
    have := ih (s.poke p.1 p.2)
    simp only [State.pokes, List.foldl_cons] at this ⊢
    rw [this, State.poke_drops]

theorem State.pokes_cons (s : State) (p : Nat × Byte) (l : List (Nat × Byte)) : s.pokes (p :: l) = (s.poke p.1 p.2).pokes l := rfl

/-- Cells with different keys are read back, where no write is dropped. -/
theorem State.byte_pokes_mem (cells : List (Nat × Byte)) (s : State) (hn : (cells.map (·.1)).Nodup) {k : Nat} {b : Byte}
    (hk : (k, b) ∈ cells) (hd : s.drops k = false) : (s.pokes cells).byte k = b := by
  induction cells generalizing s with
  | nil => simp at hk
  | cons p l ih =>
    rw [State.pokes_cons]
    simp only [List.map_cons, List.nodup_cons] at hn
    rcases List.mem_cons.1 hk with rfl | hk
    · rw [State.byte_pokes_other l _ _ hn.1, State.byte_poke]
      simp [hd]
    · exact ih (s.poke p.1 p.2) hn.2 hk (by rw [State.poke_drops]; exact hd)

theorem State.poke_frame (s : State) (k : Nat) (b : Byte) : ∃ l, s.poke k b = { s with wlog := l } := by
  rw [State.poke_eq]; split
  · exact ⟨s.wlog, rfl⟩
  · exact ⟨_, rfl⟩

/-- Writing bytes changes nothing but the log of the step. -/
theorem State.pokes_frame (cells : List (Nat × Byte)) (s : State) : ∃ l, s.pokes cells = { s with wlog := l } := by
  induction cells generalizing s with
  | nil => exact ⟨s.wlog, rfl⟩
  | cons p l ih =>
    obtain ⟨w, hw⟩ := s.poke_frame p.1 p.2
    obtain ⟨w', hw'⟩ := ih { s with wlog := w }
    exact ⟨w', by rw [State.pokes_cons, hw, hw']⟩

@[simp] theorem State.pokes_mem (s : State) (cells : List (Nat × Byte)) : (s.pokes cells).mem = s.mem := by
  obtain ⟨l, h⟩ := s.pokes_frame cells; rw [h]
@[simp] theorem State.pokes_ctx (s : State) (cells : List (Nat × Byte)) (c : Nat) : (s.pokes cells).ctx c = s.ctx c := by
  obtain ⟨l, h⟩ := s.pokes_frame cells; rw [h]; rfl
@[simp] theorem State.pokes_core (s : State) (cells : List (Nat × Byte)) (c : Nat) : (s.pokes cells).core c = s.core c := by
  obtain ⟨l, h⟩ := s.pokes_frame cells; rw [h]; rfl
@[simp] theorem State.pokes_dev (s : State) (cells : List (Nat × Byte)) : (s.pokes cells).dev = s.dev := by
  obtain ⟨l, h⟩ := s.pokes_frame cells; rw [h]
@[simp] theorem State.pokes_fl (s : State) (cells : List (Nat × Byte)) : (s.pokes cells).fl = s.fl := by
  obtain ⟨l, h⟩ := s.pokes_frame cells; rw [h]

end Sys2Proof.Machine
end

