-- ==== Sys2Proof/Laws/Ops.lean ====
section
/-! SUPPORT. One lemma per shared operation: operands, writes that retire later, and what a slot's meaning answers (R50, R54, R62,
R215). -/

namespace Sys2Proof.Machine

/-! ### Operands -/

theorem leNat_lt (l : List Byte) : leNat l < 256 ^ l.length := by
  induction l with
  | nil => simp [leNat]
  | cons b t ih =>
    have hb : b.toNat < 256 := b.isLt
    simp only [leNat, List.length_cons, Nat.pow_succ]
    omega

theorem frameNat_lt (f : Tab Byte) (off n : Nat) : frameNat f off n < 2 ^ (8 * n) := by
  rw [Nat.pow_mul]
  simpa [frameNat] using leNat_lt ((List.range n).map fun i => tabGet 0 f (off + i))

theorem toNat_frame (f : Tab Byte) (off n : Nat) : (BitVec.ofNat (8 * n) (frameNat f off n)).toNat = frameNat f off n := by
  rw [BitVec.toNat_ofNat, Nat.mod_eq_of_lt (frameNat_lt f off n)]

theorem State.opS_eq (s : State) (off : Nat) (r : BitVec 6) : s.opS off r.toNat = (s.sArg off r).toNat := by
  cases h : s.fl.cap with
  | none => simp only [State.opS, State.sArg, h]
  | some f =>
    simp only [State.opS, State.sArg, h]
    exact (toNat_frame f _ 8).symm

theorem State.opA_eq (s : State) (off : Nat) (r : BitVec 5) : s.opA off r.toNat = (s.aArg off r).toNat := by
  cases h : s.fl.cap with
  | none => simp only [State.opA, State.aArg, h]
  | some f =>
    simp only [State.opA, State.aArg, h]
    exact (toNat_frame f _ 8).symm

theorem State.opV_eq (s : State) (off : Nat) (r : BitVec 9) : s.opV off r.toNat = (s.vArg off r).toNat := by
  cases h : s.fl.cap with
  | none => simp only [State.opV, State.vArg, h]
  | some f =>
    simp only [State.opV, State.vArg, h]
    exact (toNat_frame f _ 128).symm

theorem State.opM_eq (s : State) (off : Nat) (r : BitVec 4) : s.opM off r.toNat = (s.mArg off r).toNat := by
  cases h : s.fl.cap with
  | none => simp only [State.opM, State.mArg, h]
  | some f =>
    simp only [State.opM, State.mArg, h]
    exact (toNat_frame f _ 16).symm

/-- Without a capture an operand is its register. -/
theorem State.sArg_reg {s : State} (h : s.fl.cap = none) (off : Nat) (r : BitVec 6) : s.sArg off r = s.me.sreg r.toNat := by
  simp [State.sArg, h]
theorem State.aArg_reg {s : State} (h : s.fl.cap = none) (off : Nat) (r : BitVec 5) : s.aArg off r = s.me.areg r.toNat := by
  simp [State.aArg, h]
theorem State.vArg_reg {s : State} (h : s.fl.cap = none) (off : Nat) (r : BitVec 9) : s.vArg off r = s.me.vreg r.toNat := by
  simp [State.vArg, h]
theorem State.mArg_reg {s : State} (h : s.fl.cap = none) (off : Nat) (r : BitVec 4) : s.mArg off r = s.me.mreg r.toNat := by
  simp [State.mArg, h]

/-! ### Writes on their way -/

/-- A write put on its way changes nothing but the context's list of them. -/
theorem State.write_eq (s : State) (w : RegWrite) (lat : Nat) :
    s.write w lat = s.setMe { s.me with
      pend := pendInsert { due := s.fl.t + lat, kind := .fixed, id := 0, got := true, ready := true, freeze := false, w := w } s.me.pend } := rfl

/-- A slot whose whole effect is a write on its way answers that state. -/
theorem done_write {s : State} (h : s.wlog = []) (w : RegWrite) (lat : Nat) : done s (s.write w lat) = .next (s.write w lat) :=
  done_eq (by simpa using h) rfl

/-- Flags merged at a commit write no memory. -/
theorem done_mergeSlot {s r : State} (h : r.wlog = []) (hm : r.mem = s.mem) (flags : Nat) :
    done s (r.mergeSlot flags) = .next (r.mergeSlot flags) := by
  apply done_eq
  · unfold State.mergeSlot; split <;> simp [h]
  · unfold State.mergeSlot; split <;> simp [hm]

theorem scalar2_spec {s : State} (h : s.wlog = []) (f : Nat → Nat → Nat) (lat : Nat) (d a b : BitVec 6) :
    scalar2 f lat d a b s =
      .next (s.write (.s d.toNat (BitVec.ofNat 64 (f (s.sArg 0 a).toNat (s.sArg 8 b).toNat))) lat) := by
  rw [scalar2, State.opS_eq, State.opS_eq]; exact done_write h _ _

theorem scalar1_spec {s : State} (h : s.wlog = []) (f : Nat → Nat) (d a : BitVec 6) :
    scalar1 f d a s = .next (s.write (.s d.toNat (BitVec.ofNat 64 (f (s.sArg 0 a).toNat))) 1) := by
  rw [scalar1, State.opS_eq]; exact done_write h _ _

/-- A two-operand instruction computes a function of words, if its numbers agree with it. -/
theorem scalar2_is {s : State} (h : s.wlog = []) {f : Nat → Nat → Nat} {g : Word64 → Word64 → Word64} {lat : Nat}
    {d a b : BitVec 6} (e : ∀ x y : Word64, BitVec.ofNat 64 (f x.toNat y.toNat) = g x y) :
    scalar2 f lat d a b s = .next (s.write (.s d.toNat (g (s.sArg 0 a) (s.sArg 8 b))) lat) := by
  rw [scalar2_spec h, e]

theorem scalar1_is {s : State} (h : s.wlog = []) {f : Nat → Nat} {g : Word64 → Word64} {d a : BitVec 6}
    (e : ∀ x : Word64, BitVec.ofNat 64 (f x.toNat) = g x) :
    scalar1 f d a s = .next (s.write (.s d.toNat (g (s.sArg 0 a))) 1) := by
  rw [scalar1_spec h, e]

/-! ### Integers of 64 bits -/

/-- Reading a field as two's complement is the signed value of its bit vector (R62). -/
theorem signExt_eq {w : Nat} (hw : 0 < w) (x : BitVec w) : signExt x.toNat w = x.toInt := by
  obtain ⟨v, rfl⟩ : ∃ v, w = v + 1 := ⟨w - 1, by omega⟩
  have hx := x.isLt
  have hp : 2 ^ (v + 1) = 2 * 2 ^ v := by rw [Nat.pow_succ]; omega
  have hpos : 0 < 2 ^ v := Nat.two_pow_pos v
  have hd : x.toNat / 2 ^ v < 2 := Nat.div_lt_of_lt_mul (by omega)
  have hm : x.toNat < 2 ^ v ↔ x.toNat / 2 ^ v = 0 := by
    rw [Nat.div_eq_zero_iff_lt hpos]
  unfold signExt bitOf
  simp only [Nat.mod_eq_of_lt hx, Nat.add_sub_cancel, beq_iff_eq]
  rw [BitVec.toInt_eq_toNat_cond]
  by_cases h : x.toNat < 2 ^ v
  · rw [hm.1 h, if_neg (by decide), if_pos (by omega)]
  · have h1 : x.toNat / 2 ^ v = 1 := by
      have h0 : x.toNat / 2 ^ v ≠ 0 := fun e => h (hm.2 e)
      generalize x.toNat / 2 ^ v = q at hd h0
      omega
    rw [h1, if_pos (by decide), if_neg (by omega)]
    norm_cast

theorem int64_eq (x : Word64) : int64 x.toNat = x.toInt := signExt_eq (by decide) x

theorem ofNat_wrap64 (i : Int) : BitVec.ofNat 64 (wrap64 i) = BitVec.ofInt 64 i := by
  apply BitVec.eq_of_toNat_eq
  have h0 : 0 ≤ i % 2 ^ 64 := Int.emod_nonneg _ (by decide)
  have h1 : i % 2 ^ 64 < 2 ^ 64 := Int.emod_lt_of_pos _ (by decide)
  simp only [wrap64, wrapInt, BitVec.toNat_ofNat, BitVec.toNat_ofInt]
  rw [Nat.mod_eq_of_lt (by omega)]
  rfl

end Sys2Proof.Machine
end

