-- ==== Sys2Proof/Laws/Step.lean ====
section
/-! SUPPORT. What a meaning can answer: the state it began with, its logged writes made, or a start; and what follows for the
invariant of the machine. -/

namespace Sys2Proof.Machine

/-- Every meaning ends by making its logged writes, but for a start, which builds the machine anew. -/
theorem exec_ends (i : Instr) (s : State) :
    (∃ u, exec i s = done s u) ∨ ∃ r gone image fresh, exec i s = .next (s.restart r gone image fresh) := by
  cases i
  case startModule => exact .inr ⟨_, _, _, _, rfl⟩
  case wait f cnt =>
    refine .inl ?_
    show ∃ u, execWait f cnt s = done s u
    unfold execWait; split <;> exact ⟨_, rfl⟩
  case cbar bid =>
    refine .inl ?_
    show ∃ u, execCbar bid s = done s u
    unfold execCbar; split <;> exact ⟨_, rfl⟩
  all_goals exact .inl ⟨_, rfl⟩

/-- A start keeps the bytes of HBM, STM and host memory, in canonical form. -/
theorem State.restart_inv {s : State} (h : s.Inv) (r gone image fresh) : (s.restart r gone image fresh).Inv :=
  ⟨tabWf_filter _ h.1, rfl⟩

/-- Every meaning keeps the invariant. -/
theorem exec_inv {i : Instr} {s t : State} (h : s.Inv) (e : exec i s = .next t) : t.Inv := by
  rcases exec_ends i s with ⟨u, hu⟩ | ⟨r, g, im, f, hr⟩
  · exact done_inv h (hu ▸ e)
  · rw [hr] at e; cases e; exact State.restart_inv h r g im f

/-- The invariant speaks of memory and the log alone. -/
theorem Inv_of_same {s t : State} (h : s.Inv) (hm : t.mem = s.mem) (hw : t.wlog = s.wlog) : t.Inv :=
  ⟨hm ▸ h.1, hw ▸ h.2⟩

end Sys2Proof.Machine
end

