-- ==== Sys2Proof/Laws/Frame.lean ====
section
/-! SUPPORT. What performing an access and taking an exception leave alone: the bundle in flight, and memory as the step found it, since
every write goes into the log of the step (R258; log entry 5). -/

namespace Sys2Proof.Machine

/-- A context but for its port, the writes on their way and the causes of its next boundary. -/
def Ctx.still (x : Ctx) : Ctx := { x with pend := [], port := [], boundary := [] }

/-- A core but for its L1 and the increments on their way to its flags. -/
def Core.still (k : Core) : Core := { k with l1 := [], incs := [] }

/-- What performing accesses leaves alone: the bundle in flight, memory as the step found it, and all of contexts and cores but their ports,
the data of loads, causes of writes that fail, lines in L1 and increments posted. -/
structure Performs (s t : State) : Prop where
  fl : t.fl = s.fl
  mem : t.mem = s.mem
  ctx : ∀ c, (t.ctx c).still = (s.ctx c).still
  core : ∀ k, (t.core k).still = (s.core k).still

namespace Performs

variable {s t u : State}

theorem refl : Performs s s := ⟨rfl, rfl, fun _ => rfl, fun _ => rfl⟩
theorem trans (a : Performs s t) (b : Performs t u) : Performs s u :=
  ⟨b.fl.trans a.fl, b.mem.trans a.mem, fun c => (b.ctx c).trans (a.ctx c), fun k => (b.core k).trans (a.core k)⟩
theorem ite {c : Prop} [Decidable c] (a : Performs s t) (b : Performs s u) : Performs s (if c then t else u) := by split <;> assumption
theorem of (a : t.fl = s.fl) (b : t.mem = s.mem) (c : t.ctxs = s.ctxs) (d : t.cores = s.cores) : Performs s t :=
  ⟨a, b, fun n => by simp only [State.ctx, c], fun n => by simp only [State.core, d]⟩

theorem foldl {α : Type} {f : State → α → State} (h : ∀ s a, Performs s (f s a)) (l : List α) (s : State) :
    Performs s (l.foldl f s) := by
  induction l generalizing s with
  | nil => exact refl
  | cons a l ih => exact (h s a).trans (ih _)

theorem setCtx (s : State) (c x) (h : x.still = (s.ctx c).still) : Performs s (s.setCtx c x) :=
  ⟨rfl, rfl, fun d => by by_cases e : d = c <;> simp [e, h], fun _ => rfl⟩
theorem setCore (s : State) (k x) (h : x.still = (s.core k).still) : Performs s (s.setCore k x) :=
  ⟨rfl, rfl, fun _ => rfl, fun d => by by_cases e : d = k <;> simp [e, h]⟩

/-! ### Units and memory -/

theorem setLink (s : State) (c x) : Performs s (s.setLink c x) := .of rfl rfl rfl rfl
theorem poke (s : State) (k b) : Performs s (s.poke k b) := by
  obtain ⟨l, h⟩ := s.poke_frame k b; rw [h]; exact .of rfl rfl rfl rfl
theorem pokes (s : State) (l) : Performs s (s.pokes l) := by
  unfold State.pokes; exact foldl (f := fun s (c : Nat × Byte) => s.poke c.1 c.2) (fun s c => poke s c.1 c.2) l s
theorem countSubst (s : State) (c n) : Performs s (s.countSubst c n) := by
  unfold State.countSubst; split <;> exact .of rfl rfl rfl rfl
theorem unpoison (s : State) (k) : Performs s (s.unpoison k) := by
  unfold State.unpoison; split <;> exact .of rfl rfl rfl rfl
theorem sendHost (s : State) (r k) : Performs s (s.sendHost r k) := by
  unfold State.sendHost; dsimp only; split <;> exact .of rfl rfl rfl rfl
theorem askHost (s : State) (k) : Performs s (s.askHost k) := by
  unfold State.askHost; dsimp only; split <;> exact .of rfl rfl rfl rfl
theorem refreshCopies (s : State) (c k) : Performs s (s.refreshCopies c k) := by
  unfold State.refreshCopies; refine foldl (fun s o => ?_) _ s; dsimp only; split
  · exact refl
  · exact setCore _ _ _ rfl
theorem putIn (s : State) (e : RedEntry) (x) : Performs s (e.putIn x s) := by
  unfold RedEntry.putIn
  exact (pokes _ _).trans ((foldl (fun s k => refreshCopies s k _) _ _).trans (sendHost _ _ _))
theorem drainEntry (s : State) (e) : Performs s (drainEntry s e) := by
  unfold Sys2Proof.Machine.drainEntry; dsimp only; split
  · exact putIn _ _ _
  · exact ((countSubst _ _ _).trans (putIn _ _ _)).trans (unpoison _ _)
  · exact refl
theorem drainRed (s : State) (p) : Performs s (s.drainRed p) := by
  unfold State.drainRed; split
  · exact refl
  · exact (foldl drainEntry _ s).trans (.of rfl rfl rfl rfl)
theorem touch (s : State) (k) : Performs s (s.touch k) := by
  unfold State.touch; split
  · exact refl
  · exact drainRed _ _
theorem drainOf (s : State) (c) : Performs s (s.drainOf c) := drainRed _ _
theorem demotePage (s : State) (t) : Performs s (s.demotePage t) := by
  unfold State.demotePage
  refine (poke s t.entry _).trans ⟨rfl, rfl, fun c => ?_, fun _ => rfl⟩
  simp only [State.ctx]
  rw [tabGet_map Ctx.init (Ctx.home t) rfl]
  rfl
theorem demote (s : State) (v k) : Performs s (s.demote v k) := by
  unfold State.demote
  refine foldl (fun s t => ?_) _ s
  split
  · exact demotePage _ _
  · exact refl
theorem storeCells (s : State) (k) : Performs s (s.storeCells k) := ((touch _ _).trans (unpoison _ _)).trans (pokes _ _)
theorem storeVia (s : State) (v k r) : Performs s (s.storeVia v k r) := ((demote _ _ _).trans (storeCells _ _)).trans (sendHost _ _ _)

/-! ### Lines in L1 -/

theorem fillLine (s : State) (c l) : Performs s (s.fillLine c l) := by
  unfold State.fillLine; dsimp only; split
  · exact refl
  · split
    · exact setCore _ _ _ rfl
    · exact trans (.of rfl rfl rfl rfl : Performs s { s with fresh := s.fresh + 1 }) (setCore _ _ _ rfl)
theorem fillLines (s : State) (c k) : Performs s (s.fillLines c k) := foldl (fun s l => fillLine s c l) _ s
theorem dropLines (s : State) (c) : Performs s (s.dropLines c) := by
  unfold State.dropLines State.dropCopies; refine foldl (fun s o => ?_) _ s; dsimp only; split
  · exact refl
  · exact setCore _ _ _ rfl

/-! ### Translations -/

theorem hold (s : State) (t n p) : Performs s (s.hold t n p) := by
  unfold State.hold; dsimp only; split
  · exact refl
  · split <;> exact .of rfl rfl rfl rfl
theorem keepPath (s : State) (d l) : Performs s (s.keepPath d l) := by
  unfold State.keepPath
  refine foldl (fun s p => ?_) _ s
  dsimp only; split
  · exact refl
  · split <;> exact .of rfl rfl rfl rfl
theorem cacheHost (s : State) (t) : Performs s (s.cacheHost t) := by
  unfold State.cacheHost; dsimp only; split
  · exact refl
  · split <;> exact .of rfl rfl rfl rfl
theorem fill (s : State) (t) : Performs s (s.fill t) := by
  unfold State.fill; dsimp only; split
  · exact (cacheHost _ _).trans (touch _ _)
  · exact ((((cacheHost _ _).trans (touch _ _)).trans (hold _ _ _ _)).trans (hold _ _ _ _)).trans (keepPath _ _ _)
theorem fills (s : State) (l) : Performs s (s.fills l) := foldl fill l s

/-! ### Accesses that perform -/

theorem joinRed (s : State) (n) : Performs s (s.joinRed n) := by
  unfold State.joinRed; dsimp only; split
  · exact .of rfl rfl rfl rfl
  · split
    · exact .of rfl rfl rfl rfl
    · exact (drainRed _ _).trans (.of rfl rfl rfl rfl)
theorem addRed (s : State) (a b c d e f g h i) : Performs s (s.addRed a b c d e f g h i) := ite refl (joinRed _ _)
theorem sendInc (s : State) (a b) : Performs s (s.sendInc a b) := setCore _ _ _ rfl
theorem crossOne (s : State) (l w) : Performs s (s.crossOne l w) := .of rfl rfl rfl rfl
theorem cross (s : State) (d k w) : Performs s (s.cross d k w) := by
  unfold State.cross; exact foldl (fun s l => crossOne s l _) _ s
theorem meet (s : State) (c i l) : Performs s (s.meet c i l) := by
  unfold State.meet; dsimp only; split
  · exact ((askHost _ _).trans (countSubst _ _ _)).trans (dropLines _ _)
  · exact (askHost _ _).trans (countSubst _ _ _)
theorem bump (s : State) (n : Nat) : Performs s { s with fresh := n } := .of rfl rfl rfl rfl
theorem landLoad (s : State) (c i l b) : Performs s (s.landLoad c i l b) := by
  unfold State.landLoad; dsimp only
  exact (ite (bump _ _) refl).trans ((ite refl (fillLines _ _ _)).trans (setCtx _ _ _ rfl))
theorem landStore (s : State) (c i l) : Performs s (s.landStore c i l) := (storeVia _ _ _ _).trans (refreshCopies _ _ _)
theorem failWrite (s : State) (c i k) : Performs s (s.failWrite c i k) := setCtx _ _ _ rfl
theorem perform (s : State) (c i) : Performs s (s.perform c i) := by
  unfold State.perform; dsimp only
  have h : Performs s (if i.rel = true then s.drainOf c else s) := ite (drainOf _ _) refl
  generalize (if i.rel = true then s.drainOf c else s) = u at h ⊢
  refine h.trans ?_
  split
  · split
    · exact (touch _ _).trans (setCtx _ _ _ rfl)
    · exact (touch _ _).trans ((meet _ _ _ _).trans (landLoad _ _ _ _ _))
  · split
    · exact failWrite _ _ _ _
    · exact landStore _ _ _ _
  · split
    · exact (touch _ _).trans (setCtx _ _ _ rfl)
    · exact (touch _ _).trans ((meet _ _ _ _).trans ((landStore _ _ _ _).trans (setCtx _ _ _ rfl)))
  · split
    · exact failWrite _ _ _ _
    · exact (demote _ _ _).trans (addRed _ _ _ _ _ _ _ _ _ _)
  · exact drainOf _ _
  · exact (ite refl (bump _ _)).trans (sendInc _ _ _)
theorem performAt (s : State) (c n) : Performs s (s.performAt c n) := by
  unfold State.performAt; dsimp only; split
  · exact refl
  · split
    · refine (Performs.setCtx s c _ ?_).trans ((cross _ _ _ _).trans (perform _ _ _))
      rfl
    · exact refl
theorem force (n : Nat) (s : State) (c id) : Performs s (s.force n c id) := by
  induction n generalizing s c id with
  | zero => exact refl
  | succ n ih =>
    unfold State.force; split
    · exact refl
    · rename_i m _
      dsimp only
      refine (foldl (fun s i => ih s c i.id) ((s.ctx c).port.take m) s).trans ?_
      generalize ((s.ctx c).port.take m).foldl (fun s i => State.force n s c i.id) s = t
      have own : Performs t (if (s.ctx c).port[m]?.map (·.own) = some true then
          ((t.ownItems (coreOf c)).filter fun p => p.1 < id && p.2 != c).foldl (fun s p => State.force n s p.2 p.1) t else t) :=
        ite (foldl (fun s (p : Nat × Nat) => ih s p.2 p.1) _ _) refl
      revert own
      generalize (if (s.ctx c).port[m]?.map (·.own) = some true then
          ((t.ownItems (coreOf c)).filter fun p => p.1 < id && p.2 != c).foldl (fun s p => State.force n s p.2 p.1) t else t) = u
      intro own
      refine own.trans ?_
      split
      · exact refl
      · exact performAt _ _ _
theorem performThrough (s : State) (c id) : Performs s (s.performThrough c id) := force _ _ _ _
theorem performAll (s : State) (c) : Performs s (s.performAll c) := foldl (fun s id => performThrough s c id) _ s
theorem performFirst (s : State) (c n) : Performs s (s.performFirst c n) := by
  induction n generalizing s with
  | zero => exact refl
  | succ n ih => unfold State.performFirst; exact ite ((performAt _ _ _).trans (ih _)) refl
theorem settle (s : State) (c) : Performs s (s.settle c) := performFirst _ _ _

/-! ### The capture of a split -/

theorem setMe (s : State) (x) (h : x.still = s.me.still) : Performs s (s.setMe x) := setCtx _ _ _ h
theorem enqueue (s : State) (a b c d e f g h i) : Performs s (s.enqueue a b c d e f g h i) :=
  trans (.of rfl rfl rfl rfl : Performs s { s with portId := s.portId + 1 }) (setMe _ _ rfl)
theorem readNow (s : State) (c l) : Performs s (s.readNow c l).1 := by
  unfold State.readNow; dsimp only
  refine (trans (.of rfl rfl rfl rfl : Performs s { s with portId := s.portId + 1 }) (setCtx _ c _ ?_)).trans
    ((performThrough _ _ _).trans (setCtx _ _ _ ?_)) <;> rfl
theorem takeLoads (c : Nat) (ls) (r : State × Tab Byte) : Performs r.1 (State.takeLoads c ls r).1 := by
  induction ls generalizing r with
  | nil => exact refl
  | cons l t ih =>
    unfold State.takeLoads
    have k := readNow r.1 c l
    split <;> rename_i h <;> rw [h] at k
    · exact k.trans (ih (_, r.2))
    · exact k.trans (ih (_, r.2))
    · exact k.trans (ih (_, putLoad r.2 l.base l.nr l.srcs _))
theorem capture (s : State) : Performs s s.capture.1 := by
  unfold State.capture; exact takeLoads s.fl.ctx _ (s, _)

theorem writeVirtual {s t : State} {sp d va bs r} (h : writeVirtual s sp d va bs r = .ok t) : Performs s t := by
  unfold Sys2Proof.Machine.writeVirtual at h; split at h
  · cases h
  · dsimp only at h; split at h
    · cases h
    · cases h
      exact ((fills _ _).trans (storeVia _ _ _ _)).trans (ite (refreshCopies _ _ _) refl)

theorem trapm (h : Performs s t) (c) : (t.ctx c).trapm = (s.ctx c).trapm := by simpa [Ctx.still] using congrArg Ctx.trapm (h.ctx c)
theorem settling (h : Performs s t) (c) : (t.ctx c).settling = (s.ctx c).settling := by
  simpa [Ctx.still] using congrArg Ctx.settling (h.ctx c)
theorem cyc (h : Performs s t) (k) : (t.core k).cyc = (s.core k).cyc := by simpa [Core.still] using congrArg Core.cyc (h.core k)

end Performs

/-- The bundle in flight and memory as the step found it stay as they are. -/
structure Keeps (s t : State) : Prop where
  fl : t.fl = s.fl
  mem : t.mem = s.mem

theorem Performs.keeps {s t : State} (h : Performs s t) : Keeps s t := ⟨h.fl, h.mem⟩

namespace Keeps

variable {s t u : State}

theorem refl : Keeps s s := ⟨rfl, rfl⟩
theorem trans (a : Keeps s t) (b : Keeps t u) : Keeps s u := ⟨b.fl.trans a.fl, b.mem.trans a.mem⟩
theorem ite {c : Prop} [Decidable c] (a : Keeps s t) (b : Keeps s u) : Keeps s (if c then t else u) := by split <;> assumption

theorem foldl {α : Type} {f : State → α → State} (h : ∀ s a, Keeps s (f s a)) (l : List α) (s : State) : Keeps s (l.foldl f s) := by
  induction l generalizing s with
  | nil => exact refl
  | cons a l ih => exact (h s a).trans (ih _)

theorem setCtx (s : State) (c x) : Keeps s (s.setCtx c x) := ⟨rfl, rfl⟩
theorem setCore (s : State) (c x) : Keeps s (s.setCore c x) := ⟨rfl, rfl⟩
theorem fills (s : State) (l) : Keeps s (s.fills l) := (Performs.fills _ _).keeps
theorem storeVia (s : State) (v k r) : Keeps s (s.storeVia v k r) := (Performs.storeVia _ _ _ _).keeps
theorem refreshCopies (s : State) (c k) : Keeps s (s.refreshCopies c k) := (Performs.refreshCopies _ _ _).keeps
theorem performAll (s : State) (c) : Keeps s (s.performAll c) := (Performs.performAll _ _).keeps

/-! ### Records and exceptions -/

theorem writeVirtual {s t : State} {sp d va bs r} (h : writeVirtual s sp d va bs r = .ok t) : Keeps s t := (Performs.writeVirtual h).keeps
theorem signal (s : State) (e n) : Keeps s (s.signal e n) := by
  unfold State.signal; split
  · exact ⟨rfl, rfl⟩
  · exact refl
theorem writeOutcome (s : State) (n) : Keeps s (s.writeOutcome n) := by
  unfold State.writeOutcome; dsimp only; split
  · exact writeVirtual ‹_›
  · exact refl
theorem countTrap (s : State) (n f) : Keeps s (s.countTrap n f) := ⟨rfl, rfl⟩
theorem dropRecord (s : State) (a b c d) : Keeps s (s.dropRecord a b c d) := (countTrap _ _ _).trans (storeVia _ _ _ _)
theorem sayRecord (s : State) (a b c d) : Keeps s (s.sayRecord a b c d) := ((countTrap _ _ _).trans (storeVia _ _ _ _)).trans (signal _ _ _)
theorem writeTrap (s : State) (a b c r) : Keeps s (s.writeTrap a b c r).1 := by
  unfold State.writeTrap; dsimp only; split
  · exact ⟨rfl, rfl⟩
  · generalize (classOf r.code == 2) = fatal
    generalize (if fatal = true then 256 else 255) = room
    split
    · exact (fills _ _).trans (dropRecord _ _ _ _ _)
    · split
      · exact (fills _ _).trans (dropRecord _ _ _ _ _)
      · exact ((fills _ _).trans (fills _ _)).trans ((storeVia _ _ _ _).trans ((sayRecord _ _ _ _ _).trans (ite (writeOutcome _ _) refl)))
theorem retireAll (s : State) (c) : Keeps s (s.retireAll c) := (performAll _ _).trans ⟨rfl, rfl⟩
theorem freeze (s : State) (c) : Keeps s (s.freeze c) := foldl (fun s k => setCore s k _) _ s
theorem killQueue (s : State) (c) : Keeps s (s.killQueue c) := by
  unfold State.killQueue; split <;> exact ⟨rfl, rfl⟩
theorem cancelWaits (s : State) (c) : Keeps s (s.cancelWaits c) := ⟨rfl, rfl⟩
theorem kill (s : State) (c) : Keeps s (s.kill c) := by
  unfold State.kill; dsimp only
  exact (setCtx s c _).trans ((cancelWaits _ _).trans ((freeze _ _).trans (killQueue _ _)))
theorem returnWork (s : State) (c) : Keeps s (s.returnWork c) := by
  unfold State.returnWork; dsimp only; split <;> exact ⟨rfl, rfl⟩
theorem takeFatal (s : State) (c p) : Keeps s (s.takeFatal c p) := by
  unfold State.takeFatal; dsimp only
  exact ((returnWork _ _).trans (freeze _ _)).trans ((writeTrap _ _ _ _ _).trans (kill _ _))
theorem tellPark (s : State) (c a p) : Keeps s (s.tellPark c a p).1 := by
  unfold State.tellPark; dsimp only; split
  · exact refl
  · split
    · exact refl
    · exact writeTrap _ _ _ _ _
theorem takeReplayable (s : State) (c p) : Keeps s (s.takeReplayable c p) :=
  ((retireAll _ _).trans (returnWork _ _)).trans ((tellPark _ _ _ _).trans (setCtx _ _ _))
theorem takeProgram (s : State) (c p) : Keeps s (s.takeProgram c p) := by
  unfold State.takeProgram; dsimp only; split
  · exact takeFatal _ _ _
  · split
    · exact ((retireAll _ _).trans (returnWork _ _)).trans (takeFatal _ _ _)
    · exact ((retireAll _ _).trans (returnWork _ _)).trans ((writeVirtual ‹_›).trans (setCtx _ _ _))
theorem takeFault (s : State) (c p) : Keeps s (s.takeFault c p) := by
  unfold State.takeFault; split
  · exact takeProgram _ _ _
  · exact takeReplayable _ _ _
  · exact takeFatal _ _ _

end Keeps

@[simp] theorem performAll_fl (s : State) (c) : (s.performAll c).fl = s.fl := (Keeps.performAll s c).fl
@[simp] theorem performAll_mem (s : State) (c) : (s.performAll c).mem = s.mem := (Keeps.performAll s c).mem
@[simp] theorem touch_fl (s : State) (k) : (s.touch k).fl = s.fl := (Performs.touch s k).fl
@[simp] theorem touch_mem (s : State) (k) : (s.touch k).mem = s.mem := (Performs.touch s k).mem
@[simp] theorem storeCells_fl (s : State) (k) : (s.storeCells k).fl = s.fl := (Performs.storeCells s k).fl
@[simp] theorem storeCells_mem (s : State) (k) : (s.storeCells k).mem = s.mem := (Performs.storeCells s k).mem
@[simp] theorem perform_fl (s : State) (c i) : (s.perform c i).fl = s.fl := (Performs.perform s c i).fl
@[simp] theorem perform_mem (s : State) (c i) : (s.perform c i).mem = s.mem := (Performs.perform s c i).mem
@[simp] theorem fills_fl (s : State) (l) : (s.fills l).fl = s.fl := (Keeps.fills s l).fl
@[simp] theorem fills_mem (s : State) (l) : (s.fills l).mem = s.mem := (Keeps.fills s l).mem
@[simp] theorem retireAll_fl (s : State) (c) : (s.retireAll c).fl = s.fl := (Keeps.retireAll s c).fl
@[simp] theorem retireAll_mem (s : State) (c) : (s.retireAll c).mem = s.mem := (Keeps.retireAll s c).mem
@[simp] theorem writeTrap_fl (s : State) (a b c r) : (s.writeTrap a b c r).1.fl = s.fl := (Keeps.writeTrap s a b c r).fl
@[simp] theorem writeTrap_mem (s : State) (a b c r) : (s.writeTrap a b c r).1.mem = s.mem := (Keeps.writeTrap s a b c r).mem
@[simp] theorem takeFault_fl (s : State) (c p) : (s.takeFault c p).fl = s.fl := (Keeps.takeFault s c p).fl
@[simp] theorem takeFault_mem (s : State) (c p) : (s.takeFault c p).mem = s.mem := (Keeps.takeFault s c p).mem

/-- A split takes its fault at once, or leaves it waiting for the loads of its capture. -/
theorem split_shape (r : State × Tab Byte × List TrapLoad) (c : Nat) (p : Split) :
    (∃ q, State.split r c p = (r.1.endFlight).takeFault c q) ∨ ∃ x, State.split r c p = (r.1.endFlight).setCtx c x := by
  unfold State.split; dsimp only; split
  · exact .inl ⟨_, rfl⟩
  · exact .inr ⟨_, rfl⟩

theorem slotFault_shape (s : State) (a b c d e) : ∃ r, Keeps s r ∧ ((∃ p, s.slotFault a b c d e = (r.endFlight).takeFault s.fl.ctx p)
    ∨ ∃ x, s.slotFault a b c d e = (r.endFlight).setCtx s.fl.ctx x) := by
  unfold State.slotFault; dsimp only
  split
  · exact ⟨_, (Performs.capture s).keeps, split_shape _ _ _⟩
  · exact ⟨s, Keeps.refl, split_shape _ _ _⟩

/-- A fault of a slot ends the flight, and writes go into the log alone. -/
@[simp] theorem slotFault_live (s : State) (a b c d e) : (s.slotFault a b c d e).fl.live = false := by
  obtain ⟨r, -, ⟨p, h⟩ | ⟨x, h⟩⟩ := slotFault_shape s a b c d e <;> rw [h] <;> simp
@[simp] theorem slotFault_mem (s : State) (a b c d e) : (s.slotFault a b c d e).mem = s.mem := by
  obtain ⟨r, k, ⟨p, h⟩ | ⟨x, h⟩⟩ := slotFault_shape s a b c d e <;> rw [h] <;> simp [k.mem]
@[simp] theorem illegal_live (s : State) (m) : (s.illegal m).fl.live = false := by
  unfold State.illegal; simp
@[simp] theorem illegal_mem (s : State) (m) : (s.illegal m).mem = s.mem := by
  unfold State.illegal; simp

end Sys2Proof.Machine
end

