-- ==== Sys2Proof/Laws/Port.lean ====
section
/-! SUPPORT. What the shared operations of the MEM and CTRL slots do: entering the memory port, filling translations, expecting
landings, the wrapped address sums, and the loop stack. -/

namespace Sys2Proof.Machine

/-! ### The memory port -/

theorem portInsert_spec (i : PortItem) (l : List PortItem) : ∃ before after, l = before ++ after ∧ portInsert i l = before ++ i :: after
    ∧ (∀ x ∈ before, ¬(x.bundle = i.bundle ∧ i.rank < x.rank)) ∧ ∀ x ∈ after.head?, x.bundle = i.bundle ∧ i.rank < x.rank := by
  induction l with
  | nil => exact ⟨[], [], by simp [portInsert]⟩
  | cons x t ih =>
    by_cases h : x.bundle = i.bundle ∧ i.rank < x.rank
    · exact ⟨[], x :: t, by simp [portInsert, h]⟩
    · obtain ⟨b, a, rfl, e, h1, h2⟩ := ih
      refine ⟨x :: b, a, rfl, by simp [portInsert, h, e], fun y hy => ?_, h2⟩
      rcases List.mem_cons.1 hy with rfl | hy
      · exact h
      · exact h1 y hy

/-- An access that is enqueued stands in the port, and nothing else changes. -/
theorem enqueue_queued (s : State) (rank cls scope : Nat) (acq rel own : Bool) (addr : Nat) (via : List Trans) (op : PortOp) :
    Queued s (s.enqueue rank cls scope acq rel own addr via op)
      { id := s.portId, bundle := s.me.seq, rank := rank, cls := cls, scope := scope, acq := acq, rel := rel, own := own
        since := s.dev.clock, addr := addr, via := via, op := op } := by
  unfold Queued
  rw [show (s.enqueue rank cls scope acq rel own addr via op).me.port = _ by unfold State.enqueue; rw [State.me_setMe]]
  exact ⟨portInsert_spec _ s.me.port, rfl⟩

/-! ### Translations and landings -/

/-- The caches of translations change alone, with the requests of translations sent and the choices made. -/
def Caches (s t : State) : Prop :=
  ∃ a b c d e, t = { s with tlb := a, walks := b, fresh := c, dev := { s.dev with atc := d, out := e } }

theorem Caches.refl (s : State) : Caches s s := ⟨s.tlb, s.walks, s.fresh, s.dev.atc, s.dev.out, rfl⟩
theorem Caches.trans {s t u : State} (h : Caches s t) (k : Caches t u) : Caches s u := by
  obtain ⟨a, b, c, d, e, rfl⟩ := h; obtain ⟨a', b', c', d', e', rfl⟩ := k; exact ⟨a', b', c', d', e', rfl⟩
theorem Caches.foldl {α : Type} {f : State → α → State} (h : ∀ s a, Caches s (f s a)) (l : List α) (s : State) :
    Caches s (l.foldl f s) := by
  induction l generalizing s with
  | nil => exact .refl s
  | cons a l ih => exact (h s a).trans (ih _)

theorem cacheHost_caches (s : State) (t : Trans) : Caches s (s.cacheHost t) := by
  unfold State.cacheHost; dsimp only; split
  · exact .refl s
  · split
    · exact ⟨s.tlb, s.walks, s.fresh, _, _, rfl⟩
    · exact ⟨s.tlb, s.walks, _, _, _, rfl⟩
theorem hold_caches (s : State) (t n p) : Caches s (s.hold t n p) := by
  unfold State.hold; dsimp only; split
  · exact .refl s
  · split
    · exact ⟨_, s.walks, s.fresh, s.dev.atc, s.dev.out, rfl⟩
    · exact ⟨_, s.walks, _, s.dev.atc, s.dev.out, rfl⟩
theorem keepPath_caches (s : State) (d l) : Caches s (s.keepPath d l) := by
  unfold State.keepPath
  refine Caches.foldl (fun s p => ?_) _ s
  dsimp only; split
  · exact .refl s
  · split
    · exact ⟨s.tlb, _, s.fresh, s.dev.atc, s.dev.out, rfl⟩
    · exact ⟨s.tlb, _, _, s.dev.atc, s.dev.out, rfl⟩
theorem Caches.red {s t : State} (h : Caches s t) : t.red = s.red := by
  obtain ⟨_, _, _, _, _, rfl⟩ := h; rfl

/-- With no reduction pending none drains. -/
theorem touch_still {s : State} (h : s.red = []) (keys : List Nat) : s.touch keys = s := by simp [State.touch, h]

theorem fill_caches {s : State} (h : s.red = []) (t : Trans) : Caches s (s.fill t) := by
  unfold State.fill; dsimp only
  rw [touch_still ((cacheHost_caches s t).red.trans h)]
  split
  · exact cacheHost_caches _ _
  · exact (((cacheHost_caches _ _).trans (hold_caches _ _ _ _)).trans (hold_caches _ _ _ _)).trans (keepPath_caches _ _ _)

/-- Filling translations changes the caches of translations alone, where no reduction is pending on an entry that its walk read. -/
theorem fills_caches {s : State} (h : s.red = []) (l : List Trans) : Caches s (s.fills l) := by
  induction l generalizing s with
  | nil => exact .refl s
  | cons t l ih => exact (fill_caches h t).trans (ih ((fill_caches h t).red.trans h))
theorem fills_wlog {s : State} (h : s.red = []) (l : List Trans) : (s.fills l).wlog = s.wlog := by
  obtain ⟨_, _, _, _, _, e⟩ := fills_caches h l; rw [e]

/-- Landings that are expected stand in the pending writes alone. -/
theorem expects_frame (ws : List (PendKind × RegWrite)) (s : State) (due id : Nat) (r f : Bool) :
    (s.expects due id r f ws).wlog = s.wlog ∧ (s.expects due id r f ws).mem = s.mem ∧ (s.expects due id r f ws).fl = s.fl
      ∧ (s.expects due id r f ws).portId = s.portId ∧ (s.expects due id r f ws).me.seq = s.me.seq := by
  induction ws generalizing s with
  | nil => exact ⟨rfl, rfl, rfl, rfl, rfl⟩
  | cons w l ih =>
    have := ih (s.expect due id w.1 r f w.2)
    simp only [State.expects, List.foldl_cons] at this ⊢
    obtain ⟨a, b, c, d, e⟩ := this
    exact ⟨a, b, c, d, e.trans (by simp [State.expect])⟩

/-! ### Addresses -/

theorem wrapInt_add (b : Word64) (i : Int) : wrapInt ((b.toNat : Int) + i) 64 = (b + BitVec.ofInt 64 i).toNat := by
  rw [BitVec.toNat_add, BitVec.toNat_ofInt, wrapInt]
  simp only [Nat.reducePow, Int.reducePow] at *
  omega

theorem addOffset_eq (b : Word64) {w : Nat} (hw : 0 < w) (o : BitVec w) (n : Nat) :
    addOffset b.toNat o.toNat w n = (b + o.signExtend 64 * BitVec.ofNat 64 n).toNat := by
  unfold addOffset
  rw [wrapInt_add, signExt_eq hw]
  congr 2
  rw [BitVec.ofInt_mul]
  congr 1

theorem addOffset_lines (b : Word64) {w : Nat} (hw : 0 < w) (o : BitVec w) :
    addOffset b.toNat o.toNat w 128 = (b + o.signExtend 64 <<< 7).toNat := by
  rw [addOffset_eq b hw]
  congr 2
  rw [BitVec.shiftLeft_eq_mul_twoPow]; rfl

theorem ldMoved_eq (b : Word64) (addr : BitVec 10) :
    ldMoved b.toNat addr = (b + (addr.extractLsb' 0 7).signExtend 64 * BitVec.ofNat 64 (szBytes (addr.extractLsb' 7 3).toNat)).toNat := by
  have e1 : addr.toNat % 128 = (addr.extractLsb' 0 7).toNat := by simp
  have e2 : addr.toNat / 128 = (addr.extractLsb' 7 3).toNat := by
    simp [Nat.shiftRight_eq_div_pow]
    have := addr.isLt; omega
  rw [ldMoved, e1, e2, addOffset_eq b (by decide)]

theorem effective_eq (b m : Word64) (ord pi : BitVec 1) (x : Nat) (h : x = m.toNat) :
    effective ord.toNat pi.toNat b.toNat x = (if ord = 0 ∧ pi = 0 then m else b).toNat := by
  subst h
  have ho : ord = 0 ∨ ord = 1 := by revert ord; decide
  have hp : pi = 0 ∨ pi = 1 := by revert pi; decide
  rcases ho with rfl | rfl <;> rcases hp with rfl | rfl <;> simp [effective]

/-! ### The loop stack -/

theorem pushLevels_eq (ls : List LoopLevel) (x : Ctx) : x.pushLevels ls =
    { x with loops := ls.reverse ++ x.loops, lrec := ls.foldl (fun t l => tabPut t l.iter (l.count, l.down)) x.lrec
             echo := x.echo ++ ls.map (fun l => (l.iter, l.value, x.trapm))
             it := ls.foldl (fun t l => tabPut t l.iter (BitVec.ofNat 32 l.value)) x.it } := by
  induction ls generalizing x with
  | nil => simp [Ctx.pushLevels]
  | cons l t ih => rw [Ctx.pushLevels, ih]; simp [Ctx.echoOf]

/-- A run of consecutive keys put in a table. -/
theorem tabGet_foldPut {α : Type} (d : α) (g : Nat → α) (n i : Nat) (t : Tab α) (j : Nat) :
    tabGet d ((List.range n).foldl (fun t k => tabPut t (i + k) (g k)) t) j = if i ≤ j ∧ j < i + n then g (j - i) else tabGet d t j := by
  induction n with
  | zero => simp
  | succ n ih =>
    rw [List.range_succ, List.foldl_append]
    simp only [List.foldl_cons, List.foldl_nil, tabGet_put, ih]
    by_cases h : j = i + n
    · subst h; simp
    · rw [if_neg h]
      have : (i ≤ j ∧ j < i + n) ↔ (i ≤ j ∧ j < i + (n + 1)) := by omega
      simp only [this]

theorem levels_eq (s : State) (i e : Nat) (counts : List Nat) (down : Bool) : s.levels i e counts down =
    (List.range counts.length).map fun j =>
      { iter := i + j, start := s.fl.seqPc, startLit := s.fl.seqRun, stop := (s.fl.pc + e) % 2 ^ 32, count := counts.getD j 0, down := down
        done := 0, group := s.me.nextGroup } := by
  unfold State.levels
  apply List.ext_getElem
  · simp
  · intro n h1 h2; simp at h1; simp [h1]

end Sys2Proof.Machine
end

