-- ==== Sys2Proof/Laws/Sca.lean ====
section
/-! SUPPORT. The scalar functions of R97 and R98 as functions of words. -/

namespace Sys2Proof.Machine

theorem ofInt_toNat_sub (x y : Word64) : BitVec.ofInt 64 ((x.toNat : Int) - y.toNat) = x - y := by
  apply BitVec.eq_of_toNat_eq
  rw [BitVec.toNat_ofInt, BitVec.toNat_sub]
  have := x.isLt; have := y.isLt
  simp only [Nat.reducePow] at *
  omega

theorem mulHigh_eq (x y : Word64) :
    BitVec.ofNat 64 (mulHigh x.toNat y.toNat) = (x.signExtend 128 * y.signExtend 128).extractLsb' 64 64 := by
    rw [mulHigh, int64_eq, int64_eq, ofNat_wrap64]
    apply BitVec.eq_of_toNat_eq
    rw [BitVec.toNat_ofInt, BitVec.extractLsb'_toNat]
    have e : (BitVec.signExtend 128 x * BitVec.signExtend 128 y) = BitVec.ofInt 128 (x.toInt * y.toInt) := by
      rw [BitVec.ofInt_mul]; rfl
    rw [e, BitVec.toNat_ofInt, Nat.shiftRight_eq_div_pow]
    generalize x.toInt * y.toInt = p
    simp only [Nat.reducePow, Int.reducePow]
    norm_cast
    omega

theorem toNat_eq_zero (y : Word64) : y.toNat = 0 ↔ y = 0 := ⟨fun e => BitVec.eq_of_toNat_eq e, fun e => by rw [e]; rfl⟩

theorem divQ_eq (x y : Word64) : BitVec.ofNat 64 (divQ x.toNat y.toNat) = if y = 0 then BitVec.allOnes 64 else x.sdiv y := by
    rw [divQ, Nat.mod_eq_of_lt y.isLt]
    simp only [toNat_eq_zero]
    split
    · rfl
    · rw [int64_eq, int64_eq, ofNat_wrap64]
      apply BitVec.eq_of_toInt_eq
      rw [BitVec.toInt_ofInt, BitVec.toInt_sdiv]

theorem remQ_eq (x y : Word64) : BitVec.ofNat 64 (remQ x.toNat y.toNat) = if y = 0 then x else x.srem y := by
    rw [remQ, Nat.mod_eq_of_lt y.isLt]
    simp only [toNat_eq_zero]
    split
    · exact BitVec.ofNat_toNat 64 x |>.trans (BitVec.setWidth_eq x)
    · rw [int64_eq, int64_eq, ofNat_wrap64, ← BitVec.toInt_srem, BitVec.ofInt_toInt]

theorem shl64_eq (x : Word64) (n : Nat) (hn : n < 64) : BitVec.ofNat 64 (shl64 x.toNat n) = x <<< n := by
  apply BitVec.eq_of_toNat_eq
  simp [shl64, Nat.mod_eq_of_lt hn, Nat.shiftLeft_eq]

theorem shr64_eq (x : Word64) (n : Nat) (hn : n < 64) : BitVec.ofNat 64 (shr64 x.toNat n) = x >>> n := by
  apply BitVec.eq_of_toNat_eq
  rw [shr64, Nat.mod_eq_of_lt hn, BitVec.toNat_ofNat, BitVec.toNat_ushiftRight, Nat.shiftRight_eq_div_pow]
  exact Nat.mod_eq_of_lt (Nat.lt_of_le_of_lt (Nat.div_le_self _ _) x.isLt)

theorem sra64_eq (x : Word64) (n : Nat) (hn : n < 64) : BitVec.ofNat 64 (sra64 x.toNat n) = x.sshiftRight n := by
  rw [sra64, Nat.mod_eq_of_lt hn, int64_eq, ofNat_wrap64]
  apply BitVec.eq_of_toInt_eq
  rw [BitVec.sshiftRight, Int.shiftRight_eq_div_pow]
  norm_cast

theorem insertBits_testBit (x lo n v i : Nat) : (insertBits x lo n v).testBit i =
    if lo ≤ i ∧ i < lo + n then v.testBit (i - lo) else x.testBit i := by
  unfold insertBits
  have h1 : x / 2 ^ (lo + n) * 2 ^ (lo + n) + v % 2 ^ n * 2 ^ lo + x % 2 ^ lo =
      2 ^ lo * (2 ^ n * (x / 2 ^ (lo + n)) + v % 2 ^ n) + x % 2 ^ lo := by
    rw [Nat.mul_add, ← Nat.mul_assoc, ← Nat.pow_add]; ring
  rw [h1, Nat.testBit_two_pow_mul_add _ (Nat.mod_lt _ (Nat.two_pow_pos _)), Nat.testBit_mod_two_pow]
  by_cases hlo : i < lo
  · simp [hlo]
  · rw [if_neg hlo, Nat.testBit_two_pow_mul_add _ (Nat.mod_lt _ (Nat.two_pow_pos _)), Nat.testBit_mod_two_pow]
    by_cases hn : i - lo < n
    · rw [if_pos hn, if_pos (by omega)]; simp [hn]
    · rw [if_neg hn, if_neg (by omega), Nat.testBit_div_two_pow]; congr 1; omega

theorem clz64_spec (x : Word64) : clz64 x.toNat ≤ 64 ∧ (clz64 x.toNat < 64 → x.getLsbD (63 - clz64 x.toNat) = true)
    ∧ ∀ i, i < 64 → 64 ≤ i + clz64 x.toNat → x.getLsbD i = false := by
  unfold clz64
  rw [Nat.mod_eq_of_lt x.isLt]
  by_cases h0 : x.toNat = 0
  · rw [if_pos h0]
    refine ⟨by omega, by omega, fun i _ _ => ?_⟩
    have : x = 0 := BitVec.eq_of_toNat_eq h0
    rw [this]; simp
  · rw [if_neg h0]
    have hl : x.toNat.log2 < 64 := (Nat.log2_lt h0).2 x.isLt
    refine ⟨by omega, fun _ => ?_, fun i hi h => ?_⟩
    · rw [show 63 - (63 - x.toNat.log2) = x.toNat.log2 by omega]
      exact Nat.testBit_log2 h0
    · exact Nat.testBit_lt_two_pow (Nat.lt_of_lt_of_le (Nat.lt_log2_self) (Nat.pow_le_pow_right (by decide) (by omega)))

theorem popCount_eq (x : Nat) (n : Nat) : popCount n x = ((List.range n).filter fun i => x.testBit i).length := by
  unfold popCount
  induction (List.range n) with
  | nil => rfl
  | cons i l ih =>
    simp only [List.map_cons, List.sum_cons, ih, List.filter_cons]
    have : x / 2 ^ i % 2 = if x.testBit i then 1 else 0 := by
      rw [Nat.testBit_eq_decide_div_mod_eq]
      have := Nat.mod_two_eq_zero_or_one (x / 2 ^ i)
      rcases this with h | h <;> simp [h]
    rw [this]
    split <;> (simp; try omega)

theorem signCode_fp32_lt (neg : Bool) (mag : Nat) (h : mag < 2 ^ 31) : signCode neg mag 0 < 2 ^ 32 := by
  unfold signCode
  have : fmtWidth 0 = 32 := rfl
  rw [this]
  split <;> omega

theorem narrow_fp32_lt (x : Val) (sat : Bool) : (narrow x 0 sat).val < 2 ^ 32 := by
  have hmx : fmtMaxCode 0 < 2 ^ 31 := by decide
  have hin : fmtInfCode 0 < 2 ^ 31 := by decide
  unfold narrow
  split
  · decide
  · split <;> exact signCode_fp32_lt _ _ ‹_›
  · split
    · exact signCode_fp32_lt _ _ (by decide)
    · dsimp only
      split
      · dsimp only; split <;> exact signCode_fp32_lt _ _ ‹_›
      · exact signCode_fp32_lt _ _ (by omega)

end Sys2Proof.Machine
end

