-- ==== Sys2Proof/Tests/Slice0.lean ====
section
/-! SUPPORT. Tests: operand values that no encoding admits, words that spec/ writes out beside the instruction they stand for, single
steps with results worked out by hand from the rules or taken from examples of spec/, and for every statement a state and operands that
meet its hypotheses. -/

namespace Sys2Proof.Tests

open Sys2Proof Sys2Proof.Machine

set_option Elab.async false

/-! ### Operands that no encoding admits (R64 to R83, R104) -/

theorem test_wf_sync_ctrl :
    [Instr.banklk 0 4 3, .loop 1 0 64 5, .lrev 1 0 1023 5, .lnest 7 1 1, .phprep 0, .phadv 0].all (fun i => !wf i) = true := by decide +kernel

theorem test_wf_sca :
    [Instr.bfx 1 2 63 1 0, .bfi 1 2 32 32, .fcvt 1 2 8 0 0, .fcvt 1 2 0 15 0, .fcvt 1 2 0 1 1, .tshape 2 15 127 127 0,
      .tshape 2 3 127 127 3, .tshape 2 3 127 127 1, .tshape 2 5 127 127 0].all (fun i => !wf i) = true := by decide +kernel

theorem test_wf_mem :
    [Instr.ld 0 0 5 2 12 0 0 0x380, .ld 0 0 5 2 12 1 1 0x100, .ld 0 0 5 2 12 1 0 0x160, .ld 0 0 5 2 12 1 0 0x101, .st 0 0 5 2 0 0 0x380,
      .st 0 0 5 2 1 1 0x100, .ldv 0 0 320 2 8 0 0 0 0, .ldv 0 0 1 2 8 1 0 0 0, .ldv 0 0 1 2 8 0 1 0 0x300, .ldv 0 0 1 2 8 0 1 0 1,
      .ldv 3 0 1 2 8 1 1 0 0, .stv 0 0 320 2 0 0 0, .stv 0 0 1 2 1 1 0, .stv 0 0 1 2 1 0 1, .ldvs 0 0 320 2 8 1 0, .stvs 0 0 320 2 1 0,
      .ldvg 0 0 1 2 8 320 0, .stvg 0 0 320 2 1 0, .amo 0 0 1 2 3 6 0 0 0 0, .amo 0 0 1 2 3 0 12 0 0 0, .amo 0 0 1 2 3 0 8 1 0 0,
      .red 0 0 1 2 0 10 0 0 0, .red 0 0 1 2 0 0 0 0 1, .red 0 0 1 2 0 8 1 0 0, .drain 6, .fence 7 1, .fence 2 0, .cvtways 17,
      .cinv 0 0 1 0, .cwb 0 0 1 0, .pref 0 0 1 0].all (fun i => !wf i) = true := by decide +kernel

theorem test_wf_vec :
    [Instr.vadd 320 0 0 0 0 0, .vadd 1 2 3 0 1 0, .vadd 1 2 3 3 0 0, .vmul 1 320 3 0 0 0, .vfma 1 2 320 0 0 0, .vmin 1 2 3 5 0 0, .vmax 1 2 3 15 0 0,
      .vabs 1 2 3 0 0, .vneg 1 2 16 0 0, .vand 1 2 3 25 0 0, .vshl 1 2 3 0 0 0, .vshr 1 2 3 3 0 0, .vsra 1 2 3 2 0 0, .vcmp 1 2 3 0 0 0 8,
      .vsel 1 2 3 7 0, .vmov 1 2 8 0 0, .vbcast 320 1 0 0 0, .vext 1 2 3 6 0 0, .vins 1 2 3 0 2 0, .vperm 1 2 3 13 0 0, .vred 1 2 0 0 0 3,
      .vred 1 2 3 0 0 0, .vred 1 2 17 0 0 6, .vscan 1 2 3 0 0 1, .vscan 1 2 0 0 0 3, .vcvt 1 2 0 8 0 0 0, .vcvt 1 2 5 7 0 0 0, .vcvt 1 2 7 0 1 1 0,
      .vcvt 1 2 0 3 0 0 1, .vrcp 1 2 17 0 0, .vrsq 1 2 3 0 0, .vexp2 1 2 19 0 0, .vthr 1 2 3 5 0 0, .vtopk 1 2 3 16 0 0, .vhist 1 2 0 0 0,
      .scacc 1 2 3 1 0, .vefq 1 2 1, .mand 1 2 3 1 0, .mnot 1 2 1 0, .mpopc 1 2 1 0].all (fun i => !wf i) = true := by decide +kernel

theorem test_wf_xfm_mtx :
    [Instr.xexp 1 2 3, .xexp 1 2 8, .xexp 3 2 10, .xexp 2 3 12, .xcvt 1 2 13, .xcvt 1 2 15, .xcvt 1 2 8, .xreblk 2 3 0, .xreblk 1 2 8,
      .slatch 0 320 0, .acwb 15 1 5 0, .acadj 12 4 5 1, .acbrd 2 2 40 0, .acbrd 2 3 319 0, .acbrd 2 1 40 1, .acbwr 2 2 40 0, .acbwr 2 3 320 1,
      .mfmt 15 3, .mfmt 3 25].all (fun i => !wf i) = true := by decide +kernel

/-! ### Words of spec/ (04 to 20, at the examples that name the encoding) -/

/-- A word reads as an instruction, and the instruction is written as that word. -/
def reads (l : List (SlotKind × Nat × Instr)) : Bool :=
  l.all fun p => decodeSlot p.1 p.2.1 == .ok p.2.2 && encode p.2.2 == p.2.1 && slotOf p.2.2 == some p.1

theorem test_words_sync : reads
    [(.sync, 0x1182, .wait 3 2), (.sync, 0x2280, .post 5 0), (.sync, 0x3670, .postp 3 7 0), (.sync, 0x4443, .banklk 4 8 3),
      (.sync, 0x5200, .cbar 2)] = true := by decide +kernel

theorem test_words_ctrl : reads
    [(.ctrl, 0x07FFFFFC, .br (0x3FFFFFC)), (.ctrl, 0x0893FFF4, .brc 9 1 0x1FFF4), (.ctrl, 0x18C3F005, .loop 1 1 63 5),
      (.ctrl, 0x1C800002, .loopq 1 2), (.ctrl, 0x21100001, .lnest 2 1 1), (.ctrl, 0x25000004, .lreplay 2 4), (.ctrl, 0x29814004, .lrev 3 0 20 4),
      (.ctrl, 0x2C400000, .phprep 1), (.ctrl, 0x33400000, .phadv 13), (.ctrl, 0x34000000, .phset 0), (.ctrl, 0x38840000, .mapld 2 2),
      (.ctrl, 0x3D400000, .next 20), (.ctrl, 0x40A00000, .tail 5), (.ctrl, 0x48000000, .rte), (.ctrl, 0x4C000000, .exit),
      (.ctrl, 0x50A10000, .srd 10 0x10)] = true := by decide +kernel

theorem test_words_sca : reads
    [(.sca, 0x0C410010, .addi 4 4 16), (.sca, 0x10610500, .mul 6 4 5), (.sca, 0x09654700, .sub 22 21 7), (.sca, 0x05A5C400, .add 26 23 4),
      (.sca, 0x25D70500, .or 29 28 5), (.sca, 0x45754010, .shli 23 21 16), (.sca, 0x48820001, .shri 8 8 1), (.sca, 0x71400000, .movi 20 0),
      (.sca, 0x74C43F80, .movhi 12 1 0x3F80), (.sca, 0x80920A04, .bfx 9 8 10 1 0), (.sca, 0x88410C00, .aadd 2 1 3), (.sca, 0x8CC04000, .amov 6 0 1),
      (.sca, 0x90202B00, .alea 1 0 10 6), (.sca, 0xA487FFF8, .tshape 2 3 127 127 0), (.sca, 0xA8920000, .mpar 1 9)] = true := by decide +kernel

theorem test_words_mem : reads
    [(.mem, 0x040051018102, .ld 0 0 5 2 12 0 0 0x102), (.mem, 0x07009080_4950, .ld 3 0 9 1 2 1 0 0x150), (.mem, 0x0A0072000920, .st 2 0 7 4 1 0 0x120),
      (.mem, 0x0C00C1810002, .ldv 0 0 12 3 8 0 0 0 2), (.mem, 0x100030000040, .stv 0 0 3 0 0 0 0x40), (.mem, 0x270023CB0000, .ldt 3 0 2 7 600 0 0),
      (.mem, 0x300A82840000, .amo 0 0 21 1 8 2 0 0 0 0), (.mem, 0x370012670000, .red 3 0 9 6 3 8 0 0 0), (.mem, 0x370012670200, .red 3 0 9 6 3 8 0 0 1),
      (.mem, 0x3A8000000000, .drain 5), (.mem, 0x3D0500000000, .fence 2 0x0A)] = true := by decide +kernel

theorem test_words_vec : reads
    [(.vec, 0x101404028000, .vfma 10 4 5 0 0 0), (.vec, 0x080A02044800, .vsub 5 2 8 18 0 0), (.vec, 0x04040100C460, .vadd 2 1 1 17 1 1),
      (.vec, 0x280A05035400, .vor 5 5 6 21 0 0), (.vec, 0x400604028002, .vcmp 3 4 5 0 0 0 2), (.vec, 0x440602005C60, .vsel 3 2 0 23 1),
      (.vec, 0x4C1C0F005400, .vbcast 14 15 21 0 0), (.vec, 0x580E0A044800, .vperm 7 10 8 18 0 0), (.vec, 0x5C1807000000, .vred 12 7 0 0 0 0),
      (.vec, 0x601C0F0054E0, .vscan 14 15 21 3 1 0), (.vec, 0x642806000C00, .vcvt 20 6 0 3 0 0 0), (.vec, 0x740408070000, .vthr 2 8 14 0 0 0),
      (.vec, 0x780408070060, .vtopk 2 8 14 0 1 1), (.vec, 0x7C0002145C20, .vhist 2 40 23 0 1), (.vec, 0x803C1F100000, .scacc 30 31 32 0 0),
      (.vec, 0x84500804A000, .vefq 40 8 9), (.vec, 0x880202018000, .mand 1 2 3 0 0), (.vec, 0x981E02000000, .mpopc 15 2 0 0)] = true := by decide +kernel

theorem test_words_xfm_mtx_eng : reads
    [(.xfm, 0x3147, .xexp 8 10 7), (.xfm, 0x4840, .xtrn 4 2), (.xfm, 0x6181, .xcvt 0 12 1), (.xfm, 0x8C48, .xreblk 6 2 8), (.mtx, 0x0A0000, .mcall 16),
      (.mtx, 0x118000, .acz 3), (.mtx, 0x198000, .acrel 3), (.mtx, 0x218A00, .acwb 3 0 5 0), (.mtx, 0x288C00, .acadj 1 0 6 0),
      (.mtx, 0x340000, .mpsld 4), (.mtx, 0x3918A0, .acbrd 2 3 40 0), (.eng, 0x0948, .cpy 5 4), (.eng, 0x5192, .qfence 6 9), (.eng, 0x1948, .bte 5 4),
      (.eng, 0x2148, .tld 5 4), (.eng, 0x4148, .tgath 5 4), (.eng, 0x58C4, .qpush 3 2), (.eng, 0x6042, .lkbegin 1 1), (.eng, 0x68C4, .lkreq 3 2),
      (.eng, 0x8106, .lkrelall 4 3), (.eng, 0x8948, .coll 5 4), (.eng, 0x90C4, .nettx 3 2), (.eng, 0xA0CA, .stgrd 3 5), (.eng, 0xA98E, .vdec 6 7),
      (.eng, 0xB0CA, .pgreq 3 5)] = true := by decide +kernel

/-- Reserved bits, unassigned opcodes and illegal fields are refused; a mask suffix of the same word is not. -/
theorem test_words_refused :
    decodeSlot .ctrl 0x48000001 = .bad .reservedField ∧ decodeSlot .sync 0x6000 = .bad .unassignedOpcode
      ∧ decodeSlot .sync 0x4043 = .bad .illegalField ∧ decodeSlot .vec 0x101404028020 = .ok (.vfma 10 4 5 0 0 1)
      ∧ decodeSlot .vec 0x101404028040 = .bad .illegalField := by decide +kernel

/-- R82, each word written out field by field. -/
theorem test_words_micro : reads
    [(.micro, 0x00000000, .midle 0), (.micro, 0x1203F800, .mlda 1 0 127), (.micro, 0x30300000, .mstep 3), (.micro, 0x70A80000, .mrowb 5 2),
      (.micro, 0x88000000, .macc 4 0), (.micro, 0x907C2800, .mloop 31 40), (.micro, 0xA0000000, .mend), (.micro, 0xB18C0000, .mfmt 3 3),
      (.micro, 0xCFFF0000, .msetk 4095), (.micro, 0xEFFC0000, .mjmp 1023), (.micro, 0xF8000000, .mwaits 1)] = true := by decide +kernel

/-! ### Small states -/

def isOk {α β : Type} : Except α β → Bool
  | .ok _ => true
  | .error _ => false

def completes : Result → Bool
  | .next _ => true
  | _ => false

/-- What a next state says of something. -/
def after {α : Type} (r : Result) (f : State → α) : Option α :=
  match r with
  | .next t => some (f t)
  | _ => none

/-- Context 5, on core 1, with a bundle in flight. -/
def inFlight (x : Ctx) (k : Core) : State :=
  { State.reset with
    ctxs := [(5, { x with mode := .running })], cores := [(1, k)]
    fl := { Flight.init with live := true, ctx := 5, pc := 0x40, seqPc := 0x41, t := 100, slot := 1, rest := [(1, .cnop)] } }

def x0 : Ctx := Ctx.init
def k0 : Core := Core.init
def s0 : State := inFlight x0 k0

/-- `s0` with scalar registers 1, 2, 3. -/
def withS (a b c : Word64) : State := inFlight { x0 with s := [(1, a), (2, b), (3, c)] } k0

/-- The write that an instruction puts on its way, where it is the only one. -/
def sent (i : Instr) (s : State) : Option (List (Nat × RegWrite)) := after (exec i s) fun t => t.me.pend.map fun p => (p.due, p.w)

/-! ### Single steps, by hand from the rules -/

/-- R97: a signed quotient truncates toward zero, and division by zero gives -1. -/
theorem test_divq : sent (.divq 4 1 2) (withS (-7) 2 0) = some [(118, .s 4 (-3))]
    ∧ sent (.divq 4 1 2) (withS 7 0 0) = some [(118, .s 4 (-1))] := by decide +kernel

/-- R97: the most negative number divided by -1 leaves no remainder. -/
theorem test_remq : sent (.remq 4 1 2) (withS 0x8000000000000000 (-1) 0) = some [(118, .s 4 0)] := by decide +kernel

/-- R97: the high half of -1 times 2 is -1. -/
theorem test_mulh : sent (.mulh 4 1 2) (withS (-1) 2 0) = some [(103, .s 4 (-1))] := by decide +kernel

/-- R97: the shift count is the low six bits. -/
theorem test_sra : sent (.sra 4 1 2) (withS (-16) 66 0) = some [(101, .s 4 (-4))] := by decide +kernel

/-- R98: a field of 8 bits at position 10, with its sign. -/
theorem test_bfx : sent (.bfx 4 1 10 7 1) (withS 0x3FC00 0 0) = some [(101, .s 4 (-1))] := by decide +kernel

/-- R98: MOVHI replaces one quarter and keeps the rest. -/
theorem test_movhi : sent (.movhi 1 3 0xABCD) (withS 0x1111222233334444 0 0) = some [(101, .s 1 0xABCD222233334444)] := by decide +kernel

/-- R100: 1.5 times 2 is 3. -/
theorem test_fmul : sent (.fmul 4 1 2) (withS 0x3FC00000 0x40000000 0) = some [(104, .s 4 0x40400000)] := by decide +kernel

/-- R101: 2.5 to INT32 rounds to the even 2. -/
theorem test_fcvt : sent (.fcvt 4 1 19 0 0) (withS 0x40200000 0 0) = some [(103, .s 4 2)] := by decide +kernel

/-- R90: a branch taken backwards. -/
theorem test_br : (after (exec (.br 0x3FFFFFC) s0) fun t => t.fl.target) = some (some (0x3C, false)) := by decide +kernel

/-- R90: BRC on a negative register is taken, on zero not. -/
theorem test_brc : (after (exec (.brc 1 2 5) (withS (-1) 0 0)) fun t => t.fl.target) = some (some (0x45, false))
    ∧ (after (exec (.brc 1 2 5) (withS 0 0 0)) fun t => t.fl.target) = some none := by decide +kernel

/-- R91, R289: a loop of 64 iterations whose body ends five words on. -/
theorem test_loop : (after (exec (.loop 1 1 63 5) s0) fun t => t.me.loops.map fun l => (l.iter, l.start, l.stop, l.count)) =
    some [(1, 0x41, 0x45, 64)] := by decide +kernel

/-- R84: a WAIT takes its count from the flag. -/
theorem test_wait : (after (exec (.wait 3 2) (inFlight x0 { k0 with flags := [(3, 5)] })) fun t => t.mine.flagOf 3) = some 3 := by decide +kernel

/-- R131: 1.0 plus 2.0 in every element of FP32. -/
theorem test_vadd : (after (exec (.vadd 3 1 2 0 0 0) (inFlight { x0 with
      v := [(1, BitVec.ofNat 1024 0x3F800000), (2, BitVec.ofNat 1024 0x40000000)] } k0)) fun t =>
    t.me.pend.map fun p => (p.due, p.w)) = some [(104, .v 3 (BitVec.ofNat 1024 0x40400000))] := by decide +kernel

/-- R143: VTOPK takes the two largest of 32, ties to the lower lane. -/
theorem test_vtopk : sent (.vtopk 2 1 2 0 0 0) (inFlight { x0 with
      v := [(1, BitVec.ofNat 1024 0x3F800000_40000000_40000000_3F800000)], s := [(2, 3)] } k0) = some [(112, .m 2 7)] := by decide +kernel

/-- R72: a store of a word in the core's own PM, least significant byte first. -/
theorem test_st : (after (exec (.st 0 0 1 1 0 0 0x100) (inFlight { x0 with s := [(1, 0x11223344)], a := [(1, 0x201000)] } k0)) fun t =>
    (List.range 5).map fun i => t.byte (keyOf (.pm 1 (0x1000 + i)))) = some [0x44, 0x33, 0x22, 0x11, 0] := by decide +kernel

/-- R106: a load that is not aligned to its size takes ALIGN. -/
theorem test_ld_align : (after (exec (.ld 0 0 5 1 12 0 0 0x100) (inFlight { x0 with a := [(1, 0x201002)] } k0)) fun t =>
    (t.fl.live, t.me.mode == .running)) = some (false, false) := by decide +kernel

/-- R164: SLATCH from lane 0 of a vector reaches the latch of row 64 six cycles after issue. -/
theorem test_slatch : (after (exec (.slatch 1 2 1) (inFlight { x0 with v := [(2, 0x3FF)] } k0)) fun t =>
    (t.mine.latchAt 1 64 105, t.mine.latchAt 1 64 106)) = some (0x1F0, 0x3FF) := by decide +kernel

/-- The first step after reset with a word placed runs it: ADDI s4, s4, 16 puts 16 on its way. -/
theorem test_first_step : (after (step (State.reset.withFetchWord 32 0x0C410010)) fun t =>
    (t.ctxs.map fun x => x.2.pend.map fun p => p.w)) = some [[.s 4 16]] := by decide +kernel

/-- R371: SHA-512 of the three bytes abc, as FIPS 180-4 works it out. -/
theorem test_sha512 : (Config.sha512 [0x61, 0x62, 0x63]).take 8 = [0xDD, 0xAF, 0x35, 0xA1, 0x93, 0x61, 0x7A, 0xBA] := by decide +kernel

/-! ### States and operands that meet the hypotheses of the statements -/

/-- The state in which the next step runs a word placed where the machine fetches. -/
def placed : State := State.reset.withFetchWord 32 0x0C410010

/-- The placed context, whose space maps the first gigabyte of HBM, with a bundle in flight. -/
def mapped (f : Ctx → Ctx) : State :=
  { placed with
    ctxs := [(0, f (placed.ctx 0))]
    fl := { Flight.init with live := true, pc := 0x40, seqPc := 0x41, t := 100, slot := 1, rest := [(1, .cnop)] } }

def frozenCore : State := { State.reset with cores := [(1, { k0 with frozen := true })] }
def noPower : State := { State.reset with dev := { Dev.init with powered := false } }

theorem witness_ResetLeavesCoresAndClustersEmpty : (0 : Nat) < 16 ∧ (15 : Nat) < 16 := by decide

theorem witness_EveryStepKeepsInvariant : (Memory.wf s0.mem = true ∧ s0.wlog = []) ∧ completes (step s0) = true ∧ s0.fl.live = true := by
  decide +kernel

theorem witness_StepsStopOnlyWithoutPower : State.reset.dev.powered = true ∧ step noPower = .fault .halted := ⟨rfl, rfl⟩

theorem witness_DecodeOfEncodeIsTheInstruction :
    slotOf (.ldv 3 7 319 31 1023 0 0 0 1023) = some .mem ∧ admits (.ldv 3 7 319 31 1023 0 0 0 1023) = true
      ∧ slotOf (.midle 0) = some .micro ∧ admits (.midle 0) = true := by decide +kernel

theorem witness_DecodedWordIsTheEncoding : decodeSlot .sync 0 = .ok .snop ∧ decodeSlot .sync 0x5200 = .ok (.cbar 2) := by decide +kernel

/-- The three ways a bundle goes on: its last slot, a slot with another behind it, and a slot that faults. -/
theorem witness_StepRunsDecodedSlot :
    (s0.dev.powered = true ∧ s0.fl.live = true ∧ s0.fl.rest = [(1, .cnop)]
        ∧ after (exec .cnop (s0.atSlot 1)) (fun t => t.fl.live) = some true)
      ∧ (let s : State := { s0 with fl := { s0.fl with rest := [(1, .cnop), (2, .scnop)] } }
        s.fl.rest = (1, .cnop) :: [(2, .scnop)] ∧ after (exec .cnop (s.atSlot 1)) (fun t => t.fl.live) = some true)
      ∧ let s : State := { s0 with fl := { s0.fl with rest := [(1, .srd 1 0x13)] } }
        s.fl.rest = (1, .srd 1 0x13) :: [] ∧ after (exec (.srd 1 0x13) (s.atSlot 1)) (fun t => t.fl.live) = some false := by decide +kernel

theorem witness_StoredBytesReadBack :
    State.reset.wlog = [] ∧ ([((0 : Nat), (1 : Byte)), (8, 2)].map (·.1)).Nodup
      ∧ State.reset.drops 2 = false ∧ frozenCore.drops (keyOf (.pm 1 0)) = true ∧ frozenCore.drops (keyOf (.pm 2 0)) = false := by
  decide +kernel

/-- A write goes between two that are on their way already, sorted by their cycles. -/
theorem witness_WriteOnItsWay :
    let s := inFlight { x0 with pend := [⟨101, .fixed, 0, true, true, false, .s 1 0⟩, ⟨103, .fixed, 0, true, true, false, .s 2 0⟩] } k0
    s.me.pend.Pairwise (fun a b => a.due ≤ b.due) ∧ (s.write (.s 3 9) 1).me.pend.map (·.due) = [101, 101, 103] := by decide +kernel

/-- One write of each kind, due in the present cycle. -/
theorem witness_DueWritesRetire :
    ∀ w ∈ [RegWrite.s 1 2, .a 31 2, .v 319 3, .m 15 1, .p 7 4, .tctl 15 5, .tile 0 [(0, [1, 2])], .tile 15 [(0, [1]), (128, [2])], .phase 3 1,
        .count [0, 63, 63], .fail { code := 0x35, detail := 6, faddr := 0, smask := 0 }],
      ∀ kd ∈ [PendKind.fixed, .load, .xfm, .landing],
        let s := inFlight { x0 with pend := [⟨7, kd, 0, true, true, false, w⟩, ⟨8, .fixed, 0, true, true, false, .s 1 0⟩] } { k0 with cyc := 7 }
        s.wlog = [] ∧ (s.ctx 5).pend = ⟨7, kd, 0, true, true, false, w⟩ :: [⟨8, .fixed, 0, true, true, false, .s 1 0⟩] ∧ (7 : Nat) ≤ (s.core (coreOf 5)).cyc := by
  decide +kernel

/-- The placed bundle issues; and so does one re-entered at its slot 3, which has no slot left. -/
theorem witness_FetchIssuesDecodedBundle :
    (let s := placed
     s.fl.live = false ∧ (s.ctx 0).drain = none ∧ (match s.tryIssue 0 with | (t, .go) => t.fl.live | _ => false) = true)
      ∧ let f : Frame := { epc := (placed.ctx 0).pc, lit := (placed.ctx 0).inRun, sres := 3, capv := false, map := 0, gen := 0, bytes := []
                           target := none, after := .none }
        let s : State := { placed with ctxs := [(0, { placed.ctx 0 with resume := some f })] }
        s.fl.live = false ∧ (s.ctx 0).drain = none ∧ (match s.tryIssue 0 with | (t, .go) => t.fl.live | _ => false) = true := by
  decide +kernel

theorem witness_NoOpsChangeNothing : s0.wlog = [] := rfl
theorem witness_ScalarIntegerOperations : (withS 1 (-1) 0).wlog = [] := rfl
theorem witness_ScalarFieldsAddressesAndShapes : s0.wlog = [] ∧ (63#6).toNat + (0#6).toNat + 1 ≤ 64 ∧ (0#6).toNat + (63#6).toNat + 1 ≤ 64 := by decide
theorem witness_ScalarFloatArithmetic : (withS 0x7F800000 0x7FC00000 1).wlog = [] := rfl
theorem witness_ScalarConversion : (withS 0x7F800000 0 0).wlog = [] := rfl
theorem witness_VectorArithmetic : s0.wlog = [] := rfl
theorem witness_VectorLogicShiftsAndMoves : s0.wlog = [] := rfl
theorem witness_ComparesAndMasks : s0.wlog = [] := rfl
theorem witness_VectorConversionAndFunctions : s0.wlog = [] := rfl
theorem witness_HistogramsAndScaledAccumulation : s0.wlog = [] := rfl

/-- A flag that holds just the count, and one that is one short; a barrier of one participant, and one of none. -/
theorem witness_FlagWaitsAndPosts :
    s0.wlog = [] ∧ (127#7).toNat ≤ (inFlight x0 { k0 with flags := [(31, 127)] }).mine.flagOf (31#5).toNat
      ∧ (inFlight x0 { k0 with flags := [(31, 126)] }).mine.flagOf (31#5).toNat < (127#7).toNat
      ∧ ({ s0 with clusters := [(0, { Cluster.init with bars := [(15, { parts := 1, count := 0, waiting := [] })] })] }.barrier
          (clusterOf (coreOf s0.fl.ctx)) (15#4).toNat).parts ≠ 0
      ∧ (s0.barrier (clusterOf (coreOf s0.fl.ctx)) (15#4).toNat).parts = 0 := by decide +kernel

/-- A loop level of iterator `i` over the words 0x40 to `stop`. -/
def level (i stop group : Nat) : LoopLevel :=
  { iter := i, start := 0x40, startLit := false, stop := stop, count := 4, down := false, done := 1, group := group }

/-- A call from a bundle before stream words, and from one before templates; a stack of nine levels. -/
theorem witness_BranchesGoToTheirTargets :
    s0.wlog = [] ∧ s0.fl.seqRun = false ∧ { s0 with fl := { s0.fl with seqRun := true } }.fl.seqRun = true
      ∧ ([] : List LoopLevel).length ≤ 9 ∧ ((List.range 9).map fun i => level i 0x50 i).length ≤ 9
      ∧ (popOut 0x60 9 [level 1 0x50 1, level 0 0x70 0]).length = 1 := by decide +kernel

/-- The placed context in flight just before the one bundle of the placed program, three words long. -/
def looping (x : Ctx → Ctx) : State :=
  { mapped x with fl := { (mapped x).fl with pc := 0xFFFFFFFF, seqPc := 0, seqRun := true } }

/-- Counts that are not 0, onto an empty stack and onto a full one; a count of 0, whose body is walked to its end, is not there, or
cannot be read. -/
theorem witness_LoopsPushLevels :
    (let s := inFlight { x0 with cq := [3, 1, 4, 1, 5, 9, 2, 6], lrec := [(7, (5, true))] } k0
     s.wlog = [] ∧ 0 ∉ (List.range 8).map (fun j => s.me.cq.getD j 0) ∧ s.me.loops.length + 8 ≤ 8 ∧ (tabGet (0, false) s.me.lrec 7).1 ≠ 0)
      ∧ (let s := inFlight { x0 with loops := (List.range 8).map fun i => level i 0x50 i } k0
        8 < s.me.loops.length + 1)
      ∧ (∃ l ∈ (inFlight { x0 with loops := [level 7 0x40 0] } k0).me.loops, l.stop = 0x40)
      ∧ 0 ∈ [((s0.sArg 0 (BitVec.setWidth 6 (0#10))).setWidth 32 : BitVec 32).toNat]
      ∧ (match (looping id).walkBody 1 with | .ok (some p, _) => p == (3, false) | _ => false) = true
      ∧ (match (looping id).walkBody 2 with | .ok (none, _) => true | _ => false) = true
      ∧ isOk ({ looping id with tlb := [], mem := [] }.walkBody 1) = false := by
  decide +kernel

/-- Privilege, and none; a context number of 1023, and the first unlisted register. -/
theorem witness_SystemRegisters :
    s0.wlog = [] ∧ s0.fl.ctx < 1024 ∧ (inFlight { x0 with priv := true } k0).me.priv = true ∧ s0.me.priv = false
      ∧ 0x12 < (0x13#8).toNat ∧ 0x12 < (0xFF#8).toNat ∧ (1023 : Nat) < 1024 := by decide +kernel

def org0 : Origin := { epc := 0, lit := false, phase := 0, gen := 0, node := 0, htbase := 0, htlen := 0, wq := 0 }

/-- A preparation of map 1 at a stage. -/
def prepAt (stage map : Nat) : Prep :=
  { map := map, stage := stage, due := 0, whole := false, bundle := 0, org := org0, cur := [], next := [], snapped := 0, taken := [], reached := 0, gran := 0, desc := []
    began := 0, spent := 0, moved := false, halt := none, retry := none }

/-- An entry of one granule in CSM that is zeroed, and one kept from a source that is not there. -/
def zeroed (o : Nat) : MapEntry :=
  { wbase := 0, len := 0, ksrc := 0, wb := false, carry := 3, kind := 1, target := o, row0 := 0, col0 := 0, bhandle := 0 }
def keptFrom (j : Nat) : MapEntry := { zeroed 0x1000 with carry := 1, ksrc := j, wbase := 0x80 }

theorem witness_PhaseInstructions :
    (inFlight { x0 with prep := some (prepAt 0 1) } k0).me.preparing = true ∧ s0.me.preparing = false
      ∧ (let s := inFlight { x0 with maps := [(1, [zeroed 0, zeroed 0x80])] } k0
        (List.range 2).all (fun j => ((tabGet [] s.me.maps 1)[j]?).any fun e => !prepBad (clusterOf s.myCore) [] (tabGet [] s.me.maps 1) j e) = true
          ∧ s.me.prepared 1 = false)
      ∧ (let s := inFlight { x0 with phase := 15, maps := [(0, [zeroed 0, keptFrom 3])] } k0
        let next := tabGet [] s.me.maps 0
        prepBad (clusterOf s.myCore) [] next 1 (keptFrom 3) = true ∧ next[1]? = some (keptFrom 3) ∧ next[0]? = some (zeroed 0)
          ∧ prepBad (clusterOf s.myCore) [] next 0 (zeroed 0) = false)
      ∧ (inFlight { x0 with prep := some (prepAt 2 1) } k0).me.prepared 1 = true
      ∧ ((inFlight { x0 with prep := some (prepAt 2 1) } k0).me.prepared 2 = false
        ∧ (inFlight { x0 with prep := some (prepAt 2 1) } k0).me.preparing = false)
      ∧ isOk (s0.placeAligned 3 .read false 32 8 2080) = false ∧ isOk (s0.placeAligned 3 .read false 32 0 2080) = false
      ∧ isOk ((mapped id).placeAligned 3 .read false 32 0x5000 2080) = true := by decide +kernel

/-- An image of one entry that the checks accept, and one that they do not. -/
theorem witness_PhaseInstructions_images :
    isOk (imageOf 0) = true ∧ isOk (imageOf (2 ^ 63)) = false ∧ (3 : Nat) ≠ (mapped id).me.phase ∧ (0 : Nat) = (mapped id).me.phase
      ∧ (mapped id).me.prep.map (·.map) ≠ some 3 := by decide +kernel

/-- A stage of one member without a queue, and the placed launch with two more of them. -/
def stageOf (prod qlen : Nat) : Stage :=
  { cbase := 0x20000, dbase := 0, dictn := 0, maps := [], qbase := 0, qlen := qlen, prod := prod, tgrant := 0, gang := 0, barb := 0, barc := 0, imax := 0 }
def staged (grid : Nat) (q : Tab StageQueue) (tails : List TailRec) : Launch :=
  { placeLaunch false with stages := [stageOf 0 0, stageOf 1 0, stageOf 1 0], grid := grid, stageQ := q, tails := tails }
def atStage (n : Nat) (l : Launch) : State :=
  let y : Ctx := { placed.ctx 0 with stage := n, tgrant := 0 }
  { mapped id with ctxs := [(0, y), (4, { y with nextFrom := some 9 })], dev := { (mapped id).dev with launches := [(1, l)] } }
def aRecord (c : Nat) : TailRec := { ctx := c, inst := 7, record := [], carries := none }

theorem witness_WorkInstructions :
    (inFlight { x0 with chosen := some 3 } k0).me.chosen = some 3
      ∧ (mapped id).decide 0 = .work 0 ∧ (mapped id).me.chosen = none
      ∧ (atStage 1 (staged 1 [] [])).decide 0 = .park
      ∧ (atStage 1 (staged 1 [(stageKey 0 2, { ready := [5, 6], out := [], tail := 0, tags := [] })] [])).decide 0 = .rebind 2
      ∧ (atStage 1 (staged 1 [(stageKey 0 2, { ready := [5, 6], out := [], tail := 0, tags := [] })] [])).quiet 0 = true
      ∧ (atStage 0 (staged 0 [] [])).decide 0 = .finish
      ∧ isOk (s0.placeAligned 3 .read false 64 0 64) = false ∧ isOk ((mapped id).placeAligned 3 .read false 64 0x4000 64) = true
      ∧ ((atStage 0 (staged 0 [] [])).launch 1).isSome = true
      ∧ ((List.range 15).map fun i => aRecord (100 + i)).length < 16
      ∧ (∀ v ∈ (List.range 15).map fun i => aRecord (100 + i), ¬(v.ctx = 0 ∧ v.inst = 1))
      ∧ 16 ≤ ((List.range 16).map fun i => aRecord (100 + i)).length := by decide +kernel

/-- A trap whose frame can be written, and one taken while a handler runs. -/
theorem witness_TrapEntersHandler :
    let s := mapped fun x => { x with tfb := 0x4000, tvec := 0x80, pend := [⟨107, .fixed, 0, true, true, false, .s 1 2⟩] }
    let f := s.fl
    let cap := State.capture { s with fl := { f with slot := 2, rest := f.rest.drop 1 } }
    let p : Split :=
      { code := 1, detail := 65535, faddr := 0, smask := 2, sres := 2, epc := f.pc, lit := f.lit, capv := true, phase := f.phase
        gen := f.gen, bytes := cap.2.1, line := 0, mig := false }
    let r := (cap.1.endFlight.retireAll 0).returnWork 0
    s.wlog = [] ∧ s.me.trapm = false
      ∧ isOk (writeVirtual r (r.spaceOf (coreOf 0) (r.ctx 0).node) (dieOf (coreOf 0)) (r.ctx 0).tfb.toNat (frameBytes 0 p)) = true
      ∧ (mapped fun x => { x with trapm := true }).me.trapm = true := by decide +kernel

theorem witness_ReturnExitAndDictionarySwitch :
    (let s := { s0 with fl := { s0.fl with rest := [(1, .rte), (2, .scnop)] } }
     1 < s.fl.rest.length)
      ∧ (∀ sres ∈ [0, 12],
        let s := inFlight { x0 with trapm := true, sres := sres } k0
        s.fl.rest.length ≤ 1 ∧ s.me.trapm = true ∧ s.me.sres ≤ 12 ∧ s.me.capv = false ∧ (s.me.sres = 0 ∨ s.me.sres = 12))
      ∧ (∀ sres ∈ [0, 1, 11, 12],
        let s := mapped fun x => { x with tfb := 0x4000, trapm := true, sres := sres, capv := true }
        let r := s.retireAll 0
        (r.ctx 0).trapm = true ∧ (r.ctx 0).sres ≤ 12
          ∧ isOk (readVirtual r (r.spaceOf (coreOf 0) (r.ctx 0).node) (dieOf (coreOf 0)) (r.ctx 0).tfb.toNat 3072) = true
          ∧ isOk (readVirtual r (r.spaceOf (coreOf 0) (r.ctx 0).node) (dieOf (coreOf 0)) (2 ^ 40) 24) = false)
      ∧ s0.me.trapm = false ∧ 12 < (inFlight { x0 with trapm := true, sres := 13 } k0).me.sres
      ∧ ({ s0 with fl := { s0.fl with after := .exit } } : State).fl.after = .exit
      ∧ isOk (s0.placeAligned 3 .read false 8 0 24) = false ∧ isOk ((mapped id).placeAligned 3 .read false 8 0x4000 24) = true
      ∧ (let w := BitVec.ofNat 192 (2 ^ 64 * 64 + 2 ^ 128 * 65534)
        w.extractLsb' 0 6 = 0 ∧ w.extractLsb' 64 6 = 0 ∧ (w.extractLsb' 128 16).toNat ≤ 65534 ∧ w.extractLsb' 144 48 = 0)
      ∧ ¬((BitVec.ofNat 192 (2 ^ 128 * 65535)).extractLsb' 128 16).toNat ≤ 65534 := by decide +kernel

theorem witness_FaultsAreTakenByClass :
    s0.me.trapm = false ∧ (inFlight { x0 with trapm := true } k0).me.trapm = true ∧ 0x20 ≤ 0x20 ∧ 0x10 ≤ 0x1F ∧ 0x1F < 0x20 ∧ 0x0F < 0x10 := by
  decide +kernel

/-- A captured load of slot 4, in the frame of its bundle. -/
def captured : State :=
  let s := inFlight x0 k0
  { s with fl := { s.fl with slot := 4, cap := some [(slotBase 4 + 0x18, 1), (slotBase 4 + 0x180, 7)] } }

/-- Keys of a place, where it was found. -/
def keysAt (p : Placed) : List Nat :=
  match p with
  | .ok (srcs, _) => placedKeys srcs
  | .error _ => []

/-- A first map that holds W-space granules of PM and of CSM. -/
def withMap : State :=
  inFlight { x0 with maps := [(0, [{ zeroed 0x200000 with kind := 0, carry := 0 }, { zeroed 0x80 with wbase := 0x80, carry := 0 }])] } k0

/-- Places of every space, found and not found; data of the core's own memory, and not; loads with a captured value and without one. -/
theorem witness_LoadsLandLater :
    s0.wlog = [] ∧ s0.fl.live = true ∧ s0.capturedLoad = none ∧ captured.capturedLoad.isSome = true ∧ captured.fl.live = true
      ∧ isOk (s0.placeAligned 0 .read false 4 0x2FFFFC 4) = true ∧ isOk (s0.placeAligned 0 .read false 4 0x2FFFFD 4) = false
      ∧ isOk (s0.placeAligned 0 .read false 4 0x1000000 4) = false ∧ isOk (withMap.placeAligned 1 .read false 32 0x60 128) = true
      ∧ isOk (withMap.placeAligned 1 .read false 32 0xA0 128) = false ∧ isOk (s0.placeAligned 2 .read false 32 0x7FFF80 128) = true
      ∧ isOk (s0.placeAligned 2 .read false 32 0x7FFFA0 128) = false ∧ isOk ((mapped id).placeAligned 3 .read false 8 0x3FFFFFF8 8) = true
      ∧ isOk ((mapped id).placeAligned 3 .read false 8 0x40000000 8) = false
      ∧ isOk (s0.placeParts 2 .read 1 ((List.range 4).map fun i => (0x100 + 128 * i, 3))) = true
      ∧ isOk (s0.placeParts 2 .read 8 [(0, 8), (4, 8)]) = false
      ∧ (s0.ownNow = true ∧ s0.red = [] ∧ s0.anyBad = false ∧ allOwn s0.myCore (keysAt (s0.placeAligned 0 .read false 4 0x200000 4)) = true
        ∧ (keysAt (s0.placeAligned 0 .read false 4 0x200000 4)).length = 4 ∧ (6 : Nat) ≤ (1023#10).toNat)
      ∧ allOwn s0.myCore (keysAt (s0.placeAligned 2 .read false 4 0x200000 4)) = false := by decide +kernel

/-- A reduction that is pending on a word of the core's PM. -/
def pending (off : Nat) : RedEntry :=
  { key := keyOf (.pm 1 off), keys := keysFrom (keyOf (.pm 1 off)) 4, op := 0, bytes := 4, ordered := false, acc := 1
    lanes := 0, parts := [(1, 0, 1)], ctxs := [5], soft := none, relaxed := false, born := 0 }

theorem witness_StoresReachTheirBytes :
    s0.wlog = [] ∧ s0.fl.live = true ∧ isOk (s0.placeAligned 0 .write false 8 0x2FFFF8 8) = true
      ∧ isOk (s0.placeAligned 0 .write false 8 0x2FFFFC 8) = false ∧ isOk (s0.placeAligned 2 .write false 32 0x7FFF80 128) = true
      ∧ isOk ((mapped id).placeAligned 3 .write false 8 0x8000 8) = true ∧ isOk (s0.placeAligned 3 .write false 8 0x8000 8) = false
      ∧ (let keys := keysAt (s0.placeAligned 0 .write false 8 0x200000 8)
        allOwn s0.myCore keys = true ∧ s0.ownNow = true
          ∧ ∀ e ∈ { s0 with red := [pending 0x80] }.red, ∀ k ∈ keys, lineOf k ≠ lineOf e.key)
      ∧ allOwn s0.myCore (keysAt (s0.placeAligned 0 .write false 8 0x400000 8)) = false
      ∧ stt2Bad (tcOf 3 127 127 0) = false ∧ stt2Bad (tcOf 7 3 127 0) = true
      ∧ s0.tileNews s0.myCore 0 = [] := by decide +kernel

theorem witness_AtomicsAndReductions :
    s0.wlog = [] ∧ (∀ p ∈ s0.me.pend, p.id ≠ s0.portId)
      ∧ isOk (s0.placeAligned 2 .write false 8 0x7FFFF8 8) = true ∧ isOk (s0.placeAligned 2 .write false 8 0x800000 8) = false
      ∧ isOk (s0.placeAligned 0 .write false 4 0x200002 4) = false
      ∧ (let keys := keysAt (s0.placeAligned 0 .write false 8 0x200000 8)
        allOwn s0.myCore keys = true ∧ s0.ownNow = true ∧ s0.red = [] ∧ s0.anyBad = false ∧ keys.Nodup ∧ s0.drops (keyOf (.pm 1 0)) = false)
      ∧ allOwn s0.myCore (keysAt (s0.placeAligned 2 .write false 8 0x200000 8)) = false := by decide +kernel

/-- A reduction outside the scope and none; a fused cluster and one that is not; a line that is there and one that is not; a port that
holds no store. -/
theorem witness_OrderingAndCacheInstructions :
    s0.wlog = [] ∧ s0.red = [] ∧ covers 0 s0.myCore (pending 0).key = covers 0 s0.myCore (pending 0x40).key
      ∧ ({ s0 with clusters := [(0, { Cluster.init with fused := true })] }.cluster (clusterOf s0.myCore)).fused = true
      ∧ (s0.cluster (clusterOf s0.myCore)).fused = false
      ∧ isOk (s0.placeParts 2 .write 1 [(0x7FFF00, 128), (0x7FFF80, 128)]) = true ∧ isOk (s0.placeParts 2 .write 1 [(0x7FFF80, 128), (0x800000, 128)]) = false
      ∧ (∀ j, j < 4 → (s0.ctx (4 * s0.myCore + j)).port = [])
      ∧ isOk ((mapped id).placeMine 3 .read false 0x8000 128) = true
      ∧ (keysAt ((mapped id).placeMine 3 .read false 0x8000 128)).all cacheable = true := by decide +kernel

/-- A mask that leaves element 3 out and element 127 in; formats of every class. -/
theorem witness_LaneMovesReductionsAndScans :
    (let s := inFlight { x0 with m := [(1, 2 ^ 127)], s := [(2, 3), (3, 127)] } k0
     s.wlog = [] ∧ s.acts 1 1 3 = false ∧ s.acts 1 1 127 = true ∧ s.acts 1 0 3 = true)
      ∧ (isFloatFmt 17 = false ∧ 8 ≤ fmtWidth 17) ∧ (isFloatFmt 23 = false ∧ 8 ≤ fmtWidth 23) ∧ isFloatFmt 0 = true ∧ isFloatFmt 2 = true
      ∧ 3 ≤ (3#4).toNat ∧ 3 ≤ (5#4).toNat ∧ ((List.range 32).filter fun _ => false) = [] := by decide +kernel

/-- Core 1 with tile 0 of a shape. -/
def shaped (f r b g : Nat) : State := inFlight { x0 with tgrant := 0xFFFF } { k0 with tctl := [(0, tcOf f r b g)] }

theorem witness_TransformsWriteTiles :
    s0.wlog = []
      ∧ (7#5 ∈ [7#5, 5, 6, 10, 11, 12, 13, 16]) ∧ ((fmtWidth 7 = 4 ∧ 64 < 127 + 1)) ∧ ¬((fmtWidth 7 = 4 ∧ 64 < 63 + 1) ∨ (fmtWidth 7 = 6 ∧ True))
      ∧ (fmtWidth 5 = 6 ∧ 98 % 3 ≠ 0) ∧ (fmtWidth 5 = 6 ∧ 96 % 3 = 0)
      ∧ (let s := shaped 3 127 127 0
        ((s.source 0 3).nrow = 128 ∧ (s.source 0 3).ecnt = 128 ∧ ¬1024 < (s.source 0 3).nrow * fmtWidth 3 ∧ s.tileNews s.myCore 0 = []))
      ∧ 1024 < ((shaped 0 127 127 0).source 0 0).nrow * fmtWidth 0
      ∧ isFmt 10 = true ∧ isBlockFmt 10 = true ∧ isBlockFmt 3 = false ∧ ((shaped 0 3 15 0).source 0 0).ecnt = 4
      ∧ ((shaped 0 3 15 0).source 0 0).nrow % 4 = 0 ∧ ((shaped 0 2 15 0).source 0 0).nrow % 4 ≠ 0 ∧ isFloatFmt (tcFmt (tcOf 17 3 3 0)) = false := by
  decide +kernel

theorem witness_ScaleLatchesChangeLater : s0.wlog = [] ∧ s0.mine.latchFrom ≤ 0 ∧ s0.mine.latchFrom ≤ 106 := by decide +kernel

/-- A matrix queue entry that context 5 has put there. -/
def entryOf (op : MatrixOp) (begun : Bool) : MatrixEntry := { ctx := 5, at' := 0, op := op, mark := 9, begun := begun }
def queueOfEight : Core := { k0 with mq := (List.range 8).map fun n => entryOf (.acz n) false }

theorem witness_MatrixQueueInstructions :
    s0.wlog = [] ∧ (inFlight { x0 with compat := true } k0).me.compat = true ∧ s0.me.compat = false
      ∧ 8 ≤ (inFlight x0 queueOfEight).mine.mq.length ∧ s0.mine.mq.length < 8
      ∧ ((inFlight { x0 with handles := [(3, 4)] } k0).me.slotFor 3).isSome = true ∧ s0.me.slotFor 3 = none
      ∧ (inFlight x0 { k0 with free := [] }).mine.free = [] ∧ s0.mine.free = 0 :: (List.range 16).drop 1
      ∧ s0.mine.committedKinds 63 = none ∧ s0.mine.committedKinds 15 = some (romKinds 15) ∧ s0.mine.committedKinds 1 = some 37
      ∧ argBad s0.me.tgrant (kindOf 37 0) 0 = true
      ∧ (∀ j, j < 8 → argBad 0xFFFF (kindOf 37 j) 15 = false)
      ∧ (inFlight { x0 with tgrant := 0xFFFF } { k0 with free := [] }).mine.free.length
        < ((inFlight { x0 with tgrant := 0xFFFF } k0).me.unmapped (outHandles 37 (List.replicate 8 15))).length
      ∧ ((inFlight { x0 with tgrant := 0xFFFF } k0).me.unmapped (outHandles 37 (List.replicate 8 15))).length ≤ s0.mine.free.length := by
  decide +kernel

/-- An image at the lowest address of the core's own PM whose header and one word are zeros; descriptors of zeros, and a bad one. -/
theorem witness_ImagesAndDescriptorsAreQueued :
    s0.wlog = [] ∧ s0.mine.mq.length < 8 ∧ 8 ≤ (inFlight x0 queueOfEight).mine.mq.length ∧ s0.me.port = []
      ∧ (ownPm s0.myCore 0x200000 12 = true ∧ s0.commitNat 0x200000 8 = 0 ∧ wordOk 0 0 1 (s0.commitNat 0x200008 4) = true
        ∧ ∀ j, j < 8 → kindOf 0 j ≠ 3)
      ∧ ownPm s0.myCore 0x2FFFF8 12 = false
      ∧ ownPm s0.myCore 0x2FFFC0 64 = true ∧ drainBad s0 (List.replicate 8 0) 0 false false = false
      ∧ drainBad s0 (List.replicate 8 0) 7 true true = false ∧ drainBad s0 (2 ^ 40 :: List.replicate 7 0) 0 false false = true
      ∧ ownPm s0.myCore 0x200001 64 = true := by decide +kernel

theorem witness_BankRowsReadAndWritten :
    let s := inFlight { x0 with compat := true } { k0 with bankPtr := [(15, 511)] }
    s.wlog = [] ∧ s0.me.compat = false ∧ s.me.compat = true ∧ s.mine.routine = none ∧ (14 : Nat) ≠ 15
      ∧ ∀ c ∈ List.range 16, tabGet 0 s.mine.bankPtr c < 512 := by decide +kernel

/-- A routine of context 5 at word 0 of the store. -/
def routine0 : Routine := Routine.start 5 0 1 100 (List.replicate 8 0) []
def running (r : Routine) : State := inFlight { x0 with handles := [(0, 2)] } { k0 with routine := some r, mq := [entryOf (.call 16 0 [] []) true] }

theorem witness_MicroControl :
    s0.wlog = [] ∧ s0.mine.routine = none ∧ (running routine0).mine.routine = some routine0
      ∧ (let r := { routine0 with loops := [(9, 2), (8, 1), (7, 1), (6, 1)] }
        r.loops.head?.map (·.1) ≠ some r.mpc ∧ 4 ≤ r.loops.length)
      ∧ ¬(routine0.loops.head?.map (·.1) ≠ some routine0.mpc ∧ 4 ≤ routine0.loops.length)
      ∧ (let r := { routine0 with loops := [(0, 2), (8, 1), (7, 1), (6, 1)] }
        ¬(r.loops.head?.map (·.1) ≠ some r.mpc ∧ 4 ≤ r.loops.length))
      ∧ routine0.sclA = [] ∧ { routine0 with sclB := [94, 95] }.sclB = 94 :: [95]
      ∧ (running routine0).mine.mq = [] ++ entryOf (.call 16 0 [] []) true :: [] ∧ isArray (entryOf (.call 16 0 [] []) true).op = true := by
  decide +kernel

theorem witness_MicroCopiesAndProducts :
    (running routine0).wlog = [] ∧ (running routine0).copyNews (running routine0).myCore 0 = []
      ∧ ((running routine0).ctx 5).slotFor 15 = none ∧ ((running routine0).ctx 5).slotFor 0 = some 2
      ∧ (let r := { routine0 with target := some 0 }
        r.target.bind ((running r).ctx 5).slotFor = some 2 ∧ formatPair r.afmt r.bfmt = some (32, false))
      ∧ formatPair 16 16 = some (16, true) ∧ formatPair 1 1 = some (64, false)
      ∧ (let x : OpCopy := { rows := [1], row0 := 0, nrow := 128, shape := 0, koff := 0, kc0 := 0 }
        window (some x) ≠ [] ∧ true ≠ routine0.int) := by decide +kernel

/-- An entry of each kind that may begin, before one that waits. -/
theorem witness_MatrixEntriesBeginAndEnd :
    (∀ op ∈ [MatrixOp.call 0 0 (List.replicate 8 0) [], .acz 0, .acz 15, .acrel 0, .acrel 15, .mpsld 16 1023 0 [0xA0000000],
        .drain 0 7 true true (List.replicate 8 0)],
      let s := inFlight { x0 with handles := [(0, 2)] } { k0 with mq := [entryOf op false, entryOf (.acz 1) false], cyc := 3 }
      s.wlog = [] ∧ (s.core 1).mq = entryOf op false :: [entryOf (.acz 1) false] ∧ mayBegin s 1 [] (entryOf op false) = true)
      ∧ (inFlight x0 { k0 with entries := [(16, 0, 1, 0)] }).mine.entries.find? (fun q => q.1 == 16) = some (16, 0, 1, 0)
      ∧ (let k := { k0 with mq := [entryOf (.drain 0 0 false false []) true, entryOf (.acz 1) true], arrayEnds := some 3 }
        k.mq = [entryOf (.drain 0 0 false false []) true] ++ entryOf (.acz 1) true :: [] ∧ isArray (MatrixOp.acz 1) = true
          ∧ isArray (MatrixOp.drain 0 0 false false []) = false ∧ k.arrayEnds = some 3)
      ∧ (running routine0).mine.arrayEnds = none
      ∧ ({ k0 with mps := [(0, 0xA0000000)] } : Core).microAt routine0 = .mend := by decide +kernel

theorem witness_DrainEndWritesAndPosts :
    let d : DrainRun :=
      { ctx := 5, adjoint := false, toRegs := true, desc := [0, 0, 0, 2 ^ 18, 0, 0, 0, 0], handle := 0, slots := [none], row := 1, next := 0, pace := 1, ends := 30
        cells := [(keyOf (.pm 1 0), 1), (keyOf (.scratch 1 0), 2)], regs := [(0, 1), (1, 2)], flags := 63, peek := none }
    let s := inFlight x0 { k0 with drainRun := some d }
    let f := drainDesc (d.desc.map BitVec.toNat)
    let kept := d.cells.filter fun c => !(c.1 % 8 == 4 && decide (16384 * (s.core (c.1 / 8 / 2 ^ 18)).nw ≤ c.1 / 8 % 2 ^ 18))
    s.wlog = [] ∧ (s.core 1).drainRun = some d ∧ f.rows ≤ d.row ∧ f.fen = true ∧ kept.length = 1
      ∧ (∀ e ∈ { s with red := [pending 0x80] }.red, ∀ c ∈ kept, lineOf c.1 ≠ lineOf e.key) ∧ (kept.map (·.1)).Nodup ∧ (∀ t ∈ s.tlb, t.dup = false)
      ∧ s.drops (keyOf (.pm 1 0)) = false := by decide +kernel

/-- Bytes of words of 8 bytes in the PM of a core. -/
def pmWords (core off : Nat) (ws : List Nat) : Tab Byte :=
  ((ws.zipIdx).flatMap fun p => cellsAt (keysFrom (keyOf (.pm core (off + 8 * p.2))) 8) p.1).foldl (fun m c => tabSet 0 m c.1 c.2) []

/-- A block of each operation that passes the checks of R122, at the lowest address of core 1's own PM. -/
def goodBlocks : List (Nat × List Nat) :=
  let v := 3 * 2 ^ 62
  let c := 2 ^ 63
  [(1, [2 ^ 47 + 3 * 2 ^ 32, v, c, 4096, 2 ^ 24 + 0x200040]), (2, [0, c, 2 ^ 32, 32]), (3, [0, 0, c, 2 ^ 32 + 32, 0]), (4, [0, 0, 0, 128, 0, 0]),
    (5, [0, 0, 0, 0, c, 32]), (6, [0, c, 0, 2 ^ 32 * 36, v]), (7, [0, 0, c, 2 ^ 32 * 292, v]), (8, [0, 0, 0x200000, 4, v, 0]),
    (9, [0, 0, 0x200000, 2 ^ 32 * 19, v, 0]), (10, [0, 2 ^ 20 - 1]), (11, [0, 1, 0x200040]), (12, [0, 31, 0x2FFFF8]), (13, [0, 31, 2 ^ 49]),
    (14, [0, 0, 2 ^ 52 + 2 ^ 48]), (15, [0, 0, 0]), (16, [0, 31]), (17, [0, 3, v, c, 4]), (18, [0, 7, 0, 0, 1]), (19, [0, 0, v, 64]),
    (20, [0, 2 ^ 8, 0, 1, v]), (21, [0, 1, v]), (22, [0, v, 1])]

/-- The block in memory, and a launch whose stage 0 may push into its stage 1. -/
def withBlock (b : List Nat) (k : Core) : State :=
  let s := inFlight { x0 with launch := 1 } k
  { s with mem := pmWords 1 0 b, dev := { s.dev with launches := [(1, staged 1 [] [])] } }

theorem witness_EngineCommandsAreEnqueued :
    (∀ p ∈ goodBlocks, let s := withBlock p.2 k0
      s.wlog = [] ∧ (blockFields p.1).length + 1 = p.2.length ∧ ownPm s.myCore 0x200000 (8 * p.2.length) = true
        ∧ ((List.range p.2.length).map fun i => s.commitNat (0x200000 + 8 * i) 8) = p.2 ∧ s.blockOk p.1 p.2 = true
        ∧ ∀ q ∈ queuesOf p.1 p.2, (queueOf s.mine q).cmds.length < queueDepth q)
      ∧ ownPm s0.myCore 0x200000 32 = true ∧ 0x200004 % 8 ≠ 0 ∧ s0.blockOk 2 [0, 0, 0, 0] = false := by decide +kernel

/-- A command of context 5 at position 0. -/
def cmdOf (op : Nat) (block data : List Nat) (begun : Bool) : Cmd :=
  { op := op, ctx := 5, node := 64, launch := 1, stage := 0, inst := 0, flag := 3, fcore := 1, baddr := 0x200000, block := block, pos := 7
    mark := 9, org := org0, begun := begun, since := 0, void := false, retry := none, moved := 0, pointer := 0
    data := data }
def queued (q : Nat) (cs : List Cmd) : State := inFlight x0 { k0 with queues := [(q, { Queue.init with cmds := cs })] }

/-- The code of the fault that a command meets when it begins. -/
def meets (s : State) (core : Nat) (c : Cmd) : Option Nat :=
  let u := s.ownBefore core c.mark
  match u.keepOf core { c with since := u.dev.clock } with
  | .ok (kept, v) => (v.runOn core { c with since := u.dev.clock, data := kept }).fault.map (·.code)
  | .error e => some e.code

/-- A queue's head fails, and so does the one of a full queue; what a copy and its completion need. -/
theorem witness_EngineCommandsBeginAndComplete :
    (queued 4 [cmdOf 3 [0, 0, 0, 0, 0] [] false]).toBegin 1 4 = some (cmdOf 3 [0, 0, 0, 0, 0] [] false)
      ∧ zeroSize (cmdOf 3 [0, 0, 0, 0, 0] [] false) = true
      ∧ (let c := cmdOf 3 [0, 0x200000, 0x201000, 2 ^ 32 + 32, 0] [] false
        let s := queued 4 [c]
        s.toBegin 1 4 = some c ∧ zeroSize c = false ∧ meets s 1 c = none)
      ∧ (∀ c ∈ [cmdOf 1 [0, 0x200000, 0x201000, 256, 0] [] false, cmdOf 19 [0, 0, 3 * 2 ^ 62 + 0x6000, 128] [] false,
          cmdOf 22 [0, 3 * 2 ^ 62 + 0x6000, 1] [] false],
        (queued 0 [c]).toBegin 1 0 = some c ∧ zeroSize c = false)
      ∧ (let c := cmdOf 4 [0, 0, 0, 1, 0x200000, 0] [] false
        let s := queued 5 [c]
        s.toBegin 1 5 = some c ∧ zeroSize c = false ∧ (meets s 1 c).isSome = true ∧ meets s 1 c ≠ some 0
          ∧ (s.queue 1 5).cmds.head?.map (·.pos) = some c.pos)
      ∧ (let c := cmdOf 3 [0, 0x200000, 0x201000, 2 ^ 32 + 32, 0] [] false
        let s := inFlight { x0 with bank := some (0, 32, 3) } { k0 with queues := [(4, { Queue.init with cmds := [c] })] }
        s.toBegin 1 4 = some c ∧ meets s 1 c = some 0)
      ∧ (∀ ptr ∈ [0, 2 ^ 24 + 0x2FFFFC],
        let c := cmdOf 1 [0, 0x200000, 0x201000, 256, ptr] [] true
        let s := queued 0 [c]
        let r := copyBytes 1 c.node (c.word 1) (c.word 2) (128 / 32 + 1) c.moved c.moved 128 s
        s.head 1 0 = some c ∧ c.moved + 128 < c.word 3 ∧ c.moved % 128 = 0 ∧ c.pointer < c.moved + 128 ∧ r.fault = none
          ∧ (s.red = [] ∧ s.dev.poison = [] ∧ s.dev.stacksGone = 0 ∧ s.dev.channelsGone = 0 ∧ s.dev.links = [] ∧ s.dev.errs = []
            ∧ s.ctxs.all (fun p => p.2.bank == none) = true)
          ∧ c.word 1 < 2 ^ 24 ∧ bitOf (c.word 1) 20 = false ∧ c.word 1 % 2 ^ 20 + (c.moved + 128) ≤ 2 ^ 20
          ∧ c.word 2 < 2 ^ 24 ∧ bitOf (c.word 2) 20 = false ∧ c.word 2 % 2 ^ 20 + (c.moved + 128) ≤ 2 ^ 20
          ∧ c.word 4 % 2 ^ 20 < 2 ^ 24 ∧ bitOf (c.word 4 % 2 ^ 20) 20 = false ∧ c.word 4 % 2 ^ 20 + 4 ≤ 2 ^ 20
          ∧ (List.range 2).all (fun k => !(s.core k).sealed) = true ∧ 0x200000 + 128 ≤ 0x201000)
      ∧ (∀ c ∈ [cmdOf 3 [0, 0, 0, 2 ^ 32 + 32, 0] [] true, cmdOf 21 [0, 1, 0] [] true],
        (queued 0 [{ c with moved := unitsOfCmd c }]).head 1 0 = some { c with moved := unitsOfCmd c } ∧ unitsOfCmd c ≤ unitsOfCmd c)
      ∧ (let c := { cmdOf 1 [0, 0x200000, 0x201000, 128, 0] [] true with moved := 128 }
        (queued 0 [c]).head 1 0 = some c ∧ zeroSize c = false ∧ bitOf (c.word 4) 24 = false ∧ c.moved = c.word 3)
      ∧ (let c := cmdOf 1 [0, 0x200000, 0x201000, 4, 0] [] true
        zeroSize c = false ∧ (copyBytes 1 c.node (c.word 1) (c.word 2) (4 / 32 + 1) 0 0 4 (queued 0 [c])).fault = none)
      ∧ (let c := cmdOf 10 [0, 3] [] true
        let s := inFlight x0 { k0 with queues := [(0, { Queue.init with cmds := [c] }), (1, { Queue.init with cmds := [c, c] })] }
        s.head 1 0 = some c ∧ ∀ p ∈ queuesOf 10 c.block, (s.queue 1 p).cmds.head?.map (·.mark) = some c.mark) := by decide +kernel

/-- Context 0 on the placed space, with a tensor of one row of 128 FP8 elements under handle 1. -/
def withTensor (x : Ctx → Ctx) : State :=
  let s := mapped x
  let cells := hbmCells 8 0x30040 [0x100000, 1 + 128 * 2 ^ 32, 128 + 3 * 2 ^ 32 + 2 ^ 37, 0, 0, 0, 0, 0]
  { s with mem := cells.foldl (fun m c => tabSet 0 m c.1 c.2) s.mem
           dev := { s.dev with launches := [(1, { placeLaunch false with htbase := 0x30000, htlen := 2 })] } }

/-- Entries that are kept, filled and not found, and write-backs whose tensor is there and is not. -/
theorem witness_PreparationsMoveEntries :
    (let p := { prepAt 0 1 with cur := [{ zeroed 0 with carry := 0, wb := true }] }
     let s := inFlight { x0 with prep := some p } k0
     s.wlog = [] ∧ (s.ctx 5).prep = some p ∧ p.halt = none ∧ p.stage = 0 ∧ (s.performUpTo 5 p.bundle).red = []
       ∧ (s.performUpTo 5 p.bundle).anyBad = false)
      ∧ (let p := { prepAt 1 1 with cur := [{ zeroed 0 with carry := 0 }], next := [{ keptFrom 0 with target := 0x800 }] }
        let s := inFlight { x0 with prep := some p } k0
        let left := (p.next.zipIdx.drop p.reached).filter fun e => moves 0 p.cur e.1
        left.length = 1 ∧ s.red = [] ∧ s.anyBad = false ∧ (∀ e ∈ left, e.1.carry ≠ 2) ∧ (left.flatMap fun e => e.1.keys 0).Nodup
          ∧ (∀ e ∈ left, ∀ k ∈ e.1.keys 0, s.drops k = false)
          ∧ ∀ e ∈ left, e.1.carry = 1 → (((p.cur[e.1.ksrc]?).map (·.keys 0)).getD []).length = (e.1.keys 0).length
            ∧ ∀ k ∈ ((p.cur[e.1.ksrc]?).map (·.keys 0)).getD [], k ∉ left.flatMap fun d => d.1.keys 0)
      ∧ (let e := { zeroed 0x400 with carry := 2, bhandle := 1 }
        let p := { prepAt 1 1 with next := [e], org := { org0 with node := placeNode, htbase := 0x30000, htlen := 2 } }
        let s := withTensor fun x => { x with prep := some p }
        p.left 0 = [(e, 0, 0)] ∧ isOk (s.carried 0 p e 0) = true ∧ s.red = [] ∧ s.anyBad = false
          ∧ (∀ k ∈ e.granule 0 0, s.drops k = false)
          ∧ isOk (s.tensorFor (s.originSpace 0 p.org) 0 p.org.htbase p.org.htlen 1) = true
          ∧ isOk (s.carried 0 p { e with bhandle := 2 } 0) = false)
      ∧ (let w : WriteBack := { entry := 0, map := 0, org := { org0 with node := placeNode, htbase := 0x30000, htlen := 2 }, handle := 1, row0 := 0
                                col0 := 0, bytes := List.replicate 128 1, gran := 0, desc := [], advanced := none }
        let s := withTensor fun x => { x with wbacks := [w, { w with handle := 2 }] }
        let r := s.tensorFor (s.originSpace 0 w.org) 0 w.org.htbase w.org.htlen
        isOk (r 1) = true ∧ isOk (r 2) = false ∧ (s.ctx 0).wbHalt = none ∧ w.bytes.length = 128 * (w.gran + 1) ∧ s.red = []
          ∧ { w with gran := 1 }.bytes.length / 128 ≤ { w with gran := 1 }.gran
          ∧ (match r 1 with
            | .ok T => (match placeTileRow s s.seen (s.originSpace 0 w.org) 0 1 .write none T (w.row0 + 0) w.col0 0 128 with
              | .ok (srcs, _) => decide (srcs.filterMap ByteSrc.place).Nodup && (srcs.filterMap ByteSrc.place).length == 128
              | .error _ => false)
            | .error _ => false) = true
          ∧ (∀ tr ∈ s.tlb, tr.dup = false))
      ∧ (∀ p ∈ [{ prepAt 1 1 with moved := true }],
        ((inFlight { x0 with prep := some p } k0).ctx 5).strays = [] ∧ p.halt = none ∧ p.due ≤ 0 ∧ p.stage = 1
          ∧ ((inFlight { x0 with strays := [p] } k0).ctx 5).strays = p :: []) := by decide +kernel

/-- An access at the head of a port. -/
def item (op : PortOp) : PortItem :=
  { id := 8, bundle := 0, rank := 2, cls := 0, scope := 4, acq := false, rel := false, own := false, since := 0, addr := 0, via := [], op := op }

/-- An access of each kind that may perform, and one behind a store to its byte; a late load; a still core. -/
theorem witness_AccessesPerformAndClocksStop :
    (let keys := keysFrom (keyOf (.csm 0 0x100)) 4
     ∀ op ∈ [PortOp.load (keys.map .key), .store (keys.map fun k => (k, 1)), .amo 0 4 (keys.map .key) 1 0, .red 0 4 false (keys.map .key) 1, .fence 255, .post 1 31 1 true],
      let s := inFlight { x0 with port := [item op] } k0
      s.wlog = [] ∧ (s.ctx 5).port[0]? = some (item op) ∧ s.portReady 5 0 = true ∧ s.anyBad = false ∧ s.red = [] ∧ (∀ tr ∈ s.tlb, tr.dup = false)
        ∧ keys.Nodup ∧ ∀ k ∈ keys, s.drops k = false)
      ∧ (let s := inFlight { x0 with port := [item (.store [(keyOf (.csm 0 0), 1)]), item (.load [.key (keyOf (.csm 0 0))])] } k0
        s.portReady 5 1 = false ∧ s.portReady 5 2 = false)
      ∧ s0.lateLandings 1 = []
      ∧ (let s := inFlight { x0 with port := [item (.load [.key (keyOf (.csm 0 0))])], pend := [⟨3, .load, 8, false, false, false, .s 1 1⟩] } { k0 with cyc := 3 }
        s.lateLandings 1 = [(5, 8)] ∧ (s.ctx 5).port.map (·.id) = [8] ∧ s.portReady 5 0 = true ∧ s.anyBad = false ∧ coreOf 5 = 1
          ∧ (∀ i ∈ (s.ctx 5).port, i.op.reads = true) ∧ ∀ j, j < 4 → 4 * 1 + j ≠ 5 → (s.ctx (4 * 1 + j)).port = [])
      ∧ (let s := inFlight { x0 with pend := [⟨3, .load, 8, true, false, true, .s 1 1⟩] } { k0 with cyc := 3 }
        s.lateLandings 1 ≠ [] ∧ ∀ j, j < 4 → ∀ p ∈ (s.ctx (4 * 1 + j)).pend, p.ready = false → p.due ≤ 3 → p.got = true)
      ∧ (let s := inFlight x0 { k0 with oven := 4096 }
        4096 ≤ (s.core 1).oven ∧ (s.core 1).gate = 0 ∧ s.coreStill 1 = true ∧ s.boundOn 1 ≠ [])
      ∧ (4194304 ≤ (inFlight x0 { k0 with oven := 4194304 }).mine.oven) := by decide +kernel

def causeOf (code : Nat) : Cause := { code := code, detail := 0, faddr := 0x99, smask := 1 }
def frame0 : Frame :=
  { epc := 0x40, lit := false, sres := 0, capv := false, map := 0, gen := 0, bytes := [], target := none, after := .none }
def haltOf (told : Told) : Halt := { cause := causeOf 0x12, lines := [40], told := told }

/-- Waits that have reached their limit and not, with an arrival; causes of each class and a wound; waiters on a line; trap queues with
room and without; a yielded context with work. -/
theorem witness_ContextEventsBetweenBundles :
    (let s := inFlight { x0 with waitFrom := some (0, 50, 0x103), arrived := [(3, false)] } { k0 with el := 50 }
     s.wlog = [] ∧ s.waitExpired 5 = true ∧ (s.ctx 5).waitFrom = some (0, 50, 0x103) ∧ (0x103).testBit 8 = true ∧ (3, false) ∈ (s.ctx 5).arrived)
      ∧ (inFlight { x0 with waitFrom := some (0, 50, 3) } { k0 with el := 49 }).waitExpired 5 = false
      ∧ x0.due = none
      ∧ (let x := { x0 with mode := .running, boundary := [causeOf 6, causeOf 0x35, causeOf 0x14], wound := some 3 }
        x.due = some (causeOf 0x35) ∧ { x with boundary := [] }.due = some { code := 5, detail := 3, faddr := 0, smask := 0 }
          ∧ { x with trapm := true, boundary := [causeOf 6] }.due = none)
      ∧ (let x := { x0 with park := some (frame0, causeOf 0x12), monitor := [40], prep := some { prepAt 1 1 with halt := some (haltOf .written) }
                            wbHalt := some (haltOf .unwritable) }
        let s := inFlight x { k0 with queues := [(4, { Queue.init with cmds := [cmdOf 3 [] [] false], halted := some (haltOf .full) })] }
        let t : State := { s with ctxs := [(5, { x with mode := .parked })] }
        (t.ctx 5).parkedNow = true ∧ 40 ∈ (t.ctx 5).monitor ∧ (t.ctx 5).park = some (frame0, causeOf 0x12)
          ∧ ((t.queue 1 4).halted).map (·.lines) = some [40] ∧ (t.queue 1 4).cmds.length = 1)
      ∧ s0.trapsPending 64 = none
      ∧ (let n := mapped fun x => { x with mode := .parkedFull, park := some (frame0, causeOf 0x12) }
        n.trapsPending placeNode = some 0
          ∧ ({ n with mem := ((hbmCells 8 0x4000 [(2 ^ 32 - 255) * 2 ^ 32]).foldl (fun m c => tabSet 0 m c.1 c.2) n.mem) } : State).trapsPending placeNode = some 255
          ∧ (n.ctx 0).mode = .parkedFull ∧ (n.ctx 0).node = placeNode)
      ∧ (let s := mapped fun x => { x with mode := .yielded }
        (s.ctx 0).mode = .yielded ∧ s.decide 0 ≠ .park) := by decide +kernel

/-- A lock command on handle 32, whose home is 0: level, tile and mode. -/
def lockCmd (op lvl tile mode : Nat) : Cmd :=
  cmdOf op (if op = 12 then [0, 0, 0x200080] else if op = 16 then [0, 0] else [0, 32, mode * 2 ^ 50 + lvl * 2 ^ 48 + tile]) [] false

/-- A lock that a context holds in a mode, or waits for. -/
def lockOf (ctx lvl tile mode want ord : Nat) : LockEntry :=
  { node := 64, handle := 32, lvl := lvl, tile := tile, line := 0, ctx := ctx, ord := ord, mode := mode, want := want, fcore := 1, flag := 3
    pat := x0.cmpat, esc := false }

/-- Context 5 with a transaction, or none, before home 0, and a command at the head of its core's queue 13. -/
def locking (txn : Option Nat) (es : List LockEntry) (c : Cmd) : State :=
  { inFlight { x0 with txn := txn, txnPat := x0.cmpat, txnLlim := 64 } { k0 with queues := [(13, { Queue.init with cmds := [c] })] } with
    clusters := [(0, { Cluster.init with home := { age := 0, entries := es, late := [], ages := [(3, 2000)], cancels := [(5, 1)] } })] }

/-- For each clause a home and a command that meet what it asks. -/
theorem witness_LockHomesGrantAndRelease :
    (let s := locking (some 1) [] (lockCmd 12 0 0 0)
     s.wlog = [] ∧ (s.home 0).ages.find? (fun a => a.1 == 3) = some (3, 2000) ∧ (s.home 0).ages.find? (fun a => a.1 == 0) = none
       ∧ (s.home 0).cancels.find? (fun a => a.1 == 5) = some (5, 1) ∧ (s.home 0).cancels.find? (fun a => a.1 == 6) = none ∧ (s.ctx 5).txn = some 1
       ∧ s.lockReady 1 0 = some (lockCmd 12 0 0 0) ∧ s.lockReady 1 1 = none ∧ s.holdsLocks 5 = false ∧ 0x200080 % 2 ^ 20 + 8 ≤ 2 ^ 20
       ∧ (s.heldAt 1 false ((resKeys 1 (lockCmd 12 0 0 0)).map .key)).isSome = false ∧ (s.core 1).sealed = false
       ∧ ({ s with ctxs := [(5, { x0 with bank := some (0, 32, 3) })] }.heldAt 1 false ((resKeys 1 (lockCmd 12 0 0 0)).map .key)).isSome = true)
      ∧ (let s := locking none [] (lockCmd 15 0 0 0)
        (s.performBefore 5 9).pendingBefore 5 9 = false ∧ ((s.performBefore 5 9).ctx 5).txn = none
          ∧ (let t : State := { s with ctxs := [(5, { s.ctx 5 with port := [{ id := 8, bundle := 0, rank := 2, cls := 0, scope := 4, acq := false
                                                                              rel := false, own := false, since := 0, addr := 0, via := []
                                                                              op := .load [.key (keyOf (.pm 2 0))] }] }),
              (9, { x0 with bank := some (0, 32, 3) })] }
            (t.performBefore 5 9).pendingBefore 5 9) = true)
      ∧ (locking (some 1) [] { lockCmd 13 0 0 7 with void := true }).lockReady 1 0 = some { lockCmd 13 0 0 7 with void := true }
      ∧ (s0.ctx 5).inst = (lockCmd 12 0 0 0).inst ∧ (s0.ctx 5).mode = .running ∧ (Ctx.init).mode = .unbound
      ∧ (locking none [] (lockCmd 15 0 0 0)).lockReady 1 0 = some (lockCmd 15 0 0 0)
      ∧ (locking none [lockOf 5 0 0 1 0 1] (lockCmd 12 0 0 0)).holdsLocks 5 = true := by
  decide +kernel

theorem witness_LockHomesGrantAndRelease_requests :
    (let n := lockName (lockCmd 13 1 9 7)
        let h (es : List LockEntry) : LockHome := (locking (some 1) es (lockCmd 13 1 9 7)).home 0
        n.handle ≠ 0 ∧ bits ((lockCmd 13 1 9 7).word 2) 50 3 = 7 ∧ (lockCmd 13 1 9 7).flag < 32
          ∧ (h [lockOf 5 0 0 7 0 1]).has 5 (· == n) = false ∧ (h [lockOf 5 0 0 7 0 1]).covered 5 n 7 = true
          ∧ (h []).covered 5 n 7 = false ∧ (h []).parentPresent 5 n 7 = false
          ∧ (let g := h [lockOf 5 0 0 2 0 1]
            g.covered 5 n 7 = false ∧ g.parentPresent 5 n 7 = true ∧ g.entries.filter (fun d => d.name == n) = [] ∧ g.parentGranted 5 n 7 = true
              ∧ ∀ d ∈ g.entries, d.ctx = 5 → d.want = 0))
      ∧ (∀ ord ∈ [1, 3],
        let n := lockName (lockCmd 13 0 0 7)
        let g := (locking (some ord) [lockOf 6 0 0 1 0 2] (lockCmd 13 0 0 7)).home 0
        g.has 5 (· == n) = false ∧ g.covered 5 n 7 = false ∧ g.parentPresent 5 n 7 = true ∧ g.entries.length + 64 ≤ 4096 ∧ ¬n.lvl = 2
          ∧ g.entries.filter (fun d => d.name == n) = [lockOf 6 0 0 1 0 2] ∧ compat x0.cmpat 1 7 = false)
      ∧ (∀ mode ∈ [1, 7],
        let n := lockName (lockCmd 14 0 0 mode)
        let e := lockOf 5 0 0 1 0 1
        let g := (locking (some 1) [e] (lockCmd 14 0 0 mode)).home 0
        g.entryOf 5 n = some e ∧ e.mode ≠ 0 ∧ joinMode e.mode mode = mode ∧ g.parentPresent 5 n mode = true ∧ g.parentGranted 5 n mode = true
          ∧ g.entries.filter (fun d => d.name == n) = [e])
      ∧ (let n := lockName (lockCmd 15 0 0 0)
        let e := lockOf 5 0 0 7 0 1
        let w := lockOf 6 0 0 0 7 2
        let g := (locking (some 1) [e, w] (lockCmd 15 0 0 0)).home 0
        n.handle ≠ 0 ∧ g.has 5 n.passes = false ∧ g.entries.filter (fun d => d.ctx == 5 && d.name == n) = [e]
          ∧ g.entries.filter (fun d => d.name == n) = [e, w] ∧ g.parentGranted 6 n 7 = true ∧ ∀ d ∈ g.entries, d.ctx = 6 → d ≠ w → d.want = 0) := by
  decide +kernel

/-- A root node that carries a domain, a ring with one launch record at the queue's head, its stage record and dictionary descriptor. -/
def launching (q : Tab HwQueue) (ls : Tab Launch) : State :=
  let words (pa : Nat) (ws : List Nat) : List (Nat × Byte) := hbmCells 8 pa ws
  let cells := words 0x40000 [0, 0, 0, 0, 0, 2 ^ 32 - 1 + 32 * 2 ^ 32, 63 * 2 ^ 32, 0] ++ words 0x41000 [0x42000, 3, 0, 77, 0, 0, 0, 0]
    ++ words 0x42000 [0x43000, 0, 0, 0, 0, 0, 0, 0]
  let d : Domain := { node := 0x40000, root := placeRoot, loc := 0, pasid := 0, live := true, subst := 0, pidx := 0, rovf := 0, fovf := 0 }
  { placed with
    ctxs := [], cores := [], tlb := [], mem := cells.foldl (fun m c => tabSet 0 m c.1 c.2) placed.mem
    dev := { placed.dev with mgmt := some (placeRoot, 0, 0), domains := [d], hwq := q, launches := ls } }

def hwq (state : Nat) (launch : Option Nat) (ring : Nat) : HwQueue :=
  { ring := ring, rsz := 0, head := 0, ptail := 1, node := 0x40000, save := 0, state := state, err := 0, tovf := false, preq := false, prog := 0
    launch := launch, children := [], lastTag := 0, wdFrom := 0, wdOnce := false }

/-- The launch that runs in cluster 0, with indices left. -/
def runs (grid : Nat) : Launch := { placeLaunch false with path := [(0x40000, 32)], node := 0x40000, grid := grid, ran := [], wdlim := 1, tails := [aRecord 9, aRecord 2] }

theorem witness_LaunchesAreAdmittedAndRetired_clean :
    (State.reset.cleanCluster 0).clusterClean 0 = true
      ∧ ({ State.reset with ctxs := [(5, { x0 with port := [{ id := 8, bundle := 0, rank := 2, cls := 0, scope := 4, acq := false, rel := false
                                                              own := false, since := 0, addr := 0, via := [], op := .store [(keyOf (.pm 2 0), 1)] }] }),
        (9, { x0 with bank := some (0, 32, 3) })] }.cleanCluster 0).clusterClean 0 = false := by decide +kernel

theorem witness_LaunchesAreAdmittedAndRetired :
    (let s := launching [(4, hwq 1 none 0x41000)] []
     s.wlog = [] ∧ s.hw 4 = some (hwq 1 none 0x41000) ∧ (hwq 1 none 0x41000).pending ≠ 0 ∧ (s.cluster 0).fused = false
       ∧ (match s.loadNext 4 (hwq 1 none 0x41000) with
         | .ok l => (s.choice 0, s.admits s.dev.nextLaunch l 0, s.admits s.dev.nextLaunch l 99)
         | .error _ => (none, none, none)) = (some 4, some [(0, 0)], none)) := by decide +kernel

theorem witness_LaunchesAreAdmittedAndRetired_load :
    isOk ((launching [(4, hwq 1 none 0x41040)] []).loadNext 4 (hwq 1 none 0x41040)) = true
      ∧ isOk ((launching [(4, hwq 1 none (2 ^ 40))] []).loadNext 4 (hwq 1 none (2 ^ 40))) = false := by decide +kernel

theorem witness_LaunchesAreAdmittedAndRetired_more :
        (let s := launching [(0, hwq 2 (some 1) 0x41000)] [(1, runs 5)]
        s.launch 1 = some (runs 5) ∧ (runs 5).more = true ∧ 1 ∉ (runs 5).clusters ∧ s.choice 1 = some 0 ∧ (s.admits 1 (runs 5) 1).isSome = true
          ∧ s.launch 2 = none ∧ s.mayRetire 1 (runs 5) = false) := by decide +kernel

theorem witness_LaunchesAreAdmittedAndRetired_end :
        (let s := launching [(0, hwq 2 (some 1) 0x41000)] [(1, runs 0)]
        s.mayRetire 1 (runs 0) = true ∧ (∀ c ∈ (runs 0).ran, (s.ctx c).port.all isMark = true) ∧ s.hw (runs 0).queue = some (hwq 2 (some 1) 0x41000) ∧ (2 : Nat) ≠ 4) := by decide +kernel

theorem witness_LaunchesAreAdmittedAndRetired_done :
        (let s := launching [(0, hwq 2 (some 1) 0x41000)] [(1, { runs 0 with doneVa := 0x50000 })]
        isOk (writeVirtual s (s.space 0x40000) 0 0x50000 (leBytes 8 0)) = true ∧ isOk (writeVirtual s (s.space 0x40000) 0 (2 ^ 40) (leBytes 8 0)) = false) := by decide +kernel

theorem witness_LaunchesAreAdmittedAndRetired_wd :
    (runs 5).wdlim ≠ 0 ∧ ¬((0 : Nat) - 0 ≥ (runs 5).wdlim * 65536)
      ∧ (let s := launching [(0, { hwq 2 (some 1) 0x41000 with wdOnce := true })] [(1, runs 5)]
        (runs 5).wdlim * 65536 ≤ ({ s with dev := { s.dev with clock := 65536 } } : State).dev.clock - 0)
      ∧ (mapped id).dev.launches.length = 1 ∧ ((mapped id).ctx 0).launch = 1 ∧ ((mapped id).ctx 0).killable = true := by decide +kernel

/-- A request that came before, sent on or not. -/
def inboundOf (seq kind addr : Nat) (sent : Bool) (routes : List Nat) : Inbound :=
  { seq := seq, kind := kind, addr := addr, data := leBytes 8 1, len := 8, ro := 0, ido := 0, rid := 7, cells := [(keyOf (.stm 0), 1)], routes := routes
    sent := sent }

/-- The placed domain behind the aperture at its address 0. -/
def withAperture (xs : List Inbound) : State :=
  let s := mapped id
  { s with ctxs := [], dev := { s.dev with apbind := some (placeNode, 0), inbound := xs, inSeq := 9, hwq := [(3, hwq 0 none 0)] } }

theorem witness_HostRequestsAreOrdered :
    (let s := withAperture [inboundOf 2 0 0 true [0, 1]]
     let w := inboundOf 2 0 0 true [0, 1]
     s.wlog = [] ∧ (∀ x ∈ s.dev.inbound, x.sent = true ∧ x.kind < 4) ∧ w ∈ s.dev.inbound ∧ w.kind ∈ [0, 2] ∧ w.seq < s.dev.inSeq
       ∧ s.iodHeld 0 = false ∧ s.iodHeld 1 = false ∧ ({ s with dev := { s.dev with links := [(2, { Link.init with retrain := true })] } }.iodHeld 0) = true
       ∧ (s.dev.inbound.find? fun x => x.seq == 2 && x.routes.contains 1) = some w ∧ w.routes.erase 1 ≠ [] ∧ s.red = []
       ∧ (s.dev.inbound.find? fun x => x.seq == 2 && x.routes.contains 2) = none)
      ∧ (let s := withAperture []
        s.dev.inbound = [] ∧ s.hw (3 % 65536) = some (hwq 0 none 0) ∧ s.dev.mbBusy = false ∧ 0xFC + 4 ≤ 0x100
          ∧ s.aperture 0x40 = some (placeNode, 0x40) ∧ ({ s with dev := { s.dev with apbind := none } } : State).aperture 0x40 = none
          ∧ isOk (placeVirtual s s.byte (s.space placeNode) 0 3 .read false 0x40 8) = true
          ∧ (match placeVirtual s s.byte (s.space placeNode) 0 3 .write false 0x40 1 with
            | .ok (srcs, _) => decide (cellsOf srcs [1] ≠ [])
            | .error _ => false) = true
          ∧ (match placeVirtual s s.byte (s.space placeNode) 0 3 .write false (2 ^ 40) 1 with
            | .ok _ => false
            | .error e => !e.mig) = true ∧ s.red = [] ∧ s.anyBad = false)
      ∧ (let x := inboundOf 2 0 0 true [1]
        let z := inboundOf 5 2 0x100018 false []
        let s := withAperture [x, z]
        x.routes.erase 1 = [] ∧ s.dev.inbound = [x, z] ∧ z.addr = 0x100000 + 8 * 3 ∧ z.data.length = 8) := by decide +kernel

/-- A Read command of the STGRD at position 7 in queue 17 of core 0. -/
def aRead : NvmeRead := { core := 0, pos := 7, nsid := 1, lba := 0, blocks := 1, prps := [(keyOf (.hbm 0x6000), 512)], via := [], since := 0 }

/-- Context 0 on the placed space with an endpoint, a posted receive buffer, and commands of queues 15, 17 and 19 under way. -/
def networked : State :=
  let s := mapped fun x => { x with port := [item (.load [.key (keyOf (.host 1 0))]), item (.store [(keyOf (.host 1 8), 1)]), item (.load [.key 0])] }
  let rx : RxBuf := { core := 0, port := 1, node := placeNode, buf := 3 * 2 ^ 62 + 0x6000, len := 128, fcore := 0, flag := 2, ctx := 0, inst := 1, launch := 1, msg := none, got := [] }
  let q (cs : List Cmd) : Queue := { Queue.init with cmds := cs }
  { s with
    cores := [(0, { k0 with queues := [(15, q [cmdOf 18 [0, 7, 0x200000, 0, 4104] [] true, { cmdOf 18 [0, 7, 0x200000, 0, 1] [] true with pos := 8 }]),
      (17, q [cmdOf 20 [0, 2 ^ 8, 0, 1, 3 * 2 ^ 62 + 0x6000] [] true]), (19, q [cmdOf 22 [0, 0, 33] [10, 12, 15] true])] })]
    dev := { s.dev with endpoints := [(9, 0, placeNode)], rx := [rx], nvme := [(32 * 1 + 3, [aRead])] } }

theorem witness_NetworkAndStorageEventsAnswer :
    networked.wlog = [] ∧ networked.endpointNode 9 = some placeNode ∧ networked.endpointNode 8 = none
      ∧ isOk (placeVirtual networked networked.byte (networked.space placeNode) 0 3 .write false 0x6000 8) = true
      ∧ isOk (placeVirtual networked networked.byte (networked.space placeNode) 0 3 .write false (2 ^ 40) 8) = false
      ∧ ((networked.dev.rx.filter fun b => b.port == 1 && b.node == placeNode).find? fun b => b.msg.isNone).isSome = true
      ∧ (networked.dev.rx.filter fun b => b.port == 0 && b.node == placeNode) = []
      ∧ (8 ≤ ([(0, 8)].map (·.2)).sum ∧ ¬9 ≤ ([(0, 8)].map (·.2)).sum)
      ∧ isOk (networked.engWrite 0 placeNode (3 * 2 ^ 62 + 0x6000) (64 + 0) (List.replicate 8 0)) = true
      ∧ isOk (networked.engWrite 0 placeNode (3 * 2 ^ 62 + 0x6000) 0 (List.replicate 64 0)) = true
      ∧ isOk (networked.engWrite 0 placeNode (3 * 2 ^ 62 + 2 ^ 40) 0 (List.replicate 64 0)) = false
      ∧ (networked.cmdAt 0 15 7).isSome = true ∧ (networked.cmdAt 0 15 8).isSome = true ∧ (networked.head 0 15).map (·.pos) = some 7
      ∧ (networked.head 0 17).map (fun c => (c.begun, c.op)) = some (true, 20) ∧ (networked.head 0 19).map (fun c => (c.begun, c.data)) = some (true, [10, 12, 15])
      ∧ 2 * 5 ∈ [10, 12, 15]
      ∧ (∀ c, networked.cmdAt 0 15 7 = some c → (c.begun = true ∧ 1 < (c.word 4 % 2 ^ 32 + 4095) / 4096 ∧ 1 ∉ c.data.drop 1 ∧ c.data.headD 0 = 0)
        ∧ isOk (networked.engRead 0 c.node (c.word 2) (4096 * 1) (min 4096 (c.word 4 % 2 ^ 32 - 4096 * 1))) = true)
      ∧ (networked.pair 1 3)[0]? = some aRead ∧ (networked.pair 1 3)[1]? = none ∧ (networked.head aRead.core 17).map (·.pos) = some aRead.pos
      ∧ ((aRead.prps.flatMap fun p => keysFrom p.1 p.2).zip (List.replicate 512 (1 : Byte))).length = 512
      ∧ (∃ p ∈ networked.dev.nvme, ∃ r ∈ p.2, r.core = 0 ∧ r.pos = 7 ∧ r.since + 15000000000 ≤ 15000000000)
      ∧ ¬(∃ p ∈ networked.dev.nvme, ∃ r ∈ p.2, r.core = 0 ∧ r.pos = 7 ∧ r.since + 15000000000 ≤ networked.dev.clock)
      ∧ networked.requestFrom 0 0 = some 0 ∧ networked.requestFrom 0 9 = none
      ∧ (0 + 1500000 * networked.dev.timeout ≤ 75000000 ∧ networked.dev.clock < 0 + 1500000 * networked.dev.timeout)
      ∧ ((networked.ctx 0).port.map fun i => (opKeys i.op).map (· % 8)) = [[5], [5], [0]] ∧ (1024 - 1024) / 20 = 0
      ∧ (networked.head ((1041 - 1024) / 20) ((1041 - 1024) % 20)).isSome = true := by decide +kernel

theorem witness_ErrorsStartAndPower :
    State.reset.wlog = [] ∧ (State.reset.unitErr 0 255).testing = false
      ∧ ((State.reset.setUnitErr 2 3 { State.reset.unitErr 2 3 with testing := true }).unitErr 2 3).testing = true
      ∧ holdsMemory 2 3 = true ∧ holdsMemory 0 (sramUnit 1 3 0) = false ∧ holdsMemory 3 31 = true ∧ holdsMemory 4 0 = false
      ∧ (s0.ctx (5 % 1024)).killable = true ∧ unitCore 2 3 ≠ some 0 ∧ unitCore 1 7 = some 7
      ∧ (let u := { State.reset.unitErr 0 (sramUnit 1 0 0) with testing := true, parts := [2, 1026, 2, 2050] }
        ((u.parts.map (rowOf 0 (sramUnit 1 0 0))).eraseDups).length = 3 ∧ u.spares = 4 ∧ { u with spares := 2 }.spares < 3)
      ∧ (([8].map (rowOf 2 3)).eraseDups = [0] ∧ tabGet 0 (State.reset.unitErr 2 3).rows 0 < 16 ∧ 16 ≤ tabGet 0 [(0, 16)] 0)
      ∧ (State.reset.unitErr 2 3).spares ≠ 0 ∧ (1 : Nat).testBit 0 = true ∧ ((State.reset.dev.recordFor 1).steps.getD 0 (0, 0, 0)).1 = 0
      ∧ State.reset.dev.period < ({ State.reset.dev with clock := 150000 } : Dev).clock / 150000
      ∧ ({ State.reset.dev with clock := 149999 } : Dev).clock / 150000 ≤ State.reset.dev.period := by
  decide +kernel

/-- The mailbox with its words, in a module whose management space and one domain translate. -/
def mailbox (ws : List Nat) : State :=
  let s := launching [(3, hwq 0 none 0x41000), (4, hwq 3 none 0), (5, hwq 4 (some 1) 0), (6, hwq 2 (some 1) 0)] [(1, runs 0)]
  { s with
    ctxs := [(0, { (placed.ctx 0) with node := 0x40000 }), (4, { x0 with mode := .parked, park := some (frame0, causeOf 0x12) })]
    cores := [(1, { k0 with queues := [(4, { Queue.init with cmds := [cmdOf 3 [] [] false], halted := some (haltOf .written) }),
      (5, { Queue.init with cmds := [cmdOf 3 [] [] false], halted := some { haltOf .written with cause := causeOf 0x14 } })] })]
    dev := { s.dev with mbCmd := (((ws.zipIdx).flatMap fun p => (leBytes 8 p.1).zipIdx.map fun b => (8 * p.2 + b.2, b.1)).foldl
      (fun m c => tabSet 0 m c.1 c.2) []) } }

/-- Objects that are there and are not, and fields at the ends of their ranges. -/
theorem witness_DeviceCommandsAnswer :
    (let s := mailbox [0, 0x40000, 0x42000, 2 ^ 60, 2 ^ 63 + 5]
     s.wlog = [] ∧ (List.range 5).map s.mbWord = [0, 0x40000, 0x42000, 2 ^ 60, 2 ^ 63 + 5])
      ∧ (let s := mailbox []
        s.domainOk 0x40000 = true ∧ s.domainOk 0x41000 = false ∧ s.nodeOk 0x41000 = true ∧ s.nodeOk (2 ^ 40) = false ∧ s.domain 0x41000 = none
          ∧ (match readVirtual s s.mgmtSpace 0 (0x3FFC8 + 48) 8 with | .ok bs => !(leNat bs).testBit 35 | .error _ => false) = true
          ∧ (s.hw 3).map (·.state) = some 0 ∧ (s.hw 4).map (·.state) = some 3 ∧ (s.hw 5).map (·.state) = some 4 ∧ (s.hw 6).map (·.state) = some 2
          ∧ s.hw 65535 = none ∧ s.dev.hwq ≠ []
          ∧ (s.ctx 0).killable = true ∧ (s.ctx 0).parkedNow = false ∧ (s.ctx 1).killable = false ∧ (s.ctx 4).parkedNow = true
          ∧ (s.queue 1 4).halted = some (haltOf .written) ∧ (s.queue 1 5).halted.isSome = true ∧ s.domainOk 0 = false
          ∧ isOk (readWords s s.mgmtSpace (2 ^ 40) 1) = false ∧ isOk (readWords s s.mgmtSpace 0x41000 1) = true ∧ s.dev.mgmt.isSome = true)
      ∧ (placed.dev.hwq = [] ∧ State.reset.dev.mgmt = none)
      ∧ (let root (w : Nat) : Prop := bits w 0 4 = 0 ∧ bits w 4 2 < 2 ∧ bits w 6 6 = 0 ∧ w / 2 ^ 52 = 0
        root 0 ∧ root (2 ^ 52 - 2 ^ 12 + 16) ∧ ¬root (2 ^ 52) ∧ ¬root 32)
      ∧ ([isUnit 1 255, isUnit 2 383, isUnit 3 31, isUnit 4 5, isUnit 0 (sramUnit 255 0 31), isUnit 0 (sramUnit 31 9 63)].all (· == true)) = true
      ∧ ([isUnit 1 256, isUnit 2 384, isUnit 3 32, isUnit 4 6, isUnit 0 (sramUnit 255 0 32), isUnit 0 (sramUnit 32 9 0), isUnit 5 0].all (· == false)) = true
      ∧ (let d := State.reset.dev
        (d.tableByte 12).toNat % 2 = 1 ∧ (({ d with bar0 := [(12, 0)] } : Dev).tableByte 12).toNat % 2 = 0)
      ∧ (2 ^ 57 - 65536) % 65536 = 0 ∧ 2 ^ 32 - 2 < 2 ^ 32 - 1 := by decide +kernel

/-- A root node whose override bit 3 is set and that no domain serves yet. -/
theorem witness_DeviceCommandsAnswer_domcreate :
    let s := { mailbox [] with dev := { (mailbox []).dev with domains := [] } }
    s.nodeOk 0x40000 = true ∧ s.domain 0x40000 = none
      ∧ (match readVirtual s s.mgmtSpace 0 (0x40000 + 48) 8 with | .ok bs => (leNat bs).testBit 35 | .error _ => false) = true := by decide +kernel

/-- A page of the placed domain's tables, moved to HBM of another place, with room for its second copy. -/
theorem witness_DeviceCommandsAnswer_migrate :
    let s := mailbox []
    s.dev.moving = none ∧ (match walk s.seen (s.space 0x40000) 0x1000 .read with
      | .ok tr => tr.loc < 2 && decide (tr.size ≤ 2 ^ 30) && decide ((2 : Nat) ^ 33 % tr.size = 0) && decide (2 ^ 33 + tr.size ≤ 576 * 2 ^ 30)
        && decide ((300 : Nat) * 2 ^ 30 % tr.size = 0) && (decide ((2 : Nat) ^ 33 / (48 * 2 ^ 30) < 6) != decide (300 * 2 ^ 30 / (48 * 2 ^ 30) < 6))
      | _ => false) = true
      ∧ s.red = [] ∧ s.anyBad = false ∧ s.dev.inbound = [] ∧ s.ctxs.all (fun p => p.2.port == []) = true := by decide +kernel

/-! ### Hypotheses of further clauses -/

/-- The turn of a module without power is no start. -/
theorem witness_StepsStopOnlyWithoutPower_halted : noPower.dev.powered = false ∧ noPower.agenda.head? = none := ⟨rfl, rfl⟩

/-- A code that is no NaN; a NaN, an infinity, zeros and numbers for a block; the ends of a format's fields. -/
theorem witness_NumberFormatsAreExactAndRoundOnce :
    decodeFloat 0x7F7FFFFF 0 ≠ .nan ∧ 0x7F7FFFFF < 2 ^ 32 ∧ 255 ≤ 2 ^ (32 - 1 - 23) - 1 ∧ 8388607 < 2 ^ 23
      ∧ [Val.inf false, .nan, .fin false 0 1, .fin true 1 3].length = 4 ∧ [Val.fin false 0 1, .fin true 0 1, .fin false 0 5, .fin true 0 7].length = 4
      ∧ 63 * 16 + 15 = 1023 % 1024 ∧ [0, 0x80000000, 0x7F800000, 1].length = 4 := by decide +kernel

/-- The number a value stands for. -/
def ratOf (v : Val) : Rat :=
  match v with
  | .fin n a b => (if n then -1 else 1) * ((a : Rat) / b)
  | _ => 0

def ctl (set : Nat) (taum : Bool) : SieveCtl := { set := set, taum := taum, prow := false, paddr := 0 }

/-- The row 2, 1, -0, 0 within the ball of radius 4, and outside the one of radius 1; a row with an infinity; records that fit the row of
four, and some that do not. -/
theorem witness_SieveProjectsRowsAndTheirAdjoints :
    let xs := [0x40000000, 0x3F800000, 0x80000000, 0].map fun n => decodeFloat n 0
    let p := decodeFloat 0x3F800000 0
    let k : Support := { tau := 0, grp := 0, taum := false, set := 2, bad := false, act := true, supp := 1, adjsum := 0, sum := 0
                         mask := [true, false, false, false], aux := [true, false, false, false] }
    (xs.map ratOf).sum = 3 ∧ (xs.map ratOf).sum ≤ ratOf (decodeFloat 0x40800000 0) ∧ ratOf p < (xs.map ratOf).sum
      ∧ (xs.map fun v => ratOf v * ratOf v).sum = 5
      ∧ (p :: xs).all (fun v => match v with | .fin _ _ b => b != 0 | _ => false) = true ∧ decodeFloat 0x7F800000 0 = .inf false ∧ decodeFloat 0x7FC00000 0 = .nan
      ∧ (1 ≤ (ctl 6 false).set ∧ (ctl 6 false).set ≤ 6 ∧ (ctl 2 true).set < 3 ∧ (ctl 3 false).taum = false)
      ∧ k.mask.length = xs.length ∧ k.aux.length = xs.length ∧ k.set = (ctl 2 false).set ∧ k.taum = (ctl 2 false).taum ∧ k.grp = xs.length / 128 - 1
      ∧ { k with set := 1, supp := 0 }.supp = 0 ∧ { k with bad := true }.bad = true := by decide +kernel

/-- A drain of one handle of 128 accumulators, whose next row has been looked at in the cycle in which it begins. -/
def rowRun (s : State) : DrainRun :=
  { ctx := 5, adjoint := false, toRegs := true, desc := [1 + 2 ^ 16 * 0x100, 0x3F800000, 0, 0, 0, 0, 0, 0x8000], handle := 0, slots := [some 2], row := 0
    next := 0, pace := 1, ends := 25, cells := [], regs := [], flags := 0
    peek := some ((keysFrom (keyOf (.pm 1 0x100)) 8).map (fun k => (k, s.byte k)), (s.core 1).drainWords [some 2] 0) }

theorem witness_DrainRowsAreFormed :
    (let s := inFlight { x0 with handles := [(0, 2)] } { k0 with drainRun := some (rowRun s0) }
     s.red = [] ∧ (s.core 1).drainRun = some (rowRun s0)
       ∧ (∃ read, (rowRun s0).peek = some (read, (s.core 1).drainWords (rowRun s0).slots 0) ∧ ∀ p ∈ read, s.byte p.1 = p.2))
      ∧ (let k : Support := { tau := 0xFFFFFFFF, grp := 7, taum := true, set := 6, bad := true, act := true, supp := 0xFFFF, adjsum := 0xFFFFFFFF
                              sum := 0xFFFFFFFF, mask := List.replicate 8 true, aux := List.replicate 8 false }
        k.tau < 2 ^ 32 ∧ k.grp < 8 ∧ k.set < 8 ∧ k.supp < 2 ^ 16 ∧ k.adjsum < 2 ^ 32 ∧ k.sum < 2 ^ 32 ∧ k.mask.length = 8 * 1 ∧ k.aux.length = 8 * 1) := by
  refine ⟨⟨rfl, rfl, _, rfl, ?_⟩, by decide⟩
  decide +kernel

/-- Core 0 with a command of context 0 at the head of a queue, in the space that maps HBM, with memory words and what else it needs. -/
def queuedAt (q : Nat) (cs : List Cmd) (f : State → State) : State :=
  let s := withTensor id
  f { s with cores := [(0, { k0 with queues := [(q, { Queue.init with cmds := cs })] })] }

/-- A command of context 0, by whose origin the tensor under handle 1 is found. -/
def cmd0 (op : Nat) (block data : List Nat) (begun : Bool) : Cmd :=
  { cmdOf op block data begun with ctx := 0, node := placeNode, org := { org0 with node := placeNode, htbase := 0x30000, htlen := 2 }, fcore := 0 }

/-- Commands that move bytes, begin, and meet no fault: of MCAST, BTE, TLD, TST, CMPX, CMPW, TGATH and TSCAT. -/
def moving : List (Nat × Cmd) :=
  let v := 3 * 2 ^ 62
  [(4, cmd0 2 [0, 0x1000, 2 ^ 32 * 3 + 0x2000, 40] [] false), (5, cmd0 3 [0, 0x1000, 0x202000, 2 ^ 32 * 2 + 40, 2 ^ 32 * 128 + 64] [] false),
    (6, cmd0 4 [0, 1, 2 ^ 32 * (2 ^ 32 - 4) + 2 ^ 32 - 1, 2 ^ 16 * 8 + 3, 0x1000, 32] [] false),
    (7, cmd0 5 [0, 1, 0, 2 ^ 16 * 128 + 1, 0x1000, 0] [] false), (8, cmd0 6 [0, 0x1000, 0x2000, 2 ^ 32 * 292 + 1, v + 0x8000] [] false),
    (9, cmd0 7 [0, 0x1000, v + 0x9000, 2 ^ 32 * 36 + 1, v + 0x8000] [] false), (10, cmd0 8 [0, 1, 0x1000, 1, v + 0x9000, 0] [] false),
    (11, cmd0 9 [0, 1, 0x1000, 2 ^ 32 * 3 + 1, v + 0x9000, 0] [] false)]

set_option maxRecDepth 4000 in
theorem witness_EngineCommandsMoveTheirBytes :
    (moving.all fun p =>
      let s := queuedAt p.1 [p.2] id
      let u := s.ownBefore 0 p.2.mark
      s.wlog == [] && s.toBegin 0 p.1 == some p.2 && !zeroSize p.2 && !u.ownLeft 0 p.2.mark && meets s 0 p.2 == none) = true := by decide +kernel

/-- A group whose one member is core 0. -/
def grouped (parts : List CollPart) (s : State) : State :=
  { s with dev := { s.dev with endpoints := [(9, 0, placeNode)], groups := [(3, [(9, 0)])], collParts := parts } }
def aPart : CollPart := { group := 3, op := 0, rank := 0, cop := 0, fmt := 0, len := 8, data := [0, 0, 0x80, 0x3F, 0, 0, 0, 0x40] }

/-- Commands that begin and are answered later: NETTX and COLL that begin, a COLL outside its group; a block of STGRD in a namespace, and
a place that it reads to; a descriptor of VDEC. -/
theorem witness_EngineCommandsMoveTheirBytes_later :
    (let c := cmd0 18 [0, 2 ^ 16 * 9, 0x1000, 0, 40] [] false
     let s := queuedAt 15 [c] id
     s.toBegin 0 15 = some c ∧ zeroSize c = false ∧ (s.ownBefore 0 9).ownLeft 0 9 = false ∧ isOk ((s.ownBefore 0 9).engRead 0 c.node (c.word 2) 0 40) = true)
      ∧ (let c := cmd0 17 [0, 2 ^ 8 * 3, 0x1000, 0x2000, 8] [] false
        let s := queuedAt 14 [c] (grouped [])
        s.toBegin 0 14 = some c ∧ zeroSize c = false ∧ c.data = [] ∧ (s.ownBefore 0 9).rankOf 3 0 = some 0 ∧ (s.ownBefore 0 9).rankOf 4 0 = none
          ∧ (s.ownBefore 0 9).ownLeft 0 9 = false ∧ isOk ((s.ownBefore 0 9).engRead 0 c.node (c.word 2) 0 8) = true)
      ∧ (let c := cmd0 20 [0, 2 ^ 8, 4, 2, 3 * 2 ^ 62 + 0x6000] [] false
        let s := queuedAt 17 [c] fun s => { s with dev := { s.dev with nsids := [(0, 1, 6, 512)] } }
        let u := s.ownBefore 0 9
        s.toBegin 0 17 = some c ∧ zeroSize c = false ∧ u.ownLeft 0 9 = false
          ∧ (u.dev.nsids.find? fun n => n.1 == c.word 1 % 8 && n.2.1 == c.word 1 / 2 ^ 8 % 2 ^ 32) = some (0, 1, 6, 512)
          ∧ c.word 2 + c.word 3 ≤ 6 ∧ isOk (placeEngine u u.seen (u.space c.node) 0 .write (c.word 4) 0 (c.word 3 * 512)) = true)
      ∧ (let c := cmd0 21 [0, 0x1000, 0] [] false
        let s := queuedAt 18 [c] id
        s.toBegin 0 18 = some c ∧ zeroSize c = false ∧ (s.ownBefore 0 9).ownLeft 0 9 = false
          ∧ isOk ((s.ownBefore 0 9).engRead 0 c.node (c.word 1) 0 72) = true)
      ∧ (let words := [0x8000, 100, 2 ^ 32 * 2 ^ 16 + 2 ^ 32, 2 ^ 35 + 2 ^ 16 + 1, 1, 0, 0, 0, 0]
        jobOk words = true ∧ (jobOf words).ofmt = 1 ∧ (jobOf words).handle = 1 ∧ jobOk (0 :: words.drop 1) = true ∧ jobOk (words.take 3) = false) := by
  decide +kernel

/-- Commands that have begun and end: a QPUSH whose stage has a free slot, and one whose has none; a NETTX, a COLL, a STGRD and a PGREQ with
all of it there. -/
theorem witness_EngineCommandsMoveTheirBytes_ends :
    (let l : Launch := { placeLaunch false with stages := [stageOf 0 0, stageOf 0 1] }
     let c := cmd0 11 [0, 1, 0x1000] [] true
     let s := queuedAt 12 [c] fun s => { s with dev := { s.dev with launches := [(1, l)] } }
     let full : StageQueue := { ready := [0, 64], out := [], tail := 0, tags := [(0, (0, 3)), (64, (0, 0))] }
     let ring := tabGet StageQueue.init l.stageQ (stageKey 0 1)
     s.head 0 12 = some c ∧ zeroSize c = false ∧ (s.dev.launches.find? fun p => p.1 == c.launch) = some (c.launch, l) ∧ l.stages[c.word 1]? = some (stageOf 0 1)
       ∧ (0 ≤ (stageOf 0 1).qlen ∧ 0 + 64 * 0 ∉ ring.ready ∧ 0 + 64 * 0 ∉ ring.out) ∧ isOk (s.engRead 0 c.node (c.word 2) 0 64) = true ∧ s.red = []
       ∧ ∀ i, i < 2 → 64 * i ∈ full.ready)
      ∧ (let c := { cmd0 18 [0, 2 ^ 16 * 9, 0x1000, 0, 4097] [0, 0, 1] true with moved := 2 }
        let s := queuedAt 15 [c] id
        s.head 0 15 = some c ∧ zeroSize c = false ∧ c.data.headD 0 = 0 ∧ packets c ≤ c.moved)
      ∧ (let c := cmd0 17 [0, 2 ^ 8 * 3, 0x1000, 0x2000, 8] [0, 0] true
        let s := queuedAt 14 [c] (grouped [aPart])
        s.head 0 14 = some c ∧ s.partsFor 3 0 = some [aPart] ∧ aPart.cop = c.word 1 % 2 ^ 4 ∧ aPart.fmt = c.word 1 / 2 ^ 16 % 2 ^ 5 ∧ aPart.len = c.word 4
          ∧ isOk (s.engWrite 0 c.node (c.word 3) 0 (List.replicate 8 0)) = true ∧ (queuedAt 14 [c] (grouped [])).dev.collParts = []
          ∧ ((queuedAt 14 [c] (grouped [])).members 3).length = 1 ∧ { aPart with len := 4 }.len ≠ c.word 4)
      ∧ (let c := cmd0 20 [0, 2 ^ 8, 4, 2, 3 * 2 ^ 62 + 0x6000] [0] true
        let s := queuedAt 17 [c] fun s => { s with dev := { s.dev with nsids := [(0, 1, 6, 512)] } }
        s.dev.nvmeDone = [] ∧ s.stgBlock c = 512 ∧ { c with moved := 1024 }.moved = c.word 3 * s.stgBlock c ∧ c.moved ≠ c.word 3 * s.stgBlock c
          ∧ c.data.headD 0 < c.word 3 ∧ (s.pair 0 0).length + (s.ends 0 0).length < 1023
          ∧ isOk (placeEngine s s.seen (s.space c.node) 0 .write (c.word 4) 0 512) = true
          ∧ isOk (placeEngine s s.seen (s.space c.node) 0 .write (3 * 2 ^ 62 + 2 ^ 40) 0 512) = false)
      ∧ (let c := { cmd0 22 [0, 3 * 2 ^ 62 + 0x6000, 1] [2 * 6 + 1] true with moved := 1 }
        let s := queuedAt 19 [c] id
        s.head 0 19 = some c ∧ zeroSize c = false ∧ c.word 2 % 2 ^ 32 ≤ c.moved ∧ ∀ d ∈ c.data, d % 2 = 1 ∧ s.walksResident c.node (d / 2) = true) := by
  decide +kernel

/-- The target lies in the body of the second level, which stays. -/
theorem witness_BranchesGoToTheirTargets_levels :
    let ls := [level 1 0x50 1, level 0 0x70 0]
    (∀ k ∈ ls, ∀ l ∈ ls, k.group = l.group → k.start = l.start ∧ k.stop = l.stop) ∧ popOut 0x60 9 ls = [level 0 0x70 0] := by decide +kernel

/-- Work chosen for a context that holds a queue slot of a launch whose hardware queue is there; work that the scheduler finds; data of a
TAIL record without an error, and with one. -/
theorem witness_WorkInstructions_launch :
    (let q : HwQueue := { ring := 0, rsz := 0, head := 0, ptail := 0, node := placeNode, save := 0, state := 2, err := 0, tovf := false, preq := false
                          prog := 2 ^ 32 - 1, launch := some 1, children := [], lastTag := 0, wdFrom := 0, wdOnce := false }
     let l := { staged 3 [(stageKey 0 1, { ready := [], out := [64, 0], tail := 0, tags := [] })] [] with back := [1], nextIdx := 2 }
     let s := atStage 1 l
     let x := { s.ctx 0 with chosen := some (2 ^ 63 + 64), held := some 0 }
     let t : State := { s with ctxs := [(0, x)], dev := { s.dev with hwq := [(0, q)] } }
     t.me.chosen = some (2 ^ 63 + 64) ∧ t.me.held = some 0 ∧ t.launch t.me.launch = some l ∧ t.hw l.queue = some q
       ∧ l.back.Nodup ∧ ∀ i ∈ l.back, i < l.nextIdx)
      ∧ (let s := mapped id
        let keys := keysAt (s.placeAligned 3 .read false 64 0x4000 64)
        let u := s.performAll 0
        let bad : State := { u with dev := { u.dev with poison := [keys.headD 0 / 64 * 8 + keys.headD 0 % 8] } }
        keys.length = 64 ∧ u.hardFault [] 0x4000 (keys.map .key) = none ∧ (bad.hardFault [] 0x4000 (keys.map .key)).isSome = true) := by decide +kernel

/-- Core 2's first bank, which context 9 holds, and a load of it that stands in the last slot of a bundle of core 1. -/
def heldLoad (f : Ctx → Ctx) (i : Instr) : State :=
  let s := inFlight (f { x0 with a := [(1, 0x400000)] }) k0
  { s with ctxs := s.ctxs ++ [(9, { x0 with bank := some (0, 32, 3) })]
           fl := { s.fl with rest := [(1, i), (4, .ld 0 0 5 1 12 0 0 0x100)] } }

/-- A trap and a fault before a load of a held bank; a frame that can be written and one that cannot; every class of cause. -/
theorem witness_FaultsAreTakenByClass_capture :
    (let s := heldLoad id (.trap 1)
     let cap := State.capture { s with fl := { s.fl with slot := 2, rest := s.fl.rest.drop 1 } }
     cap.2.2.length = 1 ∧ s.wlog = [])
      ∧ (let s := heldLoad id .cnop
        s.fl.slot ≠ 0 ∧ (s.capture).2.2.length = 1 ∧ (s0.capture).2.2 = [])
      ∧ (let r (tfb : Word64) := (((mapped fun x => { x with tfb := tfb }).endFlight).retireAll 0).returnWork 0
        let p : Split := { code := 6, detail := 0, faddr := 0, smask := 2, sres := 1, epc := 0x40, lit := false, capv := true, phase := 0, gen := 0
                           bytes := [], line := 0, mig := false }
        isOk (writeVirtual (r 0x4000) ((r 0x4000).spaceOf 0 ((r 0x4000).ctx 0).node) 0 0x4000 (frameBytes 0 p)) = true
          ∧ isOk (writeVirtual (r (2 ^ 40)) ((r (2 ^ 40)).spaceOf 0 ((r (2 ^ 40)).ctx 0).node) 0 (2 ^ 40) (frameBytes 0 p)) = false) := by decide +kernel

/-- A plain store that stands dirty in a named line and may perform; a line that PREF finds absent. -/
theorem witness_OrderingAndCacheInstructions_lines :
    (let place := (mapped id).placeParts 3 .write 1 [(0x8000, 128)]
     let line := (cachedLines (keysAt place)).headD 0
     let i := item (.store [((lineKeys line).headD 0, 7)])
     let s := mapped fun x => { x with port := [i] }
     isOk place = true ∧ (s.ctx 0).port = [i] ∧ (∀ p ∈ [((lineKeys line).headD 0, (7 : Byte))], lineOf p.1 ∈ cachedLines (keysAt place))
       ∧ s.portReady 0 0 = true ∧ s.red = [] ∧ s.anyBad = false ∧ coreOf 0 ∈ s.l1Cores s.myCore
       ∧ s.copyOf s.myCore line = [] ∧ 0 < s.cacheWays s.myCore)
      ∧ (let s := { s0 with red := [pending 0x80] }
        ∃ e ∈ s.red, covers 5 s.myCore e.key = true ∨ s.fl.ctx ∈ e.ctxs)
      ∧ (let s := inFlight x0 { k0 with nw := 3 }
        s.mine.nw < (5#5).toNat ∧ ¬s.mine.nw < (2#5).toNat ∧ (s.writeBackLines s.myCore fun _ => true).red = []) := by decide +kernel

/-- A routine that works on bank 2: an MSTEP of four chunks in the second of its cycles. -/
theorem witness_BankRowsReadAndWritten_stepping :
    let r := { routine0 with target := some 2, begins := 90 }
    let k := { k0 with routine := some r, cyc := 91, mps := [(0, 0x30300000)] }
    let s := inFlight { x0 with compat := true } k
    (s.stepping 2).isSome = true ∧ s.stepping 3 = none ∧ (s.stepping 2).any (fun p => decide (p.1 ≤ p.2)) = true
      ∧ ∀ c ∈ List.range 16, tabGet 0 s.mine.bankPtr c < 512 := by decide +kernel

/-- A queue in which no entry may begin: none is there, or the one that is there has begun. -/
theorem witness_MatrixEntriesBeginAndEnd_none :
    s0.mine.mq = [] ∧ (let s := inFlight x0 { k0 with mq := [entryOf (.acz 1) true] }
      mayBegin s 1 [] (entryOf (.acz 1) true) = false) := by decide +kernel

/-- A drain that writes a bank which another context holds, and one whose bank is free. -/
theorem witness_DrainEndWritesAndPosts_held :
    let s := inFlight x0 k0
    let t : State := { s with ctxs := s.ctxs ++ [(9, { x0 with bank := some (0, 32, 3) })] }
    t.drainHeld 1 [(keyOf (.pm 2 0), 1)] = true ∧ t.drainHeld 1 [(keyOf (.pm 1 0), 1)] = false := by decide +kernel

/-- A command behind a store of its context that a held bank keeps in the port; a page list whose pages are walked, and one that cannot be;
operands that are kept, and an address that is not there. -/
theorem witness_EngineCommandsBeginAndComplete_kept :
    (let c := cmdOf 3 [0, 0x200000, 0x201000, 2 ^ 32 + 32, 0] [] false
     let i := { item (.store [(keyOf (.pm 1 0), 1)]) with own := true }
     let s := inFlight { x0 with port := [{ item (.load [.key (keyOf (.pm 2 0))]) with acq := true, rank := 0 }, i] }
       { k0 with queues := [(4, { Queue.init with cmds := [c] })] }
     let t : State := { s with ctxs := s.ctxs ++ [(9, { x0 with bank := some (0, 32, 3) })] }
     t.toBegin 1 4 = some c ∧ zeroSize c = false ∧ (t.ownBefore 1 c.mark).ownLeft 1 c.mark = true)
      ∧ (let c := cmd0 22 [0, 3 * 2 ^ 62 + 0x6000, 1] [] false
        let s := queuedAt 19 [c] id
        let c0 : Cmd := { c with moved := 0, since := (s.ownBefore 0 9).dev.clock, data := [] }
        s.toBegin 0 19 = some c ∧ zeroSize c = false ∧ ((s.ownBefore 0 9).runPages c0).2.2 = none)
      ∧ (let s := queuedAt 6 [cmd0 4 [0, 1, 0, 2 ^ 16 * 8 + 1, 0x1000, 0] [] false] id
        let keep (h : Nat) := s.keepOf 0 (cmd0 4 [0, h, 0, 2 ^ 16 * 8 + 1, 0x1000, 0] [] false)
        isOk (keep 1) = true ∧ isOk (keep 2) = false ∧ isOk (keep 0) = false) := by decide +kernel

/-- Whether a preparation's next granule is a snapshot's, its entry and its granule. -/
def stepAt (p : Prep) : Option (Bool × Nat × Nat) := (p.step 0).map fun (x : Bool × MapEntry × Nat × Nat) => (x.1, x.2.2)

/-- A preparation that takes a snapshot, one that zeroes a granule, and one that has nothing left; a granule of a held bank; one whose
backing tile is not there; write-backs that have ended and that cannot be placed. -/
theorem witness_PreparationsMoveEntries_steps :
    (let p := { prepAt 1 1 with cur := [{ zeroed 0 with carry := 0, wb := true }], next := [{ zeroed 0x800 with len := 1 }] }
     let s := inFlight { x0 with prep := some p } k0
     stepAt p = some (true, 0, 0) ∧ stepAt { p with snapped := 1 } = some (false, 0, 0)
       ∧ stepAt { p with snapped := 1, gran := 1 } = some (false, 0, 1) ∧ (prepAt 1 1).step 0 = none
       ∧ s.granuleHeld 0 p true { zeroed 0 with carry := 0, wb := true } 0 = false ∧ s.spentIn 0 0 + s.reservedIn 5 p 0 + 1 ≤ 4
       ∧ (∀ q ∈ (s.ctx 5).strays, q.halt ≠ none) ∧ p.halt = none ∧ p.due ≤ (s.core (coreOf 5)).el
       ∧ ({ s with ctxs := s.ctxs ++ [(9, { x0 with bank := some (31, 32, 7) })] } : State).granuleHeld 0 p false { zeroed 0 with kind := 0, target := 0x400000 } 0 = true)
      ∧ (let p := { prepAt 1 1 with cur := [zeroed 0x100], next := [{ keptFrom 0 with target := 0x800 }] }
        p.cur[({ keptFrom 0 with target := 0x800 } : MapEntry).ksrc]? = some (zeroed 0x100) ∧ (p.step 0).map (·.1) = some false)
      ∧ (let e := { zeroed 0x400 with carry := 2, bhandle := 1 }
        let p := { prepAt 1 1 with next := [e], org := { org0 with node := placeNode, htbase := 0x30000, htlen := 2 } }
        let s := withTensor fun x => { x with prep := some p }
        isOk (s.mapTensor 0 p.org p.desc e.bhandle) = true ∧ isOk (s.carried 0 p e 0) = true
          ∧ (match s.carried 0 p { e with bhandle := 2 } 0 with | .error (f, _) => f.code != 0 | .ok _ => false) = true)
      ∧ (let w : WriteBack := { entry := 0, map := 0, org := { org0 with node := placeNode, htbase := 0x30000, htlen := 2 }, handle := 1, row0 := 0
                                col0 := 0, bytes := List.replicate 128 1, gran := 0, desc := [], advanced := none }
        let s := withTensor fun x => { x with wbacks := [w] }
        isOk (s.mapTensor 0 w.org w.desc 1) = true ∧ isOk (s.mapTensor 0 w.org w.desc 2) = false ∧ ¬w.bytes.length / 128 ≤ w.gran
          ∧ (match s.mapTensor 0 w.org w.desc 1 with
            | .ok (T, v) => (match placeTileRow v v.seen (v.originSpace 0 w.org) 0 1 .write none T (w.row0 + 0) w.col0 0 128 with
              | .ok (srcs, ts) => !v.pathHeld 0 (srcs.filterMap ByteSrc.place) false && v.goneFault ts 0 (srcs.filterMap ByteSrc.place) == none
              | .error _ => false)
            | .error _ => false) = true) := by decide +kernel

/-- A wait at a barrier that has not completed; a holder that has been killed. -/
theorem witness_ContextEventsBetweenBundles_leaves :
    (let s := inFlight { x0 with waitFrom := some (0, 50, 0x103), arrived := [(3, false)] } { k0 with el := 50 }
     (0x103 % 256, (s.ctx 5).trapm) ∈ (s.ctx 5).arrived ∧ (0x103 % 256, (s.ctx 5).trapm) ∉ (s.ctx 5).passed)
      ∧ (let x := { x0 with passed := [(3, false)] }
        (3, false) ∈ x.passed)
      ∧ (let s := locking (some 1) [lockOf 6 0 0 1 0 2] (lockCmd 13 0 0 7)
        let t : State := { s with ctxs := s.ctxs ++ [(6, { x0 with mode := .killed })] }
        (1 : Nat) < 2 ∧ (s.ctx 6).mode ≠ .killed ∧ (t.ctx 6).mode = .killed) := by decide +kernel

/-- A launch with a context whose last load a held bank keeps in its port. -/
theorem witness_LaunchesAreAdmittedAndRetired_waits :
    let s := launching [(0, hwq 2 (some 1) 0x41000)] [(1, { runs 0 with ran := [7] })]
    let t : State := { s with ctxs := [(7, { x0 with port := [{ item (.load [.key (keyOf (.pm 2 0))]) with own := false }] }), (9, { x0 with bank := some (0, 32, 3) })] }
    t.mayRetire 1 { runs 0 with ran := [7] } = true ∧ (([7].foldl State.performAll t).ctx 7).port.all isMark = false := by decide +kernel

/-- A module with its host port and one without; a route to a link that retrains, and to a unit under test; an access of a stack that has
been left out; a link in the middle of a replay. -/
theorem witness_HostRequestsAreOrdered_held :
    (withAperture []).dev.hostUp = true ∧ ({ s0 with dev := { s0.dev with hostUp := false } } : State).dev.hostUp = false
      ∧ (let s := withAperture []
        let keys := keysAt (placeVirtual s s.seen (s.space placeNode) 0 3 .write false 0x40 1)
        let gone : State := { s with dev := { s.dev with stacksGone := 0xFFF } }
        let tested : State := s.setUnitErr 0 (sramUnit 0 8 0) { s.unitErr 0 (sramUnit 0 8 0) with testing := true }
        keys.length = 1 ∧ s.goneFault [] 0x40 keys = none ∧ (gone.goneFault [] 0x40 keys).isSome = true ∧ s.iodWaits keys true = false
          ∧ (∀ k ∈ keys, s.unitBusy k = false) ∧ tested.unitBusy (keyOf (.csm 0 0)) = true)
      ∧ (let was : Link := { Link.init with replayUntil := 8, fails := 15 }
        (7 : Nat) < was.replayUntil ∧ 16 ≤ was.fails + 1 ∧ Link.init.replayUntil ≤ 7) := by decide +kernel

/-- A place that a retraining link holds; a write that a held bank refuses for now, and one that faults; the end of a Read command that waits
for a link, and ends its STGRD; a page that is asked for and answered; a load of host memory that fails; engines' requests. -/
theorem witness_NetworkAndStorageEventsAnswer_held :
    (let slow : State := { networked with dev := { networked.dev with links := [(2, { Link.init with retrain := true }), (4, { Link.init with retrain := true })] } }
     let keys := keysAt (placeVirtual networked networked.seen (networked.space placeNode) 0 3 .write false 0x6000 8)
     slow.iodWaits keys false = true ∧ networked.iodWaits keys false = false ∧ slow.iodWaits ((keysFrom (keyOf (.hbm 0x6000)) 512)) false = true
       ∧ networked.ends 1 3 = [] ∧ networked.anyBad = false)
      ∧ (let s : State := { networked with ctxs := networked.ctxs ++ [(9, { x0 with bank := some (0, 32, 3) })] }
        (match s.engWrite 0 placeNode 0x400000 64 (List.replicate 8 0), s.engWrite 0 placeNode (3 * 2 ^ 62 + 2 ^ 40) 64 (List.replicate 8 0) with
        | .error e, .error f => e.code == 0 && f.code != 0
        | _, _ => false) = true)
      ∧ (let r := { aRead with core := 0 }
        let c := { cmdOf 20 [0, 2 ^ 8, 0, 1, 3 * 2 ^ 62 + 0x6000] [] true with pos := 7 }
        let s : State := { networked with cores := [(0, { k0 with queues := [(17, { Queue.init with cmds := [c] })] })]
                                          dev := { networked.dev with nvmeDone := [(32 * 1 + 3, [⟨r, 0, []⟩])], nsids := [(0, 1, 6, 512)] } }
        s.head 0 17 = some c ∧ c.pos = r.pos ∧ c.word 3 ≠ 0 ∧ c.moved + r.blocks * s.stgBlock c = c.word 3 * s.stgBlock c)
      ∧ (0 : Nat) ≤ networked.dev.clock ∧ (networked.queue 0 15).halted = none
      ∧ (∃ c, networked.cmdAt 0 15 7 = some c ∧ (networked.queue 0 15).cmds.head?.map (·.pos) = some c.pos) := by
  refine ⟨by decide +kernel, by decide +kernel, by decide +kernel, by decide, by decide +kernel, _, rfl, by decide +kernel⟩

/-- A unit that a SELFTEST tests, and another; banks of HBM with a spare row left and with none. -/
theorem witness_ErrorsStartAndPower_units :
    (let d := { State.reset.dev with testCmd := some (1, 7) }
     d.testCmd = some (1, 7) ∧ State.reset.dev.testCmd ≠ some (1, 7) ∧ d.nvmeDone = [])
      ∧ (0 : Nat) % 4 = 0 ∧ (0 : Nat).testBit 0 = false ∧ (1 : Nat).testBit 0 = true
      ∧ (∀ g, g < 2 → (State.reset.dev.poison.contains g) = false) := by decide +kernel

/-- An access that used a translation of the range, and none. -/
theorem witness_DeviceCommandsAnswer_still :
    let tr : Trans := { holder := 0, space := 65, base := 0x6000, size := 4096, loc := 0, pa := 0x6000, w := true, dup := false, tol := false, pa2 := 0
                        entry := 0, path := [] }
    (tr.space = 64 + 1 ∧ tr.base < 0x6000 + 1 ∧ 0x6000 < tr.base + tr.size) ∧ ¬(tr.space = 64 + 1 ∧ tr.base < 0x7000 + 1 ∧ 0x7000 < tr.base + tr.size)
      ∧ ((mailbox []).ctxs.all fun p => p.2.port.all fun i => i.via == []) = true ∧ (mailbox []).dev.nvme = [] ∧ (mailbox []).dev.nvmeDone = []
      ∧ isUnit 1 7 = true := by decide +kernel

end Sys2Proof.Tests
end

section
/-! PROOFS. Bytes that a step stores (R5, R238). -/

namespace Sys2Proof.Machine

/-- Storing into a byte whose writes are dropped leaves it as it is (R238). -/
theorem State.byte_pokes_dropped (cells : List (Nat × Byte)) (s : State) {k : Nat} (hd : s.drops k = true) :
    (s.pokes cells).byte k = s.byte k := by
  induction cells generalizing s with
  | nil => rfl
  | cons p l ih =>
    have hne : ¬(k = p.1 ∧ s.drops p.1 = false) := by
      rintro ⟨rfl, h⟩
      simp [hd] at h
    rw [State.pokes_cons, ih (s.poke p.1 p.2) (by rw [State.poke_drops]; exact hd), State.byte_poke, if_neg hne]

/-- Closing the step changes no byte as it reads once the cells are stored. -/
theorem State.closed_pokes_byte (s : State) (cells : List (Nat × Byte)) (k : Nat) :
    ((s.pokes cells).closed s).byte k = (s.pokes cells).byte k :=
  State.closed_byte (State.pokes_mem s cells) k

/-- Settles O9: closing the step changes no byte, so each clause is a fact about the cells stored: a byte named reads back, and one whose
writes are dropped (R238) or that no cell names stays. -/
theorem storedBytesReadBack : Obligations.StoredBytesReadBack := by
  intro s cells _ hdistinct
  refine ⟨(s.pokes cells).closed s, done_closed s _, ?stored, ?dropped, ?other⟩
  case stored =>
    intro k b hk hd
    rw [State.closed_pokes_byte, State.byte_pokes_mem cells s hdistinct hk hd]
  case dropped =>
    intro k hd
    rw [State.closed_pokes_byte, State.byte_pokes_dropped cells s hd]
  case other =>
    intro k hk
    rw [State.closed_pokes_byte, State.byte_pokes_other cells s k hk]

end Sys2Proof.Machine
end

section
/-! PROOFS. What a step keeps: a step answers a meaning or the end of one, begun where memory and log are as the step found them (R50,
R258; log entries 3 and 5). -/

namespace Sys2Proof.Machine

/-- Where an outcome is a next state, that state meets the invariant. -/
structure Sound (r : Result) : Prop where
  inv : ∀ {t}, r = .next t → t.Inv

theorem Sound.next {t : State} (h : t.Inv) : Sound (.next t) := ⟨by rintro _ ⟨⟩; exact h⟩
theorem Sound.exec {i : Instr} {s : State} (h : s.Inv) : Sound (exec i s) := ⟨exec_inv h⟩
theorem Sound.done {s r : State} (h : s.Inv) : Sound (done s r) := ⟨done_inv h⟩

/-! ### The bundle in flight -/

/-- What follows a slot changes the flight, or ends the bundle. -/
theorem Sound.afterSlot {rest : List (Nat × Instr)} {r : Result} (h : Sound r) : Sound (afterSlot rest r) := by
  match r with
  | .next s =>
    have hs : s.Inv := h.inv rfl
    dsimp only [Machine.afterSlot]
    split
    · exact .next hs
    · split
      · exact .done (Inv_of_same hs rfl rfl)
      · exact .next (Inv_of_same hs rfl rfl)
  | .fault _ => exact h
  | .refused _ => exact h

theorem Sound.runSlot {s : State} (h : s.Inv) : Sound s.runSlot := by
  unfold State.runSlot
  split
  · exact .done h
  · exact .afterSlot (.exec (Inv_of_same h rfl rfl))

theorem Sound.firstSlot {r : Result} (h : Sound r) : Sound (firstSlot r) := by
  match r with
  | .next s =>
    dsimp only [Machine.firstSlot]
    split
    · exact .runSlot (h.inv rfl)
    · exact h
  | .fault _ => exact h
  | .refused _ => exact h

/-- A micro-instruction runs in a flight of its own. -/
theorem Sound.runMicro {core : Nat} {i : Instr} {s : State} (h : s.Inv) : Sound (s.runMicro core i) := by
  unfold State.runMicro
  split
  next e =>
    have hm : State.Inv { s with fl := { Flight.init with ctx := 4 * core } } := Inv_of_same h rfl rfl
    exact .next (Inv_of_same (exec_inv hm e) rfl rfl)
  next => exact .exec (Inv_of_same h rfl rfl)

/-! ### Clocks -/

theorem State.tick_inv {s : State} (h : s.Inv) (core : Nat) (still : Bool) : (s.tick core still).Inv := by
  unfold State.tick
  exact iteInduction (motive := State.Inv) (fun _ => Inv_of_same h rfl rfl) fun _ => Inv_of_same h rfl rfl

theorem State.ungate_inv {s : State} (h : s.Inv) (core : Nat) : (s.ungate core).Inv := by
  unfold State.ungate
  dsimp only
  split
  · exact h
  · exact Inv_of_same h rfl rfl

theorem State.catchUp_inv {s : State} (h : s.Inv) (core : Nat) : (s.catchUp core).Inv := by
  unfold State.catchUp
  dsimp only
  split
  · exact h
  · exact Inv_of_same h rfl rfl

/-! ### Turns -/

theorem Sound.issueTurn {core : Nat} {s : State} (h : s.Inv) : Sound (s.issueTurn core) := by
  unfold State.issueTurn
  split
  · exact .firstSlot (.done h)
  · exact .done h

theorem Sound.coreTurn {core : Nat} {s : State} (h : s.Inv) : Sound (s.coreTurn core) := by
  have hc := State.catchUp_inv h core
  have hu := State.ungate_inv hc core
  unfold State.coreTurn
  dsimp only
  split
  · exact .next (State.tick_inv hc _ _)
  split
  · exact .done hc
  split
  · exact .done hc
  split
  · exact .exec hu
  split
  · exact .runMicro hc
  split
  · exact .done hc
  split
  · split
    · exact .exec hc
    · exact .exec hu
  · exact .issueTurn hc

/-- The event taken is the first of a list that changes the machine. -/
theorem Sound.firstChange {s : State} (h : s.Inv) (l : List Instr) (r : Result) (e : firstChange s l = some r) : Sound r := by
  induction l with
  | nil => cases e
  | cons i l ih =>
    unfold Machine.firstChange at e
    split at e
    · split at e
      · exact ih e
      · cases e
        exact .next (exec_inv h ‹_›)
    · cases e
      exact .exec h

theorem Sound.freeTurn {s : State} (h : s.Inv) : Sound s.freeTurn := by
  have hs : State.Inv { s with pace := 0, turns := s.turns + 1 } := Inv_of_same h rfl rfl
  unfold State.freeTurn
  dsimp only
  split
  · exact .done h
  split
  next e =>
    split at e
    · cases e
    · exact .firstChange hs _ _ e
  · exact .coreTurn (Inv_of_same h rfl rfl)
  · exact .next (Inv_of_same h rfl rfl)

theorem Sound.agendaTurn {t : Turn} {s : State} (h : s.Inv) : Sound (s.agendaTurn t) := by
  cases t with
  | event i =>
    dsimp only [State.agendaTurn]
    split
    · exact .firstSlot (.exec h)
    · exact .next h
  | core c => exact .coreTurn h

theorem Sound.offTurn {s : State} (h : s.Inv) : Sound s.offTurn := by
  unfold State.offTurn
  split
  · exact .exec (Inv_of_same h rfl rfl)
  · exact ⟨by rintro _ ⟨⟩⟩

/-- A step answers a next state that meets the invariant, whosever turn it is. -/
theorem Sound.step {s : State} (h : s.Inv) : Sound (step s) := by
  unfold Machine.step
  split
  · exact .offTurn h
  split
  · exact .runSlot h
  split
  · exact .agendaTurn (Inv_of_same h rfl rfl)
  · exact .freeTurn h

/-- Settles O3, by the case of whose turn it is. -/
theorem everyStepKeepsInvariant : Obligations.EveryStepKeepsInvariant := fun _ _ h e => (Sound.step h).inv e

/-- Settles O2: nothing is written at reset. -/
theorem resetMeetsInvariant : Obligations.ResetMeetsInvariant := ⟨rfl, rfl⟩

/-- Settles O8: the state's power and flight choose the slot, and what follows it is by the flight that the slot leaves. -/
theorem stepRunsDecodedSlot : Obligations.StepRunsDecodedSlot := by
  intro s t k i rest hpower hlive hrest hexec
  have hstep : step s = afterSlot rest (.next t) := by
    simp only [step, hpower, hlive, Bool.not_true, Bool.false_eq_true, if_false, if_true, State.runSlot, hrest, hexec]
  rw [hstep]
  refine ⟨fun h => ?_, fun h hne => ?_, fun h he => ?_⟩
  · simp [afterSlot, h]
  · cases rest with
    | nil => exact absurd rfl hne
    | cons _ _ => simp [afterSlot, h]
  · subst he
    simp [afterSlot, h]

end Sys2Proof.Machine
end

section
/-! PROOFS. What reset leaves in cores and clusters (R41, R42, R45, R84, R164). -/

namespace Sys2Proof.Machine

@[simp] theorem State.byte_reset (k : Nat) : State.reset.byte k = 0 := rfl
@[simp] theorem State.core_reset (k : Nat) : State.reset.core k = Core.init := rfl
@[simp] theorem State.ctx_reset (c : Nat) : State.reset.ctx c = Ctx.init := rfl

/-- A latch that nothing has changed holds the code of 1.0. -/
theorem Core.latchAt_init (side row cyc : Nat) : Core.init.latchAt side row cyc = 0x1F0 := rfl

theorem sc10Value_one : sc10Value 0x1F0 = .fin false 16 16 := by decide

/-- Settles O1: every table of a unit at reset is empty, so that each key reads as the value of an unlisted one. -/
theorem resetLeavesCoresAndClustersEmpty : Obligations.ResetLeavesCoresAndClustersEmpty := by
  intro core cluster off c n hn s
  have hfree : n ∈ (s.core core).free := List.mem_range.2 hn
  have hlatch (side row : Nat) : sc10Value ((s.core core).latchAt side row (s.core core).cyc) = .fin false 16 16 := by
    rw [State.core_reset, Core.latchAt_init, sc10Value_one]
  exact ⟨rfl, rfl, rfl, rfl, rfl, hfree, rfl, rfl, rfl, rfl, rfl, rfl, hlatch⟩

end Sys2Proof.Machine
end

section
/-! PROOFS. A register write on its way (R54). -/

namespace Sys2Proof.Machine

/-- A write enters the list behind those due no later and, where the list stands in the order of its cycles, before those due later. -/
theorem pendInsert_spec (p : Pend) (l : List Pend) : ∃ before after, l = before ++ after ∧ pendInsert p l = before ++ p :: after
    ∧ (l.Pairwise (fun a b => a.due ≤ b.due) → (∀ q ∈ before, q.due ≤ p.due) ∧ ∀ q ∈ after, p.due < q.due) := by
  induction l with
  | nil => exact ⟨[], [], by simp [pendInsert]⟩
  | cons x t ih =>
    by_cases hx : p.due < x.due
    · refine ⟨[], x :: t, rfl, by simp [pendInsert, hx], fun hs => ⟨by simp, fun q hq => ?_⟩⟩
      rcases List.mem_cons.1 hq with rfl | hq
      · exact hx
      · exact Nat.lt_of_lt_of_le hx (List.rel_of_pairwise_cons hs hq)
    · obtain ⟨before, after, rfl, hput, hord⟩ := ih
      refine ⟨x :: before, after, rfl, by simp [pendInsert, hx, hput], fun hs => ?_⟩
      obtain ⟨hle, hlt⟩ := hord (List.pairwise_cons.1 hs).2
      refine ⟨fun q hq => ?_, hlt⟩
      rcases List.mem_cons.1 hq with rfl | hq
      · omega
      · exact hle q hq

/-- Settles O11: the place is that of `pendInsert`, and the context of the flight is the one unit written. -/
theorem writeOnItsWay : Obligations.WriteOnItsWay := by
  intro s w lat t p
  have hme : t.me = { s.me with pend := pendInsert p s.me.pend } := State.me_setMe s _
  obtain ⟨before, after, hl, hput, hord⟩ := pendInsert_spec p s.me.pend
  refine ⟨⟨before, after, hl, ?_, hord⟩, ?_, fun c hc => ?_, rfl⟩
  · rw [hme]; exact hput
  · rw [hme]
  · exact State.ctx_setMe_ne s _ hc

end Sys2Proof.Machine
end

section
/-! PROOFS. The scalar instructions of R98, R99, R102 and R103. -/

namespace Sys2Proof.Machine

/-! ### Fields of words -/

/-- A bit of a number as a word, below the width. -/
theorem getLsbD_ofNat64 (n : Nat) {i : Nat} (hi : i < 64) : (BitVec.ofNat 64 n).getLsbD i = n.testBit i := by
  rw [BitVec.getLsbD_ofNat, decide_eq_true hi, Bool.true_and]

/-- A field extracted: its bits, with zeros above or copies of its top bit (R98). -/
theorem getLsbD_bfx (x : Word64) (pos len : Nat) (sgn : BitVec 1) {i : Nat} (hi : i < 64) :
    (BitVec.ofNat 64 (if sgn = 1 then wrap64 (signExt (bits x.toNat pos (len + 1)) (len + 1)) else bits x.toNat pos (len + 1))).getLsbD i =
      if i ≤ len then x.getLsbD (pos + i) else sgn == 1 && x.getLsbD (pos + len) := by
  have hfield : bits x.toNat pos (len + 1) = (x.extractLsb' pos (len + 1)).toNat := by
    simp [bits, Nat.shiftRight_eq_div_pow]
  have hsgn : sgn = 0 ∨ sgn = 1 := by revert sgn; decide
  rw [hfield]
  rcases hsgn with rfl | rfl
  · rw [if_neg (by decide), getLsbD_ofNat64 _ hi, BitVec.testBit_toNat, BitVec.getLsbD_extractLsb']
    by_cases h : i ≤ len <;> simp [h]
  · rw [if_pos rfl, signExt_eq (Nat.succ_pos len), ofNat_wrap64, ← BitVec.signExtend, BitVec.getLsbD_signExtend]
    by_cases h : i ≤ len <;> simp [h, hi, BitVec.msb_eq_getLsbD_last]

/-- A sum taken to 64 bits is the sum of the words. -/
theorem ofNat_add_toNat (x y : Word64) : BitVec.ofNat 64 (x.toNat + y.toNat) = x + y := by
  simp [BitVec.ofNat_add]

theorem ofNat_add_mul_two_pow (x y : Word64) (n : Nat) : BitVec.ofNat 64 (x.toNat + y.toNat * 2 ^ n) = x + y <<< n := by
  apply BitVec.eq_of_toNat_eq
  simp [BitVec.toNat_add, Nat.shiftLeft_eq]

/-- A tile control register holds the fields it was made of (R45). -/
theorem tcOf_fields {fmt rows bpr gsz : Nat} (hf : fmt < 2 ^ 5) (hr : rows < 2 ^ 8) (hb : bpr < 2 ^ 8) (hg : gsz < 2 ^ 2) :
    tcFmt (tcOf fmt rows bpr gsz) = fmt ∧ tcRows (tcOf fmt rows bpr gsz) = rows ∧ tcBpr (tcOf fmt rows bpr gsz) = bpr
      ∧ tcGsz (tcOf fmt rows bpr gsz) = gsz := by
  unfold tcFmt tcRows tcBpr tcGsz tcOf bits
  simp only [BitVec.toNat_ofNat, Nat.reducePow] at *
  omega

/-! ### Registers written -/

variable {s : State}

theorem exec_movi (hw : s.wlog = []) (d : BitVec 6) (imm : BitVec 20) :
    exec (.movi d imm) s = .next (s.write (.s d.toNat (imm.signExtend 64)) 1) := by
  rw [BitVec.signExtend, ← ofNat_wrap64]
  exact done_write hw _ 1

/-- MOVHI and BFI insert bits of a number into the destination (R98). -/
theorem done_insert (hw : s.wlog = []) (d : BitVec 6) (lo n v : Nat) :
    ∃ w : Word64, done s (s.writeS d.toNat (insertBits (s.opS 24 d.toNat) lo n v) 1) = .next (s.write (.s d.toNat w) 1)
      ∧ ∀ i, i < 64 → w.getLsbD i = if lo ≤ i ∧ i < lo + n then v.testBit (i - lo) else (s.sArg 24 d).getLsbD i := by
  refine ⟨_, done_write hw _ 1, fun i hi => ?_⟩
  rw [getLsbD_ofNat64 _ hi, insertBits_testBit, State.opS_eq, BitVec.testBit_toNat]

theorem exec_popc (hw : s.wlog = []) (d a : BitVec 6) : exec (.popc d a) s =
    .next (s.write (.s d.toNat (BitVec.ofNat 64 (((List.range 64).filter fun i => (s.sArg 0 a).getLsbD i).length))) 1) := by
  refine (scalar1_spec hw (popCount 64) d a).trans ?_
  rw [popCount_eq]
  simp only [BitVec.testBit_toNat]

theorem exec_amov_toS (hw : s.wlog = []) (a : BitVec 5) (r : BitVec 6) :
    exec (.amov a 1 r) s = .next (s.write (.s r.toNat (s.aArg 0 a)) 1) := by
  refine (done_write hw _ 1).trans ?_
  rw [State.opA_eq, BitVec.ofNat_toNat, BitVec.setWidth_eq]

theorem exec_amov_toA (hw : s.wlog = []) (a : BitVec 5) (r : BitVec 6) :
    exec (.amov a 0 r) s = .next (s.write (.a a.toNat (s.sArg 8 r)) 1) := by
  refine (done_write hw _ 1).trans ?_
  rw [State.opS_eq, BitVec.ofNat_toNat, BitVec.setWidth_eq]

theorem exec_aadd (hw : s.wlog = []) (ad aa : BitVec 5) (r : BitVec 6) :
    exec (.aadd ad aa r) s = .next (s.write (.a ad.toNat (s.aArg 0 aa + s.sArg 8 r)) 1) := by
  refine (done_write hw _ 1).trans ?_
  rw [State.opA_eq, State.opS_eq, ofNat_add_toNat]

theorem exec_alea (hw : s.wlog = []) (ad aa : BitVec 5) (r : BitVec 6) (sh : BitVec 3) :
    exec (.alea ad aa r sh) s = .next (s.write (.a ad.toNat (s.aArg 0 aa + s.sArg 8 r <<< sh.toNat)) 1) := by
  refine (done_write hw _ 1).trans ?_
  rw [State.opA_eq, State.opS_eq, ofNat_add_mul_two_pow]

theorem exec_mpar (hw : s.wlog = []) (p : BitVec 3) (r : BitVec 6) :
    exec (.mpar p r) s = .next (s.write (.p p.toNat (s.sArg 8 r)) 1) := by
  refine (done_write hw _ 1).trans ?_
  rw [State.opS_eq, BitVec.ofNat_toNat, BitVec.setWidth_eq]

theorem exec_bfx (hw : s.wlog = []) (d a pos len : BitVec 6) (sgn : BitVec 1) :
    ∃ w : Word64, exec (.bfx d a pos len sgn) s = .next (s.write (.s d.toNat w) 1) ∧ ∀ i, i < 64 → w.getLsbD i =
      if i ≤ len.toNat then (s.sArg 0 a).getLsbD (pos.toNat + i) else sgn == 1 && (s.sArg 0 a).getLsbD (pos.toNat + len.toNat) := by
  refine ⟨_, ?_, fun i hi => getLsbD_bfx (s.sArg 0 a) pos.toNat len.toNat sgn hi⟩
  exact (show exec (.bfx d a pos len sgn) s = execBfx d a pos len sgn s from rfl).trans (scalar1_spec hw _ d a)

/-- Settles O15: each instruction is one write on its way; the field instructions are by their bits. -/
theorem scalarFieldsAddressesAndShapes : Obligations.ScalarFieldsAddressesAndShapes := by
  refine ⟨?fields, ?addresses, ?shapes⟩
  case fields =>
    intro s d a pos len q imm half sgn hw x old put
    refine ⟨exec_movi hw d imm, ?movhi, ?clz, exec_popc hw d a, fun _ => ⟨exec_bfx hw d a pos len sgn, ?bfi⟩⟩
    case movhi => exact done_insert hw d (16 * q.toNat) 16 half.toNat
    case clz => exact ⟨_, scalar1_spec hw clz64 d a, clz64_spec x⟩
    case bfi =>
      obtain ⟨w, hexec, hbits⟩ := done_insert hw d pos.toNat (len.toNat + 1) (s.opS 0 a.toNat)
      refine ⟨w, hexec, fun i hi => ?_⟩
      rw [hbits i hi, State.opS_eq, BitVec.testBit_toNat]
      simp only [← Nat.add_assoc, Nat.lt_succ_iff]
      rfl
  case addresses =>
    intro s ad aa r sh hw
    exact ⟨exec_aadd hw ad aa r, exec_alea hw ad aa r sh, exec_amov_toA hw ad r, exec_amov_toS hw ad r⟩
  case shapes =>
    intro s t fmt rows bpr gsz p r hw
    exact ⟨⟨_, done_write hw _ 1, tcOf_fields fmt.isLt (by have := rows.isLt; omega) (by have := bpr.isLt; omega) gsz.isLt⟩,
      exec_mpar hw p r⟩

end Sys2Proof.Machine
end

section
/-! PROOFS. Reading the word of an instruction gives it back (R62 to R83). A word is a sum: its opcode above, and each operand at a place of
its own below. That sum is read once, for every list of fields; each instruction then has only to say what its fields are. -/

namespace Sys2Proof

/-! ### Words as sums of fields -/

/-- A field of a word: its lowest bit, its width and its value. -/
structure Field where
  lo : Nat
  n : Nat
  x : BitVec n

/-- What a field adds to its word. -/
def Field.part (f : Field) : Nat :=
  match f.lo with
  | 0 => f.x.toNat
  | lo + 1 => f.x.toNat * 2 ^ (lo + 1)

/-- A word with fields added. -/
def addFields (w : Nat) : List Field → Nat
  | [] => w
  | f :: fs => addFields (w + f.part) fs

/-- Fields lie below a bit, each below the one before it. -/
def fitBelow (top : Nat) : List Field → Bool
  | [] => true
  | f :: fs => f.lo + f.n ≤ top && fitBelow f.lo fs

/-- A word holds each field at its place. -/
def holdsFields (w : Nat) : List Field → Prop
  | [] => True
  | f :: fs => fld w f.lo f.n = f.x ∧ holdsFields w fs

theorem Field.part_eq (f : Field) : f.part = f.x.toNat * 2 ^ f.lo := by
  obtain ⟨lo, n, x⟩ := f
  cases lo <;> simp [Field.part]

/-- A field that ends by a bit adds less than that bit's weight. -/
theorem Field.part_lt {f : Field} {top : Nat} (h : f.lo + f.n ≤ top) : f.part < 2 ^ top := by
  calc f.part = f.x.toNat * 2 ^ f.lo := f.part_eq
    _ < 2 ^ f.n * 2 ^ f.lo := Nat.mul_lt_mul_of_pos_right f.x.isLt (Nat.two_pow_pos _)
    _ = 2 ^ (f.lo + f.n) := by rw [← Nat.pow_add, Nat.add_comm]
    _ ≤ 2 ^ top := Nat.pow_le_pow_right (by decide) h

/-- Fields below a bit change nothing from that bit on, as the bits below it are clear. -/
theorem addFields_div (fs : List Field) {w top : Nat} (hw : 2 ^ top ∣ w) (hfit : fitBelow top fs = true) :
    addFields w fs / 2 ^ top = w / 2 ^ top := by
  induction fs generalizing w top with
  | nil => rfl
  | cons f fs ih =>
    simp only [fitBelow, Bool.and_eq_true, decide_eq_true_eq] at hfit
    obtain ⟨hf, hfs⟩ := hfit
    have hlo : 2 ^ f.lo ∣ w + f.part :=
      Nat.dvd_add ((Nat.pow_dvd_pow 2 (by omega)).trans hw) (f.part_eq ▸ Nat.dvd_mul_left _ _)
    obtain ⟨d, hd⟩ := Nat.exists_eq_add_of_le (show f.lo ≤ top by omega)
    rw [addFields, hd, Nat.pow_add, ← Nat.div_div_eq_div_mul, ih hlo hfs, Nat.div_div_eq_div_mul, ← Nat.pow_add, ← hd,
      Nat.add_div_of_dvd_right hw, Nat.div_eq_of_lt (Field.part_lt hf), Nat.add_zero]

/-- Each field is read back. -/
theorem addFields_holds (fs : List Field) {w top : Nat} (hw : 2 ^ top ∣ w) (hfit : fitBelow top fs = true) :
    holdsFields (addFields w fs) fs := by
  induction fs generalizing w top with
  | nil => trivial
  | cons f fs ih =>
    simp only [fitBelow, Bool.and_eq_true, decide_eq_true_eq] at hfit
    obtain ⟨hf, hfs⟩ := hfit
    have hup : 2 ^ (f.lo + f.n) ∣ w := (Nat.pow_dvd_pow 2 hf).trans hw
    have hlo : 2 ^ f.lo ∣ w + f.part :=
      Nat.dvd_add ((Nat.pow_dvd_pow 2 (by omega)).trans hup) (f.part_eq ▸ Nat.dvd_mul_left _ _)
    refine ⟨BitVec.eq_of_toNat_eq ?_, ih hlo hfs⟩
    obtain ⟨k, rfl⟩ := hup
    rw [fld, addFields, addFields_div fs hlo hfs, f.part_eq, BitVec.toNat_ofNat, Nat.pow_add, Nat.mul_assoc, Nat.mul_comm f.x.toNat,
      ← Nat.mul_add, Nat.mul_div_cancel_left _ (Nat.two_pow_pos _), Nat.mul_add_mod, Nat.mod_eq_of_lt f.x.isLt]

/-! ### The fields of each instruction -/

/-- The operands of an instruction at their places in its word, from the top on, and what its encoding fixes (R67 to R82). -/
def fieldsOf : Instr → List Field
  | .wait f cnt | .post f cnt => [⟨7, 5, f⟩, ⟨0, 7, cnt⟩]
  | .postp rank f inc => [⟨9, 3, rank⟩, ⟨4, 5, f⟩, ⟨0, 4, inc⟩]
  | .banklk cnt bank0 nb => [⟨8, 4, cnt⟩, ⟨3, 5, bank0⟩, ⟨0, 3, nb⟩]
  | .cbar bid => [⟨8, 4, bid⟩]
  | .br off => [⟨0, 26, off⟩]
  | .brc s cond off => [⟨20, 6, s⟩, ⟨17, 3, cond⟩, ⟨0, 17, off⟩]
  | .bri s | .next s => [⟨20, 6, s⟩]
  | .call a off => [⟨21, 5, a⟩, ⟨0, 21, off⟩]
  | .ret a | .tail a | .dictsw a => [⟨21, 5, a⟩]
  | .loop i imm cnt e | .lrev i imm cnt e => [⟨23, 3, i⟩, ⟨22, 1, imm⟩, ⟨12, 10, cnt⟩, ⟨0, 12, e⟩]
  | .loopq i e | .lreplay i e => [⟨23, 3, i⟩, ⟨0, 12, e⟩]
  | .lnest i n e => [⟨23, 3, i⟩, ⟨20, 3, n⟩, ⟨0, 12, e⟩]
  | .phprep k | .phadv k | .phset k => [⟨22, 4, k⟩]
  | .mapld map a => [⟨22, 4, map⟩, ⟨17, 5, a⟩]
  | .trap code => [⟨0, 16, code⟩]
  | .srd s sysn | .swr s sysn => [⟨20, 6, s⟩, ⟨12, 8, sysn⟩]
  | .add d a b | .sub d a b | .mul d a b | .mulh d a b | .divq d a b | .remq d a b | .and d a b | .or d a b | .xor d a b
  | .shl d a b | .shr d a b | .sra d a b | .min d a b | .max d a b | .minn d a b | .maxn d a b | .cmpeq d a b
  | .cmplt d a b | .cmpltn d a b | .fadd d a b | .fmul d a b => [⟨20, 6, d⟩, ⟨14, 6, a⟩, ⟨8, 6, b⟩]
  | .addi d a imm | .andi d a imm | .ori d a imm | .xori d a imm => [⟨20, 6, d⟩, ⟨14, 6, a⟩, ⟨0, 14, imm⟩]
  | .shli d a sh | .shri d a sh | .srai d a sh => [⟨20, 6, d⟩, ⟨14, 6, a⟩, ⟨0, 6, sh⟩]
  | .sel d a b c | .bfi d a b c | .fma d a b c => [⟨20, 6, d⟩, ⟨14, 6, a⟩, ⟨8, 6, b⟩, ⟨2, 6, c⟩]
  | .movi d imm => [⟨20, 6, d⟩, ⟨0, 20, imm⟩]
  | .movhi d q imm => [⟨20, 6, d⟩, ⟨18, 2, q⟩, ⟨0, 16, imm⟩]
  | .clz d a | .popc d a => [⟨20, 6, d⟩, ⟨14, 6, a⟩]
  | .bfx d a pos len sgn => [⟨20, 6, d⟩, ⟨14, 6, a⟩, ⟨8, 6, pos⟩, ⟨2, 6, len⟩, ⟨1, 1, sgn⟩]
  | .aadd ad aa s => [⟨21, 5, ad⟩, ⟨16, 5, aa⟩, ⟨10, 6, s⟩]
  | .amov a dir s => [⟨21, 5, a⟩, ⟨20, 1, dir⟩, ⟨14, 6, s⟩]
  | .alea ad aa s sh => [⟨21, 5, ad⟩, ⟨16, 5, aa⟩, ⟨10, 6, s⟩, ⟨7, 3, sh⟩]
  | .fcvt d a dfmt sfmt sat => [⟨20, 6, d⟩, ⟨14, 6, a⟩, ⟨9, 5, dfmt⟩, ⟨4, 5, sfmt⟩, ⟨3, 1, sat⟩]
  | .tshape t fmt rows bpr gsz => [⟨22, 4, t⟩, ⟨17, 5, fmt⟩, ⟨10, 7, rows⟩, ⟨3, 7, bpr⟩, ⟨1, 2, gsz⟩]
  | .mpar p s => [⟨23, 3, p⟩, ⟨17, 6, s⟩]
  | .ld sp ac d a arr ord pi addr =>
    [⟨40, 2, sp⟩, ⟨37, 3, ac⟩, ⟨28, 6, d⟩, ⟨23, 5, a⟩, ⟨13, 10, arr⟩, ⟨11, 1, ord⟩, ⟨10, 1, pi⟩, ⟨0, 10, addr⟩]
  | .st sp ac s a ord pi addr => [⟨40, 2, sp⟩, ⟨37, 3, ac⟩, ⟨28, 6, s⟩, ⟨23, 5, a⟩, ⟨11, 1, ord⟩, ⟨10, 1, pi⟩, ⟨0, 10, addr⟩]
  | .ldv sp ac v a arr nr ord pi addr =>
    [⟨40, 2, sp⟩, ⟨37, 3, ac⟩, ⟨28, 9, v⟩, ⟨23, 5, a⟩, ⟨13, 10, arr⟩, ⟨12, 1, nr⟩, ⟨11, 1, ord⟩, ⟨10, 1, pi⟩, ⟨0, 10, addr⟩]
  | .stv sp ac v a ord pi addr => [⟨40, 2, sp⟩, ⟨37, 3, ac⟩, ⟨28, 9, v⟩, ⟨23, 5, a⟩, ⟨11, 1, ord⟩, ⟨10, 1, pi⟩, ⟨0, 10, addr⟩]
  | .ldvs sp ac v a arr s esz => [⟨40, 2, sp⟩, ⟨37, 3, ac⟩, ⟨28, 9, v⟩, ⟨23, 5, a⟩, ⟨13, 10, arr⟩, ⟨4, 6, s⟩, ⟨2, 2, esz⟩]
  | .stvs sp ac v a s esz => [⟨40, 2, sp⟩, ⟨37, 3, ac⟩, ⟨28, 9, v⟩, ⟨23, 5, a⟩, ⟨4, 6, s⟩, ⟨2, 2, esz⟩]
  | .ldvg sp ac v a arr x esz => [⟨40, 2, sp⟩, ⟨37, 3, ac⟩, ⟨28, 9, v⟩, ⟨23, 5, a⟩, ⟨13, 10, arr⟩, ⟨4, 9, x⟩, ⟨2, 2, esz⟩]
  | .stvg sp ac v a x esz => [⟨40, 2, sp⟩, ⟨37, 3, ac⟩, ⟨28, 9, v⟩, ⟨23, 5, a⟩, ⟨4, 9, x⟩, ⟨2, 2, esz⟩]
  | .ldt sp ac t a arr pi off => [⟨40, 2, sp⟩, ⟨37, 3, ac⟩, ⟨28, 4, t⟩, ⟨23, 5, a⟩, ⟨13, 10, arr⟩, ⟨10, 1, pi⟩, ⟨0, 10, off⟩]
  | .stt sp ac t a pi off | .stt2 sp ac t a pi off => [⟨40, 2, sp⟩, ⟨37, 3, ac⟩, ⟨28, 4, t⟩, ⟨23, 5, a⟩, ⟨10, 1, pi⟩, ⟨0, 10, off⟩]
  | .amo sp ac d s a scope aop w64 acq rel =>
    [⟨40, 2, sp⟩, ⟨37, 3, ac⟩, ⟨31, 6, d⟩, ⟨25, 6, s⟩, ⟨20, 5, a⟩, ⟨17, 3, scope⟩, ⟨13, 4, aop⟩, ⟨12, 1, w64⟩, ⟨11, 1, acq⟩, ⟨10, 1, rel⟩]
  | .red sp ac s a scope aop w64 rel ord =>
    [⟨40, 2, sp⟩, ⟨37, 3, ac⟩, ⟨25, 6, s⟩, ⟨20, 5, a⟩, ⟨17, 3, scope⟩, ⟨13, 4, aop⟩, ⟨12, 1, w64⟩, ⟨10, 1, rel⟩, ⟨9, 1, ord⟩]
  | .drain scope => [⟨39, 3, scope⟩]
  | .fence scope acls => [⟨39, 3, scope⟩, ⟨31, 8, acls⟩]
  | .cvtways nw => [⟨37, 5, nw⟩]
  | .cinv sp ac a nl | .cwb sp ac a nl | .pref sp ac a nl => [⟨40, 2, sp⟩, ⟨37, 3, ac⟩, ⟨23, 5, a⟩, ⟨13, 10, nl⟩]
  | .vadd vd va vb fmt m men | .vsub vd va vb fmt m men | .vmul vd va vb fmt m men | .vfma vd va vb fmt m men
  | .vmin vd va vb fmt m men | .vmax vd va vb fmt m men | .vand vd va vb fmt m men | .vor vd va vb fmt m men
  | .vxor vd va vb fmt m men | .vshl vd va vb fmt m men | .vshr vd va vb fmt m men | .vsra vd va vb fmt m men
  | .vperm vd va vb fmt m men => [⟨33, 9, vd⟩, ⟨24, 9, va⟩, ⟨15, 9, vb⟩, ⟨10, 5, fmt⟩, ⟨6, 4, m⟩, ⟨5, 1, men⟩]
  | .vabs vd va fmt m men | .vneg vd va fmt m men | .vnot vd va fmt m men | .vmov vd va fmt m men
  | .vrcp vd va fmt m men | .vrsq vd va fmt m men | .vexp2 vd va fmt m men =>
    [⟨33, 9, vd⟩, ⟨24, 9, va⟩, ⟨10, 5, fmt⟩, ⟨6, 4, m⟩, ⟨5, 1, men⟩]
  | .vcmp md va vb fmt m men fn => [⟨33, 4, md⟩, ⟨24, 9, va⟩, ⟨15, 9, vb⟩, ⟨10, 5, fmt⟩, ⟨6, 4, m⟩, ⟨5, 1, men⟩, ⟨0, 4, fn⟩]
  | .vsel vd va vb fmt m => [⟨33, 9, vd⟩, ⟨24, 9, va⟩, ⟨15, 9, vb⟩, ⟨10, 5, fmt⟩, ⟨6, 4, m⟩, ⟨5, 1, 1⟩]
  | .vbcast vd s fmt m men => [⟨33, 9, vd⟩, ⟨24, 6, s⟩, ⟨10, 5, fmt⟩, ⟨6, 4, m⟩, ⟨5, 1, men⟩]
  | .vext s va sl fmt m men => [⟨33, 6, s⟩, ⟨24, 9, va⟩, ⟨15, 6, sl⟩, ⟨10, 5, fmt⟩, ⟨6, 4, m⟩, ⟨5, 1, men⟩]
  | .vins vd s sl fmt m men => [⟨33, 9, vd⟩, ⟨24, 6, s⟩, ⟨15, 6, sl⟩, ⟨10, 5, fmt⟩, ⟨6, 4, m⟩, ⟨5, 1, men⟩]
  | .vred s va fmt m men fn => [⟨33, 6, s⟩, ⟨24, 9, va⟩, ⟨10, 5, fmt⟩, ⟨6, 4, m⟩, ⟨5, 1, men⟩, ⟨0, 4, fn⟩]
  | .vscan vd va fmt m men fn => [⟨33, 9, vd⟩, ⟨24, 9, va⟩, ⟨10, 5, fmt⟩, ⟨6, 4, m⟩, ⟨5, 1, men⟩, ⟨0, 4, fn⟩]
  | .vcvt vd va sfmt fmt m men sat => [⟨33, 9, vd⟩, ⟨24, 9, va⟩, ⟨15, 5, sfmt⟩, ⟨10, 5, fmt⟩, ⟨6, 4, m⟩, ⟨5, 1, men⟩, ⟨4, 1, sat⟩]
  | .vthr md va s fmt m men | .vtopk md va s fmt m men => [⟨33, 4, md⟩, ⟨24, 9, va⟩, ⟨15, 6, s⟩, ⟨10, 5, fmt⟩, ⟨6, 4, m⟩, ⟨5, 1, men⟩]
  | .vhist va s fmt m men => [⟨24, 9, va⟩, ⟨15, 6, s⟩, ⟨10, 5, fmt⟩, ⟨6, 4, m⟩, ⟨5, 1, men⟩]
  | .scacc vd va vb m men => [⟨33, 9, vd⟩, ⟨24, 9, va⟩, ⟨15, 9, vb⟩, ⟨6, 4, m⟩, ⟨5, 1, men⟩]
  | .vefq vd va vb => [⟨33, 9, vd⟩, ⟨24, 9, va⟩, ⟨15, 9, vb⟩, ⟨10, 5, 8⟩]
  | .mand md ma mb m men | .mor md ma mb m men | .mxor md ma mb m men => [⟨33, 4, md⟩, ⟨24, 4, ma⟩, ⟨15, 4, mb⟩, ⟨6, 4, m⟩, ⟨5, 1, men⟩]
  | .mnot md ma m men => [⟨33, 4, md⟩, ⟨24, 4, ma⟩, ⟨6, 4, m⟩, ⟨5, 1, men⟩]
  | .mpopc s ma m men => [⟨33, 6, s⟩, ⟨24, 4, ma⟩, ⟨6, 4, m⟩, ⟨5, 1, men⟩]
  | .xexp td ta fmt | .xcvt td ta fmt | .xreblk td ta fmt => [⟨9, 4, td⟩, ⟨5, 4, ta⟩, ⟨0, 5, fmt⟩]
  | .xtrn td ta => [⟨9, 4, td⟩, ⟨5, 4, ta⟩]
  | .slatch side v half => [⟨13, 1, side⟩, ⟨4, 9, v⟩, ⟨3, 1, half⟩]
  | .slclr side => [⟨13, 1, side⟩]
  | .mcall entry => [⟨13, 6, entry⟩]
  | .acz slot | .acrel slot => [⟨15, 4, slot⟩]
  | .acwb slot grp p dst | .acadj slot grp p dst => [⟨15, 4, slot⟩, ⟨12, 3, grp⟩, ⟨9, 3, p⟩, ⟨8, 1, dst⟩]
  | .mpsld p => [⟨16, 3, p⟩]
  | .acbrd ba bb v one | .acbwr ba bb v one => [⟨15, 4, ba⟩, ⟨11, 4, bb⟩, ⟨2, 9, v⟩, ⟨1, 1, one⟩]
  | .cpy a f | .mcast a f | .bte a f | .tld a f | .tst a f | .cmpx a f | .cmpw a f | .tgath a f | .tscat a f
  | .qfence a f | .qpush a f | .lkbegin a f | .lkreq a f | .lkupg a f | .lkrel a f | .lkrelall a f | .coll a f
  | .nettx a f | .netrxp a f | .stgrd a f | .vdec a f | .pgreq a f => [⟨6, 5, a⟩, ⟨1, 5, f⟩]
  | .midle cnt | .mjmp cnt => [⟨18, 10, cnt⟩]
  | .mlda p row0 nrow | .mldb p row0 nrow => [⟨25, 3, p⟩, ⟨18, 7, row0⟩, ⟨11, 7, nrow⟩]
  | .mstep nch => [⟨20, 8, nch⟩]
  | .mscale side en => [⟨27, 1, side⟩, ⟨26, 1, en⟩]
  | .mzp side p => [⟨27, 1, side⟩, ⟨24, 3, p⟩]
  | .mskip en | .mwaits en => [⟨27, 1, en⟩]
  | .mrowb row p => [⟨21, 7, row⟩, ⟨18, 3, p⟩]
  | .macc p int => [⟨25, 3, p⟩, ⟨24, 1, int⟩]
  | .mloop cnt top => [⟨18, 10, cnt⟩, ⟨8, 10, top⟩]
  | .mfmt afmt bfmt => [⟨23, 5, afmt⟩, ⟨18, 5, bfmt⟩]
  | .msetk k => [⟨16, 12, k⟩]
  | .mclr p => [⟨25, 3, p⟩]
  | _ => []

/-- An instruction whose word is its opcode with its fields is read back, and its word is no wider than its slot. -/
theorem read_word {i : Instr} {w low width : Nat} {cand : Nat → Nat → Option Instr} (hword : encode i = addFields w (fieldsOf i))
    (hfit : fitBelow low (fieldsOf i) = true) (hop : 2 ^ low ∣ w ∧ low ≤ width ∧ w < 2 ^ width)
    (hcand : ∀ v, holdsFields v (fieldsOf i) → cand v (w / 2 ^ low) = some i) :
    encode i < 2 ^ width ∧ cand (encode i) (encode i / 2 ^ low) = some i := by
  obtain ⟨hw, hle, hlt⟩ := hop
  have hdiv := addFields_div (fieldsOf i) hw hfit
  refine ⟨?_, ?_⟩
  · obtain ⟨d, rfl⟩ := Nat.exists_eq_add_of_le hle
    rw [Nat.pow_add, Nat.mul_comm] at hlt ⊢
    rwa [hword, ← Nat.div_lt_iff_lt_mul (Nat.two_pow_pos low), hdiv, Nat.div_lt_iff_lt_mul (Nat.two_pow_pos low)]
  · rw [hword, hdiv]
    exact hcand _ (addFields_holds (fieldsOf i) hw hfit)

/-! ### The instructions of each slot, one lemma a slot: every operand is read from its place -/

theorem read_sync {i : Instr} (h : slotOf i = some .sync) :
    encode i < 2 ^ 16 ∧ candidateSync (encode i) (encode i / 2 ^ 12) = some i := by
  cases i <;> simp only [slotOf, reduceCtorEq, Option.some.injEq] at h
  all_goals
    refine read_word (w := _) rfl rfl (by decide) fun v hv => ?_
    dsimp only [fieldsOf, holdsFields] at hv
    repeat obtain ⟨rfl, hv⟩ := hv
    rfl

theorem read_ctrl {i : Instr} (h : slotOf i = some .ctrl) :
    encode i < 2 ^ 32 ∧ candidateCtrl (encode i) (encode i / 2 ^ 26) = some i := by
  cases i <;> simp only [slotOf, reduceCtorEq, Option.some.injEq] at h
  all_goals
    refine read_word (w := _) rfl rfl (by decide) fun v hv => ?_
    dsimp only [fieldsOf, holdsFields] at hv
    repeat obtain ⟨rfl, hv⟩ := hv
    rfl

theorem read_sca {i : Instr} (h : slotOf i = some .sca) :
    encode i < 2 ^ 32 ∧ candidateSca (encode i) (encode i / 2 ^ 26) = some i := by
  cases i <;> simp only [slotOf, reduceCtorEq, Option.some.injEq] at h
  all_goals
    refine read_word (w := _) rfl rfl (by decide) fun v hv => ?_
    dsimp only [fieldsOf, holdsFields] at hv
    repeat obtain ⟨rfl, hv⟩ := hv
    rfl

theorem read_mem {i : Instr} (h : slotOf i = some .mem) :
    encode i < 2 ^ 48 ∧ candidateMem (encode i) (encode i / 2 ^ 42) = some i := by
  cases i <;> simp only [slotOf, reduceCtorEq, Option.some.injEq] at h
  all_goals
    refine read_word (w := _) rfl rfl (by decide) fun v hv => ?_
    dsimp only [fieldsOf, holdsFields] at hv
    repeat obtain ⟨rfl, hv⟩ := hv
    rfl

/-- VSEL's word fixes MEN at 1 (R76). -/
theorem encode_vsel (vd va vb : BitVec 9) (fmt : BitVec 5) (m : BitVec 4) :
    encode (.vsel vd va vb fmt m) = addFields 0x440000000000 (fieldsOf (.vsel vd va vb fmt m)) := by
  have hmen : (1 : BitVec 1).toNat = 1 := rfl
  dsimp only [encode, fieldsOf, addFields]
  simp only [Field.part_eq, hmen, Nat.reducePow]
  omega

/-- VEFQ's word fixes FMT at 8, the format of its codes (R76, R146). -/
theorem encode_vefq (vd va vb : BitVec 9) : encode (.vefq vd va vb) = addFields 0x840000000000 (fieldsOf (.vefq vd va vb)) := by
  have hfmt : (8 : BitVec 5).toNat = 8 := rfl
  dsimp only [encode, fieldsOf, addFields]
  simp only [Field.part_eq, hfmt, Nat.reducePow]
  omega

theorem read_vec {i : Instr} (h : slotOf i = some .vec) :
    encode i < 2 ^ 48 ∧ candidateVec (encode i) (encode i / 2 ^ 42) = some i := by
  cases i <;> simp only [slotOf, reduceCtorEq, Option.some.injEq] at h
  case vsel vd va vb fmt m =>
    refine read_word (encode_vsel vd va vb fmt m) rfl (by decide) fun v hv => ?_
    dsimp only [fieldsOf, holdsFields] at hv
    obtain ⟨rfl, rfl, rfl, rfl, rfl, -⟩ := hv
    rfl
  case vefq vd va vb =>
    refine read_word (encode_vefq vd va vb) rfl (by decide) fun v hv => ?_
    dsimp only [fieldsOf, holdsFields] at hv
    obtain ⟨rfl, rfl, rfl, -⟩ := hv
    rfl
  all_goals
    refine read_word (w := _) rfl rfl (by decide) fun v hv => ?_
    dsimp only [fieldsOf, holdsFields] at hv
    repeat obtain ⟨rfl, hv⟩ := hv
    rfl

theorem read_xfm {i : Instr} (h : slotOf i = some .xfm) :
    encode i < 2 ^ 16 ∧ candidateXfm (encode i) (encode i / 2 ^ 13) = some i := by
  cases i <;> simp only [slotOf, reduceCtorEq, Option.some.injEq] at h
  all_goals
    refine read_word (w := _) rfl rfl (by decide) fun v hv => ?_
    dsimp only [fieldsOf, holdsFields] at hv
    repeat obtain ⟨rfl, hv⟩ := hv
    rfl

theorem read_scl {i : Instr} (h : slotOf i = some .scl) :
    encode i < 2 ^ 16 ∧ candidateScl (encode i) (encode i / 2 ^ 14) = some i := by
  cases i <;> simp only [slotOf, reduceCtorEq, Option.some.injEq] at h
  all_goals
    refine read_word (w := _) rfl rfl (by decide) fun v hv => ?_
    dsimp only [fieldsOf, holdsFields] at hv
    repeat obtain ⟨rfl, hv⟩ := hv
    rfl

theorem read_mtx {i : Instr} (h : slotOf i = some .mtx) :
    encode i < 2 ^ 24 ∧ candidateMtx (encode i) (encode i / 2 ^ 19) = some i := by
  cases i <;> simp only [slotOf, reduceCtorEq, Option.some.injEq] at h
  all_goals
    refine read_word (w := _) rfl rfl (by decide) fun v hv => ?_
    dsimp only [fieldsOf, holdsFields] at hv
    repeat obtain ⟨rfl, hv⟩ := hv
    rfl

theorem read_eng {i : Instr} (h : slotOf i = some .eng) :
    encode i < 2 ^ 16 ∧ candidateEng (encode i) (encode i / 2 ^ 11) = some i := by
  cases i <;> simp only [slotOf, reduceCtorEq, Option.some.injEq] at h
  all_goals
    refine read_word (w := _) rfl rfl (by decide) fun v hv => ?_
    dsimp only [fieldsOf, holdsFields] at hv
    repeat obtain ⟨rfl, hv⟩ := hv
    rfl

theorem read_micro {i : Instr} (h : slotOf i = some .micro) :
    encode i < 2 ^ 32 ∧ candidateMicro (encode i) (encode i / 2 ^ 28) = some i := by
  cases i <;> simp only [slotOf, reduceCtorEq, Option.some.injEq] at h
  all_goals
    refine read_word (w := _) rfl rfl (by decide) fun v hv => ?_
    dsimp only [fieldsOf, holdsFields] at hv
    repeat obtain ⟨rfl, hv⟩ := hv
    rfl

/-- An instruction stands in its slot's word, and the opcode there names it with its operands. -/
theorem candidate_encode {i : Instr} {k : SlotKind} (h : slotOf i = some k) :
    encode i < 2 ^ slotWidth k ∧ candidate k (encode i) = some i := by
  cases k with
  | sync => exact read_sync h
  | ctrl => exact read_ctrl h
  | sca => exact read_sca h
  | mem => exact read_mem h
  | vec => exact read_vec h
  | xfm => exact read_xfm h
  | scl => exact read_scl h
  | mtx => exact read_mtx h
  | eng => exact read_eng h
  | micro => exact read_micro h

/-- Settles O5: what the word's opcode names is the instruction, which re-encodes to the word and is admitted. -/
theorem decodeOfEncodeIsTheInstruction : Obligations.DecodeOfEncodeIsTheInstruction := by
  intro i k hslot hadm
  obtain ⟨hlt, hcand⟩ := candidate_encode hslot
  refine ⟨hlt, ?_⟩
  simp only [decodeSlot, hcand, ne_eq, not_true_eq_false, if_false, hadm, if_true]

end Sys2Proof
end

section
/-! PROOFS. The first write on its way retires (R54, R107, R148). -/

namespace Sys2Proof.Machine

/-! ### Runs of bytes of a tile -/

/-- A key lies in a run of bytes of tile `n`. -/
def inRun (n key : Nat) (r : Nat × List Byte) : Bool := decide (16384 * n + r.1 ≤ key ∧ key < 16384 * n + r.1 + r.2.length)

/-- Bytes put from a key on are read at their keys. -/
theorem tabGet_putBytes (t : Tab Byte) (base : Nat) (bs : List Byte) (i key : Nat) :
    tabGet 0 ((bs.zipIdx i).foldl (fun t b => tabPut t (base + b.2) b.1) t) key =
      if base + i ≤ key ∧ key < base + i + bs.length then bs.getD (key - (base + i)) 0 else tabGet 0 t key := by
  induction bs generalizing t i with
  | nil => simp
  | cons b bs ih =>
    rw [List.zipIdx_cons, List.foldl_cons, ih, tabGet_put]
    rcases Nat.lt_trichotomy key (base + i) with h | h | h
    · rw [if_neg (by omega), if_neg (by omega), if_neg (by omega)]
    · subst h
      simp
    · obtain ⟨d, rfl⟩ : ∃ d, key = base + i + (d + 1) := ⟨key - (base + i) - 1, by omega⟩
      have hd : base + i + (d + 1) - (base + (i + 1)) = d := by omega
      have hs : base + i + (d + 1) - (base + i) = d + 1 := by omega
      have hin : base + (i + 1) ≤ base + i + (d + 1) ∧ base + i + (d + 1) < base + (i + 1) + bs.length
          ↔ base + i ≤ base + i + (d + 1) ∧ base + i + (d + 1) < base + i + (b :: bs).length := by
        simp only [List.length_cons]; omega
      rw [hd, hs, List.getD_cons_succ, if_neg (show ¬base + i + (d + 1) = base + i by omega)]
      simp only [hin]

/-- Of the runs put into a tile the last one that holds a byte gives it. -/
theorem tabGet_putRuns (t : Tab Byte) (n key : Nat) (runs : List (Nat × List Byte)) :
    tabGet 0 (runs.foldl (fun t r => (r.2.zipIdx).foldl (fun t b => tabPut t (16384 * n + r.1 + b.2) b.1) t) t) key =
      match runs.reverse.find? (inRun n key) with
      | some r => r.2.getD (key - (16384 * n + r.1)) 0
      | none => tabGet 0 t key := by
  induction runs using List.reverseRecOn with
  | nil => rfl
  | append_singleton runs r ih =>
    rw [List.foldl_append, List.foldl_cons, List.foldl_nil, tabGet_putBytes, ih, List.reverse_append, List.reverse_singleton,
      List.singleton_append, List.find?_cons, Nat.add_zero]
    by_cases h : 16384 * n + r.1 ≤ key ∧ key < 16384 * n + r.1 + r.2.length
    · simp only [inRun, h, and_self, decide_true, if_true]
    · simp only [inRun, h, decide_false, if_false]

/-! ### The retirement -/

/-- The event by which a write of a kind retires. -/
def retireOf (c : Nat) : PendKind → Instr
  | .fixed => .writeRetire c
  | .xfm => .xfmRetire c
  | _ => .landing c

/-- A write that retires writes no memory. -/
theorem State.apply_quiet (s : State) (c : Nat) (w : RegWrite) :
    (s.apply c w).mem = s.mem ∧ (s.apply c w).wlog = s.wlog ∧ (s.apply c w).fl = s.fl ∧ (s.apply c w).dev = s.dev := by
  cases w <;> exact ⟨rfl, rfl, rfl, rfl⟩

theorem State.apply_other (s : State) (c : Nat) (w : RegWrite) :
    (∀ d, d ≠ c → (s.apply c w).ctx d = s.ctx d) ∧ ∀ k, k ≠ coreOf c → (s.apply c w).core k = s.core k := by
  cases w
  case tctl => exact ⟨fun _ _ => rfl, fun k hk => State.core_setCore_ne s _ _ hk⟩
  case tile => exact ⟨fun _ _ => rfl, fun k hk => State.core_setCore_ne s _ _ hk⟩
  all_goals exact ⟨fun d hd => State.ctx_setCtx_ne s _ _ hd, fun _ _ => rfl⟩

/-- The event of its kind takes the first write off the list and puts it into its register. -/
theorem exec_retire {s : State} {c : Nat} {p : Pend} {rest : List Pend} (hw : s.wlog = []) (hp : (s.ctx c).pend = p :: rest)
    (hr : p.ready = true) (hd : p.due ≤ (s.core (coreOf c)).cyc) :
    exec (retireOf c p.kind) s = .next ((s.setCtx c { s.ctx c with pend := rest }).apply c p.w) := by
  have hhead (ok : PendKind → Bool) (hk : ok p.kind = true) :
      done s (s.retireHead c ok) = .next ((s.setCtx c { s.ctx c with pend := rest }).apply c p.w) := by
    obtain ⟨hm, hl, -, -⟩ := State.apply_quiet (s.setCtx c { s.ctx c with pend := rest }) c p.w
    have he : s.retireHead c ok = (s.setCtx c { s.ctx c with pend := rest }).apply c p.w := by
      simp only [State.retireHead, hp, hk, hr, hd, Bool.and_self, decide_true, if_true]
    rw [he]
    exact done_eq (hl.trans hw) hm
  cases hkind : p.kind with
  | fixed => exact hhead (· == .fixed) (by rw [hkind]; rfl)
  | xfm => exact hhead (· == .xfm) (by rw [hkind]; rfl)
  | load => exact hhead (fun k => k == .load || k == .landing) (by rw [hkind]; rfl)
  | landing => exact hhead (fun k => k == .load || k == .landing) (by rw [hkind]; rfl)

/-- Settles O12: the event puts the write into its register, and each register file is read after that write. -/
theorem dueWritesRetire : Obligations.DueWritesRetire := by
  intro s c p rest hw hp hr hd i x
  have hi : i = retireOf c p.kind := by
    show (match p.kind with | .fixed => Instr.writeRetire c | .xfm => .xfmRetire c | _ => .landing c) = _
    cases p.kind <;> rfl
  obtain ⟨hm, hl, hfl, hdev⟩ := State.apply_quiet (s.setCtx c { x with pend := rest }) c p.w
  obtain ⟨hctx, hcore⟩ := State.apply_other (s.setCtx c { x with pend := rest }) c p.w
  refine ⟨_, hi ▸ exec_retire hw hp hr hd, fun k => ?_, fun d hdc => ?_, hcore, hfl, hdev, ?register⟩
  · simp only [State.byte, hm, hl, State.setCtx_mem, State.setCtx_wlog]
  · rw [hctx d hdc, State.ctx_setCtx_ne s c _ hdc]
  case register =>
    cases hreg : p.w with
    | s n v =>
      refine ⟨?_, rfl, fun m => ?_⟩
      · simp [State.apply, x]
      · simp [State.apply, Ctx.sreg, tabGet_put, x]
    | a n v =>
      refine ⟨?_, rfl, fun m => ?_⟩
      · simp [State.apply, x]
      · simp [State.apply, Ctx.areg, tabGet_put, x]
    | v n v =>
      refine ⟨?_, rfl, fun m => ?_⟩
      · simp [State.apply, x]
      · simp [State.apply, Ctx.vreg, tabGet_put, x]
    | m n v =>
      refine ⟨?_, rfl, fun m => ?_⟩
      · simp [State.apply, x]
      · simp [State.apply, Ctx.mreg, tabGet_put, x]
    | p n v =>
      refine ⟨?_, rfl, fun m => ?_⟩
      · simp [State.apply, x]
      · simp [State.apply, Ctx.preg, tabGet_put, x]
    | tctl n v =>
      refine ⟨?_, ?_, fun m => ?_⟩
      · simp [State.apply, x]
      · simp [State.apply]
      · simp [State.apply, Core.tctlOf, tabGet_put]
    | tile n runs =>
      refine ⟨?_, ?_, fun m o => ?_⟩
      · simp [State.apply, x]
      · simp [State.apply]
      · simp only [State.apply, Core.tileByte, State.core_setCore]
        exact tabGet_putRuns _ n _ runs
    | phase map gen =>
      refine ⟨?_, rfl⟩
      simp [State.apply, x]
    | count ps =>
      refine ⟨?_, rfl⟩
      simp [State.apply, x]
    | fail e =>
      refine ⟨rfl, ?_⟩
      simp [State.apply, x]

end Sys2Proof.Machine
end

section
/-! PROOFS. What BUNDLE_FETCH puts in flight (R50, R57 to R60, R215): the bundle gathered and decoded stands in flight through every check
before its issue, and a check that fails leaves no bundle in flight. -/

namespace Sys2Proof.Machine

/-! ### What gathering and the checks leave in flight -/

namespace Keeps

theorem performs {s t : State} (h : Performs s t) : Keeps s t := h.keeps
theorem bump (s : State) : Keeps s { s with fresh := s.fresh + 1 } := ⟨rfl, rfl⟩

theorem keep (s : State) (c : Nat) (f : Fetched) : Keeps s (s.keep c f) :=
  (((fills s f.ts).trans (Performs.touch _ _).keeps).trans (Performs.countSubst _ _ _).keeps).trans (setCtx _ _ _)

theorem enterRun (s : State) (c : Nat) : Keeps s (s.enterRun c) := by
  unfold State.enterRun
  dsimp only
  split
  · exact refl
  split
  · exact refl
  split
  · exact (keep s c _).trans (setCtx _ _ _)
  · exact refl

theorem gatherLiteral (s : State) (c pc : Nat) : Keeps s (s.gatherLiteral c pc).1 := by
  unfold State.gatherLiteral
  split
  · exact keep s c _
  · dsimp only
    split <;> exact keep s c _

theorem holdEntry (s : State) (core : Nat) (e : Nat × Nat × Nat) : Keeps s (s.holdEntry core e) := by
  unfold State.holdEntry
  dsimp only
  split
  · exact setCore s core _
  · exact (bump s).trans (setCore _ core _)

theorem gatherEntry (s : State) (c index : Nat) : Keeps s (s.gatherEntry c index).1 := by
  unfold State.gatherEntry
  dsimp only
  split
  · exact refl
  · exact (keep s c _).trans (holdEntry _ _ _)
  · split
    · exact refl
    · split
      · exact (bump s).trans ((keep _ c _).trans (holdEntry _ _ _))
      · exact bump s
  · exact refl

theorem gather (s : State) (c : Nat) : Keeps s (s.gather c).1 := by
  unfold State.gather
  refine (enterRun s c).trans ?_
  dsimp only
  split
  · exact gatherLiteral _ _ _
  split
  · exact refl
  next f _ =>
    refine (keep _ c f).trans ?_
    split
    · exact refl
    · have h := gatherEntry ((s.enterRun c).keep c f) c
      split <;> next e => exact (e ▸ h _ :)

theorem finishSplit (s : State) (c : Nat) : Keeps s (s.finishSplit c) := by
  unfold State.finishSplit
  split
  · exact refl
  next p loads _ =>
    have hl : Keeps s (State.takeLoads c loads (s, p.bytes)).1 := (Performs.takeLoads c loads (s, p.bytes)).keeps
    dsimp only
    split
    · exact (hl.trans (setCtx _ _ _)).trans (takeFault _ _ _)
    · exact hl.trans (setCtx _ _ _)

theorem refuse (s : State) (c pc : Nat) (lit : Bool) (code detail faddr smask line : Nat) (mig : Bool) :
    Keeps s (s.refuse c pc lit code detail faddr smask line mig) := (setCtx s c _).trans (takeFault _ _ _)

theorem arriveAt (s : State) (c bid : Nat) : Keeps s (s.arriveAt c bid) := by
  unfold State.arriveAt
  dsimp only
  refine ite refl ?_
  have hp : Keeps s ((s.performAll c).drainOf c) := (performAll s c).trans (Performs.drainOf _ c).keeps
  refine ite hp (hp.trans ?_)
  refine ite (trans ?_ (foldl (fun s d => setCtx s d _) _ _)) ⟨rfl, rfl⟩
  exact ⟨rfl, rfl⟩

theorem clearPort (s : State) (c : Nat) (is : Slots) : Keeps s (s.clearPort c is).1 := by
  unfold State.clearPort
  split
  · exact performAll s c
  · exact refl

theorem choose (s : State) (c w : Nat) : Keeps s (s.choose c w) := by
  unfold State.choose
  dsimp only
  split
  · exact setCtx s c _
  · split <;> exact ⟨rfl, rfl⟩

end Keeps

/-- A NEXT that may issue leaves the bundle in flight. -/
theorem nextCheck_fl {s t : State} {c : Nat} (h : s.nextCheck c = (t, true)) : t.fl = s.fl := by
  unfold State.nextCheck at h
  dsimp only at h
  split at h
  · cases h
    rfl
  · split at h <;> cases h
    refine (Keeps.choose _ c _).fl.trans ?_
    split <;> rfl

/-- A renewal at which no one waited leaves the bundle in flight. -/
theorem renewBanks_fl {s t : State} {c : Nat} {is : Slots} (h : s.renewBanks c is = (t, false)) : t.fl = s.fl := by
  unfold State.renewBanks at h
  split at h
  · dsimp only at h
    obtain ⟨ht, hws⟩ := Prod.mk.inj h
    simp only [ne_eq, decide_eq_false_iff_not, not_not] at hws
    rw [← ht, hws]
    rfl
  · cases h
    rfl

/-! ### The issue -/

/-- A fault that stops a bundle before its issue leaves none in flight. -/
theorem refuse_endFlight_live (s : State) (c pc : Nat) (lit : Bool) (code detail faddr smask line : Nat) (mig : Bool) :
    (s.endFlight.refuse c pc lit code detail faddr smask line mig).fl.live = false := by
  rw [(Keeps.refuse _ c pc lit code detail faddr smask line mig).fl]
  rfl

/-- A PHADV that does not let its bundle issue leaves none in flight. -/
theorem phadvHold_live (s : State) (map : Nat) : (s.phadvHold map).fl.live = false := by
  unfold State.phadvHold
  split <;> rfl

/-- Where the check of a context's next bundle lets it issue and does not end in a fault, the flight issued is that of the bundle that was
gathered and decoded. -/
theorem tryIssue_issues {s s' : State} {c : Nat} (hidle : s.fl.live = false) (hdrain : (s.ctx c).drain = none)
    (h : s.tryIssue c = (s', .go)) (hlive : s'.fl.live = true) :
    ∃ (u : State) (im : Image) (slots : Slots) (v : State),
      (s.setCtx c { s.ctx c with settling := false }).gather c = (u, .ok im) ∧ decodeImage (u.ctx c) im = .ok slots ∧ s' = v.issue c
        ∧ v.fl = im.flight (u.ctx c) c (u.core (coreOf c)).cyc (u.core (coreOf c)).nw u.readMem slots := by
  unfold State.tryIssue at h
  extract_lets core s₁ at h
  have hs₁ : s₁ = s := by simp only [s₁, hdrain, Option.isSome_none, Bool.false_eq_true, if_false]
  clear_value s₁
  subst hs₁
  -- the checks before the gathering
  split at h
  · cases congrArg Prod.snd h
  split at h
  · obtain ⟨rfl, -⟩ := Prod.mk.inj h
    rw [(Keeps.finishSplit s₁ c).fl, hidle] at hlive
    cases hlive
  split at h
  · cases congrArg Prod.snd h
  split at h
  · cases congrArg Prod.snd h
  -- the gathering and the decoding
  have hg := Keeps.gather (s₁.setCtx c { s₁.ctx c with settling := false }) c
  split at h
  next u e hgather =>
    obtain ⟨rfl, -⟩ := Prod.mk.inj h
    rw [(Keeps.refuse ..).fl, show u = _ from congrArg Prod.fst hgather.symm, hg.fl, State.setCtx_fl, hidle] at hlive
    cases hlive
  next u im hgather =>
  split at h
  next mask _ =>
    obtain ⟨rfl, -⟩ := Prod.mk.inj h
    rw [(Keeps.refuse ..).fl, show u = _ from congrArg Prod.fst hgather.symm, hg.fl, State.setCtx_fl, hidle] at hlive
    cases hlive
  next slots hdecode =>
  -- the bundle stands in flight through the checks that follow
  extract_lets k u₁ is u₂ cleared u₃ wait stop seen adv at h
  have hu₁ : u₁.fl = im.flight (u.ctx c) c (u.core (coreOf c)).cyc (u.core (coreOf c)).nw u.readMem slots := rfl
  clear_value is
  have hu₂ : u₂.fl = u₁.fl := by
    unfold u₂
    split
    · exact (Keeps.arriveAt _ c _).fl
    · rfl
  have hu₃ : u₃.fl = u₂.fl := (Keeps.clearPort u₂ c is).fl
  have hfl := hu₃.trans (hu₂.trans hu₁)
  have hstop (w : State) (r : Check) (hr : r ≠ .go) : stop w r ≠ (s', .go) := fun e => hr (congrArg Prod.snd e)
  clear_value u₃ adv
  split at h
  · exact absurd h (hstop _ _ (by decide))
  split at h
  · exact absurd h (hstop _ _ (by decide))
  split at h
  · exact absurd h (hstop _ _ (by decide))
  split at h
  · dsimp only at h
    split at h
    · cases congrArg Prod.snd h
    · obtain ⟨rfl, -⟩ := Prod.mk.inj h
      rw [phadvHold_live] at hlive
      cases hlive
  split at h
  · exact absurd h (hstop _ _ (by decide))
  next u₄ hrenew =>
  have hu₄ : u₄.fl = _ := (renewBanks_fl hrenew).trans hfl
  split at h
  · cases congrArg Prod.snd h
  split at h
  · obtain ⟨rfl, -⟩ := Prod.mk.inj h
    rw [refuse_endFlight_live] at hlive
    cases hlive
  split at h
  · obtain ⟨rfl, -⟩ := Prod.mk.inj h
    rw [refuse_endFlight_live] at hlive
    cases hlive
  split at h
  · split at h
    next u₅ hnext =>
      obtain ⟨rfl, -⟩ := Prod.mk.inj h
      exact ⟨u, im, slots, u₅, hgather, hdecode, rfl, (nextCheck_fl hnext).trans hu₄⟩
    · exact absurd h (hstop _ _ (by decide))
  · obtain ⟨rfl, -⟩ := Prod.mk.inj h
    exact ⟨u, im, slots, u₄, hgather, hdecode, rfl, hu₄⟩

/-- An issue leaves of the flight the slots that are no no-ops, or one no-op where no other is left. -/
theorem issue_rest (s : State) (c : Nat) : (s.issue c).fl.rest =
    if s.fl.rest.filter (fun p => !isNop p.2) = [] then [(0, .snop)] else s.fl.rest.filter fun p => !isNop p.2 := by
  show (match s.fl.rest.filter (fun p => !isNop p.2) with | [] => [(0, Instr.snop)] | l => l) = _
  cases s.fl.rest.filter (fun p => !isNop p.2) <;> rfl

/-- Settles O13: the flight issued is that of the bundle gathered, and a meaning's end leaves it as it is. -/
theorem fetchIssuesDecodedBundle : Obligations.FetchIssuesDecodedBundle := by
  intro s s' c hidle hdrain h hlive
  obtain ⟨u, im, slots, v, hgather, hdecode, rfl, hfl⟩ := tryIssue_issues hidle hdrain h hlive
  have hexec : exec (.bundleFetch c) s = .next ((v.issue c).closed s) := by
    show done s (s.tryIssue c).1 = _
    rw [h, done_closed]
  have hctx : v.fl.ctx = c := by rw [hfl]; rfl
  have hpc : v.fl.pc = im.pc := by rw [hfl]; rfl
  have hlit : v.fl.lit = im.lit := by rw [hfl]; rfl
  have hrest : v.fl.rest = slots.filter fun p => decide (((u.ctx c).resume.map (·.sres)).getD 0 ≤ p.1) := by rw [hfl]; rfl
  refine ⟨u, im, slots, _, hgather, hdecode, hexec, hlive, hctx, hpc, hlit, ?_⟩
  refine (issue_rest v c).trans ?_
  simp only [hrest, List.filter_filter, Bool.and_comm]

end Sys2Proof.Machine
end

section
/-! PROOFS. Branches, calls and returns (R60, R69, R90, R93). -/

namespace Sys2Proof.Machine

/-! ### Leaving loop bodies -/

/-- The body of a level holds a target. -/
def LoopLevel.holds (dest : Nat) (l : LoopLevel) : Prop := l.start ≤ dest ∧ dest ≤ l.stop

/-- Levels of one group have one body. -/
def sharedBodies (ls : List LoopLevel) : Prop := ∀ k ∈ ls, ∀ l ∈ ls, k.group = l.group → k.start = l.start ∧ k.stop = l.stop

/-- What a branch pops: whole groups from the innermost on, each because a body of it does not hold the target, until the innermost level
left holds it. -/
theorem popOut_spec (dest n : Nat) (ls : List LoopLevel) (hn : ls.length ≤ n) : ∃ gone, ls = gone ++ popOut dest n ls
    ∧ (∀ l ∈ gone, ∃ k ∈ gone, k.group = l.group ∧ ¬k.holds dest)
    ∧ (sharedBodies ls → ∀ l ∈ gone, ¬l.holds dest)
    ∧ ∀ l ∈ (popOut dest n ls).head?, l.holds dest := by
  induction n generalizing ls with
  | zero =>
    obtain rfl : ls = [] := List.length_eq_zero_iff.1 (by omega)
    exact ⟨[], by simp [popOut]⟩
  | succ n ih =>
    cases ls with
    | nil => exact ⟨[], by simp [popOut]⟩
    | cons l ls =>
      by_cases hl : l.holds dest
      · have hstay : popOut dest (n + 1) (l :: ls) = l :: ls := if_pos hl
        refine ⟨[], by rw [hstay]; rfl, by simp, by simp, ?_⟩
        rw [hstay]
        rintro k ⟨⟩
        exact hl
      · have hpop : popOut dest (n + 1) (l :: ls) = popOut dest n (ls.dropWhile fun k => k.group == l.group) := if_neg hl
        have hlen := (List.dropWhile_sublist (fun k => k.group == l.group) (l := ls)).length_le
        obtain ⟨gone, hsplit, hgroup, hbody, hhead⟩ := ih (ls.dropWhile fun k => k.group == l.group) (by simp at hn; omega)
        have htake : ∀ k ∈ ls.takeWhile fun k => k.group == l.group, k.group = l.group := fun k hk => by
          simpa using List.mem_takeWhile_imp hk
        refine ⟨l :: ls.takeWhile (fun k => k.group == l.group) ++ gone, ?_, ?_, ?_, by rwa [hpop]⟩
        · rw [hpop, List.append_assoc, ← hsplit, List.cons_append, List.takeWhile_append_dropWhile]
        · intro k hk
          rcases List.mem_append.1 hk with hk | hk
          · refine ⟨l, by simp, ?_, hl⟩
            rcases List.mem_cons.1 hk with rfl | hk
            · rfl
            · exact (htake k hk).symm
          · obtain ⟨j, hj, hjk⟩ := hgroup k hk
            exact ⟨j, List.mem_append_right _ hj, hjk⟩
        · intro hs k hk
          rcases List.mem_append.1 hk with hk | hk
          · rcases List.mem_cons.1 hk with rfl | hk
            · exact hl
            · obtain ⟨hstart, hstop⟩ := hs k (List.mem_cons_of_mem _ (List.takeWhile_subset _ hk)) l (by simp) (htake k hk)
              unfold LoopLevel.holds at hl ⊢
              rwa [hstart, hstop]
          · have hmem : ∀ j ∈ ls.dropWhile fun k => k.group == l.group, j ∈ l :: ls := fun j hj =>
              List.mem_cons_of_mem _ ((List.dropWhile_sublist _).subset hj)
            exact hbody (fun i hi j hj => hs i (hmem i hi) j (hmem j hj)) k hk

/-! ### Targets and conditions -/

/-- The PC at a signed offset is a sum of 32 bits (R90). -/
theorem relative_eq (s : State) {w : Nat} (hw : 0 < w) (off : BitVec w) :
    s.relative off.toNat w = (BitVec.ofNat 32 s.fl.pc + off.signExtend 32).toNat := by
  rw [State.relative, signExt_eq hw, BitVec.signExtend, BitVec.toNat_add, BitVec.toNat_ofNat, BitVec.toNat_ofInt, wrapInt]
  simp only [Nat.reducePow, Int.reducePow]
  omega

/-- The conditions of R69 on the signed value of a word. -/
def branchTaken (cond : BitVec 3) (x : Word64) : Bool :=
  match cond with
  | 0 => x == 0 | 1 => x != 0 | 2 => x.slt 0 | 3 => !x.slt 0 | 4 => BitVec.slt 0 x | 5 => !BitVec.slt 0 x
  | 6 => x.getLsbD 0 | _ => !x.getLsbD 0

theorem decide_le_eq_not (i j : Int) : decide (i ≤ j) = !decide (j < i) := by
  rw [← decide_not]
  exact decide_eq_decide.2 Int.not_lt.symm

theorem condMet_eq (cond : BitVec 3) (x : Word64) : condMet cond x.toNat = branchTaken cond x := by
  have hint : signExt x.toNat 64 = x.toInt := int64_eq x
  have hzero : (x.toInt == 0) = (x == 0) := by
    rw [Bool.eq_iff_iff, beq_iff_eq, beq_iff_eq, ← BitVec.toInt_inj]
    rfl
  have hodd : (x.toNat % 2 == 1) = x.getLsbD 0 := by
    rw [← BitVec.testBit_toNat, Nat.testBit_zero, beq_eq_decide]
  have heven : (x.toNat % 2 == 0) = !x.getLsbD 0 := by
    rw [← hodd]
    rcases Nat.mod_two_eq_zero_or_one x.toNat with h | h <;> rw [h] <;> rfl
  have hcond : cond = 0 ∨ cond = 1 ∨ cond = 2 ∨ cond = 3 ∨ cond = 4 ∨ cond = 5 ∨ cond = 6 ∨ cond = 7 := by revert cond; decide
  rcases hcond with rfl | rfl | rfl | rfl | rfl | rfl | rfl | rfl
  · exact (congrArg (· == 0) hint).trans hzero
  · exact (congrArg (· != 0) hint).trans (congrArg (!·) hzero)
  · exact congrArg (fun i => decide (i < 0)) hint
  · exact (congrArg (fun i => decide (0 ≤ i)) hint).trans (decide_le_eq_not 0 x.toInt)
  · exact congrArg (fun i => decide (0 < i)) hint
  · exact (congrArg (fun i => decide (i ≤ 0)) hint).trans (decide_le_eq_not x.toInt 0)
  · exact hodd
  · exact heven

/-! ### Where each instruction goes -/

theorem setWidth32_toNat (x : Word64) : (x.setWidth 32).toNat = x.toNat % 2 ^ 32 := BitVec.toNat_setWidth 32 x

theorem done_branch {s : State} (hw : s.wlog = []) (pc : Nat) : done s (s.branch pc) = .next (s.branch pc) := done_eq hw rfl

/-- Settles O23: each instruction's target as a word, and what a branch pops by `popOut_spec`. -/
theorem branchesGoToTheirTargets : Obligations.BranchesGoToTheirTargets := by
  refine ⟨?targets, fun dest ls hlen => popOut_spec dest 9 ls hlen⟩
  intro s o26 o21 o17 r cond a hw pc x go leave taken
  refine ⟨?br, ?brc, ?bri, fun hseq => ?call, fun hseq => ?run, ?ret⟩
  case br =>
    refine (done_branch hw _).trans ?_
    rw [relative_eq s (by decide)]
    rfl
  case brc =>
    have htaken : condMet cond (s.opS 0 r.toNat) = taken := by
      rw [State.opS_eq, condMet_eq]
      rfl
    show done s (if condMet cond (s.opS 0 r.toNat) then s.branch (s.relative o17.toNat 17) else s) = _
    rw [htaken, relative_eq s (by decide)]
    split
    · exact done_branch hw _
    · exact done_eq hw rfl
  case bri =>
    refine (done_branch hw _).trans ?_
    rw [State.opS_eq, ← setWidth32_toNat]
    rfl
  case call =>
    show done s (if s.fl.seqRun then s.illegal 2 else (s.writeA a.toNat s.fl.seqPc 1).goto (s.relative o21.toNat 21)) = _
    rw [hseq, relative_eq s (by decide)]
    exact done_eq hw rfl
  case run =>
    show done s (if s.fl.seqRun then s.illegal 2 else (s.writeA a.toNat s.fl.seqPc 1).goto (s.relative o21.toNat 21)) = _
    rw [hseq, if_pos rfl, done_closed]
  case ret =>
    show done s (s.goto (s.opA 0 a.toNat % 2 ^ 32)) = _
    rw [State.opA_eq, ← setWidth32_toNat]
    exact done_eq hw rfl

end Sys2Proof.Machine
end

section
/-! PROOFS. System registers read and written (R46, R47, R95, R212). -/

namespace Sys2Proof.Machine

/-! ### Fields of words -/

theorem bits_toNat {w : Nat} (x : BitVec w) (lo n : Nat) : bits x.toNat lo n = (x.extractLsb' lo n).toNat := by
  rw [bits, BitVec.extractLsb'_toNat, Nat.shiftRight_eq_div_pow]

theorem bitOf_toNat {w : Nat} (x : BitVec w) (i : Nat) : bitOf x.toNat i = x.getLsbD i := by
  rw [bitOf, ← BitVec.testBit_toNat, Nat.testBit_eq_decide_div_mod_eq, beq_eq_decide]

/-- A field of a number within its low 64 bits is that field of the word. -/
theorem extractLsb'_ofNat64 (v : Nat) {lo n : Nat} (h : lo + n ≤ 64) : (BitVec.ofNat 64 v).extractLsb' lo n = fld v lo n := by
  apply BitVec.eq_of_getLsbD_eq
  intro i hi
  have hlo : lo + i < 64 := by omega
  rw [BitVec.getLsbD_extractLsb', fld, BitVec.getLsbD_ofNat, BitVec.getLsbD_ofNat, Nat.testBit_div_two_pow, Nat.add_comm i lo]
  simp [hi, hlo]

/-- A single bit of a number, read as a field of width 1. -/
theorem getLsbD_ofNat64_of_fld {v lo : Nat} {b : Bool} (h : lo + 1 ≤ 64) (hv : fld v lo 1 = BitVec.ofBool b) :
    (BitVec.ofNat 64 v).getLsbD lo = b := by
  have hbit := congrArg (fun x : BitVec 1 => x.getLsbD 0) ((extractLsb'_ofNat64 v h).trans hv)
  simpa using hbit

/-- The low byte cleared. -/
theorem ofNat_clear_low (v : Word64) : BitVec.ofNat 64 (v.toNat / 256 * 256) = v &&& ~~~0xFF#64 := by
  apply BitVec.eq_of_getLsbD_eq
  intro i hi
  have hff : (0xFF#64).getLsbD i = decide (i < 8) := by
    rw [← BitVec.testBit_toNat]
    exact Nat.testBit_two_pow_sub_one 8 i
  have hlow : (v.toNat / 256 * 256).testBit i = (decide (8 ≤ i) && v.toNat.testBit i) := by
    rw [show (256 : Nat) = 2 ^ 8 from rfl, Nat.testBit_mul_two_pow, Nat.testBit_div_two_pow]
    by_cases h : 8 ≤ i
    · rw [Nat.sub_add_cancel h]
    · simp [h]
  rw [BitVec.getLsbD_ofNat, hlow, BitVec.getLsbD_and, BitVec.getLsbD_not, hff, BitVec.testBit_toNat]
  by_cases h : 8 ≤ i
  · simp [h, hi, Nat.not_lt.2 h]
  · simp [h, Nat.lt_of_not_le h]

/-! ### SYS.ID and SYS.STATUS -/

/-- The fields of SYS.ID (R47). -/
def sysIdFields (c : Nat) : List Field :=
  [⟨26, 38, 0⟩, ⟨25, 1, BitVec.ofBool (decide (128 ≤ coreOf c))⟩, ⟨17, 8, BitVec.ofNat 8 (coreOf c)⟩, ⟨12, 5, 0⟩, ⟨10, 2, BitVec.ofNat 2 c⟩,
    ⟨0, 10, BitVec.ofNat 10 c⟩]

theorem sysId_eq {c : Nat} (hc : c < 1024) : sysId c = addFields 0 (sysIdFields c) := by
  have hdie : (BitVec.ofBool (decide (128 ≤ coreOf c))).toNat = coreOf c / 128 := by
    rw [BitVec.toNat_ofBool]
    by_cases h : 128 ≤ coreOf c
    · rw [decide_eq_true h, coreOf] at *; simp; omega
    · rw [decide_eq_false h, coreOf] at *; simp; omega
  have hzero (n : Nat) : (0 : BitVec n).toNat = 0 := BitVec.toNat_zero
  simp only [sysIdFields, addFields, Field.part_eq, hdie, hzero, BitVec.toNat_ofNat]
  simp only [sysId, dieOf, clusterOf, coreOf, Nat.reducePow] at *
  omega

/-- SYS.ID holds the context's number, its number in the core, the core's number and its die (R47). -/
theorem sysId_fields {c : Nat} (hc : c < 1024) :
    let w := BitVec.ofNat 64 (sysId c)
    w.extractLsb' 0 10 = BitVec.ofNat 10 c ∧ w.extractLsb' 10 2 = BitVec.ofNat 2 c ∧ w.extractLsb' 12 5 = 0
      ∧ w.extractLsb' 17 8 = BitVec.ofNat 8 (coreOf c) ∧ w.getLsbD 25 = decide (128 ≤ coreOf c) ∧ w.extractLsb' 26 38 = 0 := by
  obtain ⟨htop, hdie, hcore, hmid, hown, hctx, -⟩ : holdsFields (sysId c) (sysIdFields c) :=
    sysId_eq hc ▸ addFields_holds (sysIdFields c) (Nat.dvd_zero (2 ^ 64)) rfl
  exact ⟨(extractLsb'_ofNat64 _ (by decide)).trans hctx, (extractLsb'_ofNat64 _ (by decide)).trans hown,
    (extractLsb'_ofNat64 _ (by decide)).trans hmid, (extractLsb'_ofNat64 _ (by decide)).trans hcore,
    getLsbD_ofNat64_of_fld (by decide) hdie, (extractLsb'_ofNat64 _ (by decide)).trans htop⟩

/-- The fields of SYS.STATUS (R47). -/
def statusFields (x : Ctx) : List Field :=
  [⟨16, 48, 0⟩, ⟨12, 4, BitVec.ofNat 4 x.sres⟩, ⟨11, 1, BitVec.ofBool x.lit⟩, ⟨10, 1, BitVec.ofBool x.trapm⟩,
    ⟨9, 1, BitVec.ofBool x.capv⟩, ⟨8, 1, BitVec.ofBool x.priv⟩, ⟨0, 8, 0⟩]

theorem status_eq (x : Ctx) : x.status = addFields 0 (statusFields x) := by
  have hbit (b : Bool) (n : Nat) : (if b then 2 ^ n else 0) = (BitVec.ofBool b).toNat * 2 ^ n := by cases b <;> simp
  have hsres : (BitVec.ofNat 4 x.sres).toNat = x.sres % 16 := BitVec.toNat_ofNat x.sres 4
  simp only [Ctx.status, statusFields, addFields, Field.part_eq, hbit, hsres]
  simp

/-- SYS.STATUS holds SRES and four single bits (R47). -/
theorem status_fields (x : Ctx) :
    let w := BitVec.ofNat 64 x.status
    w.extractLsb' 12 4 = BitVec.ofNat 4 x.sres ∧ w.getLsbD 11 = x.lit ∧ w.getLsbD 10 = x.trapm ∧ w.getLsbD 9 = x.capv
      ∧ w.getLsbD 8 = x.priv ∧ w.extractLsb' 0 8 = 0 ∧ w.extractLsb' 16 48 = 0 := by
  obtain ⟨htop, hsres, hlit, htrapm, hcapv, hpriv, hlow, -⟩ : holdsFields x.status (statusFields x) :=
    status_eq x ▸ addFields_holds (statusFields x) (Nat.dvd_zero (2 ^ 64)) rfl
  exact ⟨(extractLsb'_ofNat64 _ (by decide)).trans hsres, getLsbD_ofNat64_of_fld (by decide) hlit,
    getLsbD_ofNat64_of_fld (by decide) htrapm, getLsbD_ofNat64_of_fld (by decide) hcapv, getLsbD_ofNat64_of_fld (by decide) hpriv,
    (extractLsb'_ofNat64 _ (by decide)).trans hlow, (extractLsb'_ofNat64 _ (by decide)).trans htop⟩

/-! ### Reads and writes -/

variable {s : State}

/-- SRD of an assigned number. -/
theorem exec_srd (hw : s.wlog = []) (r : BitVec 6) {m : BitVec 8} {v : Nat} (h : s.sysRead s.fl.ctx m.toNat = some v) :
    exec (.srd r m) s = .next (s.write (.s r.toNat (BitVec.ofNat 64 v)) 2) := by
  show done s (match s.sysRead s.fl.ctx m.toNat with | some v => s.writeS r.toNat v 2 | none => s.illegal 2) = _
  rw [h]
  exact done_write hw _ 2

/-- SRD of a register that is held as a word. -/
theorem exec_srd_word (hw : s.wlog = []) (r : BitVec 6) {m : BitVec 8} {v : Word64} (h : s.sysRead s.fl.ctx m.toNat = some v.toNat) :
    exec (.srd r m) s = .next (s.write (.s r.toNat v) 2) := by
  rw [exec_srd hw r h, BitVec.ofNat_toNat, BitVec.setWidth_eq]

theorem sysRead_none (c : Nat) {n : Nat} (h : 0x12 < n) : s.sysRead c n = none := by
  obtain ⟨k, rfl⟩ := Nat.exists_eq_add_of_lt h
  have hne (m : Nat) (hm : m ≤ 0x12) : 0x12 + k + 1 ≠ m := by omega
  unfold State.sysRead
  split
  case h_20 => rfl
  all_goals exact absurd ‹_› (hne _ (by decide))

/-- SWR of a register that any context may write. -/
theorem exec_swr (hw : s.wlog = []) (r : BitVec 6) {m : BitVec 8} {y : Ctx} (hm : sysWritable m.toNat = true)
    (hp : m.toNat = 0x12 → s.me.priv = true) (hy : s.me.sysWrite m.toNat (s.sArg 0 r).toNat = y) :
    exec (.swr r m) s = .next (s.setMe y) := by
  have hpriv : ¬(m.toNat = 0x12 ∧ (!s.me.priv) = true) := by
    rintro ⟨h, hn⟩
    simp [hp h] at hn
  show done s (if !sysWritable m.toNat then s.illegal 2 else if m.toNat = 0x12 ∧ !s.me.priv then s.slotFault causePrivReg m.toNat 0
    else s.setMe (s.me.sysWrite m.toNat (s.opS 0 r.toNat))) = _
  rw [hm, if_neg (by decide), if_neg hpriv, State.opS_eq, hy]
  exact done_eq hw rfl

/-- SWR of a number that is read-only or not assigned. -/
theorem exec_swr_illegal (r : BitVec 6) {m : BitVec 8} (hm : sysWritable m.toNat = false) :
    exec (.swr r m) s = .next ((s.illegal 2).closed s) := by
  show done s (if !sysWritable m.toNat then s.illegal 2 else _) = _
  rw [hm, Bool.not_false, if_pos rfl, done_closed]

theorem not_sysWritable : ∀ n : BitVec 8, (n ∈ [0#8, 7, 8, 9, 0xB, 0xC, 0xD, 0xE, 0xF, 0x10] ∨ 0x12 < n.toNat) →
    sysWritable n.toNat = false := by decide

/-- Settles O25: each register's value as a word, and each writable field as bits of the operand. -/
theorem systemRegisters : Obligations.SystemRegisters := by
  intro s r n hw x c v reads writes
  have hreads (m : BitVec 8) (y : Nat) (h : s.sysRead s.fl.ctx m.toNat = some y) : reads m (BitVec.ofNat 64 y) := exec_srd hw r h
  have hwords (m : BitVec 8) (y : Word64) (h : s.sysRead s.fl.ctx m.toNat = some y.toNat) : reads m y := exec_srd_word hw r h
  have hwrites (m : BitVec 8) (y : Ctx) (hm : sysWritable m.toNat = true) (hne : m.toNat ≠ 0x12)
      (hy : s.me.sysWrite m.toNat (s.sArg 0 r).toNat = y) : writes m y := exec_swr hw r hm (fun h => absurd h hne) hy
  have hself (w : Word64) : BitVec.ofNat 64 w.toNat = w := by rw [BitVec.ofNat_toNat, BitVec.setWidth_eq]
  refine ⟨fun hc => ⟨_, hreads 0 _ rfl, sysId_fields hc⟩, ⟨_, hreads 1 _ rfl, status_fields x⟩, hreads 2 _ rfl, hreads 3 _ rfl,
    hreads 4 _ rfl, hwords 5 _ rfl, hwords 6 _ rfl, hwords 7 _ rfl, hreads 8 _ rfl, hwords 9 _ rfl, hreads 0xA _ rfl, hreads 0xB _ rfl,
    hreads 0xC _ rfl, hreads 0xD _ rfl, hreads 0xE _ rfl, hreads 0xF _ rfl, hreads 0x10 _ rfl, hwords 0x11 _ rfl, ?cmpat, ?unassigned,
    hwrites 1 _ rfl (by decide) ?status, hwrites 2 _ rfl (by decide) ?fpsf, hwrites 3 _ rfl (by decide) ?fpte,
    hwrites 4 _ rfl (by decide) ?chksb, hwrites 5 _ rfl (by decide) ?tvec, hwrites 6 _ rfl (by decide) ?epc,
    hwrites 0xA _ rfl (by decide) ?waitto, hwrites 0x11 _ rfl (by decide) ?tfb, fun hp => exec_swr hw r rfl (fun _ => hp) ?writeCmpat,
    fun hp => ?privreg, fun hn => exec_swr_illegal r (not_sysWritable n hn)⟩
  case cmpat => exact hwords 0x12 (x.cmpat ||| 0xFF) (congrArg some (BitVec.toNat_or x.cmpat 0xFF).symm)
  case unassigned =>
    intro hn
    show done s (match s.sysRead s.fl.ctx n.toNat with | some v => s.writeS r.toNat v 2 | none => s.illegal 2) = _
    rw [sysRead_none s.fl.ctx hn, done_closed]
  case status =>
    show { x with sres := bits v.toNat 12 4, lit := bitOf v.toNat 11, trapm := bitOf v.toNat 10, capv := bitOf v.toNat 9 } = _
    rw [bits_toNat, bitOf_toNat, bitOf_toNat, bitOf_toNat]
  case fpsf => exact congrArg (fun y => { x with fpsf := y }) (bits_toNat v 0 6)
  case fpte => exact congrArg (fun y => { x with fpte := y }) (bits_toNat v 0 6)
  case chksb => exact congrArg (fun y => { x with chksb := y }) (bits_toNat v 0 2)
  case tvec => exact congrArg (fun y => { x with tvec := y }) (hself v)
  case epc => exact congrArg (fun y => { x with epc := y }) (hself v)
  case waitto => exact congrArg (fun y => { x with waitto := y }) (bits_toNat v 0 32)
  case tfb => exact congrArg (fun y => { x with tfb := y }) (ofNat_clear_low v)
  case writeCmpat => exact congrArg (fun y => { x with cmpat := y }) (hself v)
  case privreg =>
    have hpriv : s.me.priv = false := hp
    show done s (if (0x12 : Nat) = 0x12 ∧ !s.me.priv then s.slotFault causePrivReg 0x12 0 else _) = _
    rw [hpriv, if_pos (by decide), done_closed]
    rfl

end Sys2Proof.Machine
end

section
/-! PROOFS. The instructions that end a trap or a dictionary (R95, R96, R215): what a return reads, what it re-enters, and the state in which
a descriptor for DICTSW is read and taken. -/

namespace Sys2Proof.Machine

/-! ### Bytes of a frame -/

/-- Values put in order at consecutive keys read back as the list. -/
theorem tabGet_foldl_zipIdx {α : Type} {d : α} {put : Tab α → Nat → α → Tab α}
    (hput : ∀ t n x m, tabGet d (put t n x) m = if m = n then x else tabGet d t m) (xs : List α) (n : Nat) (t : Tab α) (i : Nat) :
    tabGet d ((xs.zipIdx n).foldl (fun t p => put t p.2 p.1) t) i
      = if n ≤ i ∧ i < n + xs.length then xs.getD (i - n) d else tabGet d t i := by
  induction xs generalizing n t with
  | nil =>
    rw [if_neg (by simp only [List.length_nil]; omega)]
    rfl
  | cons x xs ih =>
    rw [List.zipIdx_cons, List.foldl_cons, ih, hput, List.length_cons]
    by_cases hi : i = n
    · rw [if_neg (by omega), if_pos hi, if_pos (by omega), hi, Nat.sub_self]
      rfl
    · rw [if_neg hi]
      by_cases hin : n + 1 ≤ i ∧ i < n + 1 + xs.length
      · rw [if_pos hin, if_pos (by omega), show i - n = (i - (n + 1)) + 1 by omega, List.getD_cons_succ]
      · rw [if_neg hin, if_neg (by omega)]

/-- Values put in order into an empty table read back as the list. -/
theorem tabGet_zipIdx {α : Type} {d : α} {put : Tab α → Nat → α → Tab α}
    (hput : ∀ t n x m, tabGet d (put t n x) m = if m = n then x else tabGet d t m) (xs : List α) (i : Nat) :
    tabGet d (xs.zipIdx.foldl (fun t p => put t p.2 p.1) []) i = xs.getD i d := by
  rw [tabGet_foldl_zipIdx hput]
  split
  · rfl
  · rw [List.getD_eq_default _ _ (by omega)]
    rfl

/-- The bytes of a frame as the table that a return keeps. -/
def frameTable (bs : List Byte) : Tab Byte := bs.zipIdx.foldl (fun t p => tabSet 0 t p.2 p.1) []

theorem tabGet_frameTable (bs : List Byte) (i : Nat) : tabGet 0 (frameTable bs) i = bs.getD i 0 := tabGet_zipIdx (tabGet_set 0) bs i

/-- Zeros after the bytes of a number add nothing to it. -/
theorem leNat_range_getD (bs : List Byte) (n : Nat) : leNat ((List.range n).map fun i => bs.getD i 0) = leNat (bs.take n) := by
  induction n generalizing bs with
  | zero => rfl
  | succ n ih =>
    rw [List.range_succ_eq_map, List.map_cons, List.map_map]
    cases bs with
    | nil =>
      exact congrArg (0 + 256 * ·) ((ih []).trans (by rw [List.take_nil]))
    | cons b bs =>
      simp only [List.take_succ_cons, leNat, Function.comp_def, List.getD_cons_succ, List.getD_cons_zero]
      rw [ih bs]

theorem frameNat_frameTable (bs : List Byte) (off n : Nat) : frameNat (frameTable bs) off n = leNat ((bs.drop off).take n) := by
  rw [frameNat, ← leNat_range_getD]
  congr 2
  funext i
  rw [tabGet_frameTable, List.getD_eq_getElem?_getD, List.getD_eq_getElem?_getD, List.getElem?_drop]

/-- The low bits of the eighth byte of a number. -/
theorem bits_eighthByte (bs : List Byte) : bits (leNat (bs.take 8)) 56 4 = (bs.getD 7 0).toNat % 16 := by
  have hbyte (b : Byte) : b.toNat < 256 := b.isLt
  rw [← leNat_range_getD, bits]
  simp only [List.range, List.range.loop, List.map, leNat]
  have h0 := hbyte (bs.getD 0 0)
  have h1 := hbyte (bs.getD 1 0)
  have h2 := hbyte (bs.getD 2 0)
  have h3 := hbyte (bs.getD 3 0)
  have h4 := hbyte (bs.getD 4 0)
  have h5 := hbyte (bs.getD 5 0)
  have h6 := hbyte (bs.getD 6 0)
  omega

/-! ### The read of a frame -/

/-- A read of no bytes translates nothing and meets no error. -/
theorem readVirtual_zero (s : State) (sp : Space) (die va : Nat) : readVirtual s sp die va 0 = .ok [] := by
  have hplace : placeVirtual s s.seen sp die 3 .read false va 0 = .ok ([], []) := rfl
  have hhard : s.hardFault [] va [] = none := by
    unfold State.hardFault State.firstHard
    split <;> rfl
  unfold readVirtual
  rw [hplace]
  simp only [hhard]
  rfl

theorem Performs.afterRead (s : State) (sp : Space) (die va n : Nat) : Performs s (s.afterRead sp die va n) := by
  unfold State.afterRead
  split
  · exact refl
  · exact trans (((fills _ _).trans (touch _ _)).trans (askHost _ _)) (ite refl (countSubst _ _ _))

/-! ### A killed context -/

theorem foldl_ctx {α : Type} {f : State → α → State} (h : ∀ s a c, (f s a).ctx c = s.ctx c) (l : List α) (s : State) (c : Nat) :
    (l.foldl f s).ctx c = s.ctx c := by
  induction l generalizing s with
  | nil => rfl
  | cons a l ih => exact (ih _).trans (h s a c)

theorem freeze_ctx (s : State) (node c : Nat) : (s.freeze node).ctx c = s.ctx c :=
  foldl_ctx (f := fun s k => s.setCore k { s.core k with frozen := true, frozenBy := node }) (fun _ _ _ => rfl) _ s c

theorem killQueue_ctx (s : State) (d c : Nat) : (s.killQueue d).ctx c = s.ctx c := by
  unfold State.killQueue
  split <;> rfl

theorem kill_mode (s : State) (c : Nat) : ((s.kill c).ctx c).mode = .killed := by
  unfold State.kill
  rw [killQueue_ctx, freeze_ctx]
  exact congrArg Ctx.mode (State.ctx_setCtx ..)

theorem takeFatal_mode (s : State) (c : Nat) (p : Split) : ((s.takeFatal c p).ctx c).mode = .killed := by
  unfold State.takeFatal
  exact kill_mode _ c

/-! ### RTE -/

/-- Two contexts agree in the registers that a return reads (R215). -/
structure Ctx.SameReturn (x y : Ctx) : Prop where
  trapm : x.trapm = y.trapm
  sres : x.sres = y.sres
  capv : x.capv = y.capv
  epc : x.epc = y.epc
  lit : x.lit = y.lit

theorem Ctx.SameReturn.trans {x y z : Ctx} (h : x.SameReturn y) (k : y.SameReturn z) : x.SameReturn z :=
  ⟨h.trapm.trans k.trapm, h.sres.trans k.sres, h.capv.trans k.capv, h.epc.trans k.epc, h.lit.trans k.lit⟩

theorem Ctx.sameReturn_still (x : Ctx) : x.SameReturn x.still := ⟨rfl, rfl, rfl, rfl, rfl⟩

theorem Ctx.SameReturn.of_still {x y : Ctx} (h : x.still = y.still) : x.SameReturn y := by
  have hy : y.still.SameReturn y := ⟨rfl, rfl, rfl, rfl, rfl⟩
  exact x.sameReturn_still.trans (h ▸ hy)

theorem phase_of_still {x y : Ctx} (h : x.still = y.still) : x.phase = y.phase ∧ x.phgen = y.phgen := by
  have hx : x.still.phase = x.phase ∧ x.still.phgen = x.phgen := ⟨rfl, rfl⟩
  rw [h] at hx
  exact ⟨hx.1.symm, hx.2.symm⟩

theorem retireAll_ctx (s : State) (c : Nat) :
    (s.retireAll c).ctx c = { (s.performAll c).ctx c with settling := true, walked := false } := State.ctx_setCtx ..

theorem retireAll_sameReturn (s : State) (c : Nat) : ((s.retireAll c).ctx c).SameReturn (s.ctx c) := by
  rw [retireAll_ctx]
  obtain ⟨htrapm, hsres, hcapv, hepc, hlit⟩ := Ctx.SameReturn.of_still ((Performs.performAll s c).ctx c)
  exact ⟨htrapm, hsres, hcapv, hepc, hlit⟩

/-- Bytes of its frame that a return of this context reads. -/
def Ctx.frameRead (x : Ctx) : Nat := if x.capv then 3072 else if 0 < x.sres && x.sres < 12 then 24 else 0

/-- The frame with which a return re-enters its bundle, from the bytes read. -/
def Ctx.returnFrame (x : Ctx) (bs : List Byte) : Frame :=
  let inside := 0 < x.sres && x.sres < 12
  { epc := x.epc.toNat % 2 ^ 32, lit := x.lit, sres := x.sres, capv := x.capv && inside
    map := if inside then bits (frameNat (frameTable bs) 0 8) 56 4 else x.phase
    gen := if inside then BitVec.ofNat 64 (frameNat (frameTable bs) 16 8) else x.phgen, bytes := frameTable bs
    target := none, after := .none }

/-- What a return reads of its frame in the state in which its context's writes are settled. -/
def State.returnRead (r : State) (c : Nat) : Except AFault (List Byte) :=
  readVirtual r (r.spaceOf (coreOf c) (r.ctx c).node) (dieOf (coreOf c)) (r.ctx c).tfb.toNat (r.ctx c).frameRead

theorem Keeps.rteReturn (s : State) (c epc : Nat) (lit : Bool) : Keeps s (s.rteReturn c epc lit) := by
  unfold State.rteReturn
  refine (retireAll s c).trans ?_
  dsimp only
  split
  · exact takeFatal ..
  split
  · exact (Performs.afterRead ..).keeps.trans (takeFatal ..)
  split
  · exact takeFatal ..
  · exact (Performs.afterRead ..).keeps.trans ⟨rfl, rfl⟩

/-- A return that may not be made kills the context. -/
theorem rteReturn_refused {s : State} {c : Nat} (epc : Nat) (lit : Bool)
    (h : (s.ctx c).trapm = false ∨ 12 < (s.ctx c).sres) : ((s.rteReturn c epc lit).ctx c).mode = .killed := by
  have hr := retireAll_sameReturn s c
  have hbad : !((s.retireAll c).ctx c).trapm ∨ 12 < ((s.retireAll c).ctx c).sres := by simpa [hr.trapm, hr.sres] using h
  unfold State.rteReturn
  dsimp only
  split
  · exact takeFatal_mode ..
  · rw [if_pos hbad]
    exact takeFatal_mode ..

/-- A return whose frame cannot be read kills the context. -/
theorem rteReturn_unreadable {s : State} {c : Nat} (epc : Nat) (lit : Bool) {e : AFault}
    (hread : (s.retireAll c).returnRead c = .error e) : ((s.rteReturn c epc lit).ctx c).mode = .killed := by
  unfold State.rteReturn
  dsimp only
  split
  · exact takeFatal_mode ..
  split
  · exact takeFatal_mode ..
  split
  · exact takeFatal_mode ..
  next h => cases hread.symm.trans h

/-- A return from a handler whose frame can be read re-enters the bundle at its split. -/
theorem rteReturn_reenters {s : State} {c : Nat} (epc : Nat) (lit : Bool) {bs : List Byte} (htrapm : (s.ctx c).trapm = true)
    (hsres : (s.ctx c).sres ≤ 12) (hread : (s.retireAll c).returnRead c = .ok bs) :
    ∃ t, Performs (s.retireAll c) t ∧ s.rteReturn c epc lit =
      (t.setCtx c { t.ctx c with trapm := false }).reenter c (((s.retireAll c).ctx c).returnFrame bs) := by
  have hr := retireAll_sameReturn s c
  have hgood : ¬(!((s.retireAll c).ctx c).trapm ∨ 12 < ((s.retireAll c).ctx c).sres) := by
    simp [hr.trapm, hr.sres, htrapm, hsres]
  unfold State.rteReturn
  dsimp only
  split
  next e h =>
    exfalso
    split at h
    next hcapv =>
      rw [State.returnRead, Ctx.frameRead, if_pos hcapv] at hread
      cases hread.symm.trans h
    · cases (readVirtual_zero ..).symm.trans h
  rw [if_neg hgood]
  split
  next h => cases hread.symm.trans h
  next bs' h =>
    cases hread.symm.trans h
    exact ⟨_, Performs.afterRead .., rfl⟩

theorem reenter_ctx (s : State) (c : Nat) (f : Frame) : (s.reenter c f).ctx c =
    { s.ctx c with mode := .running, pc := f.epc, inRun := f.lit, resume := some f, park := none, monitor := [] } := State.ctx_setCtx ..

/-- A split inside the bundle, at a slot after the first. -/
def Ctx.splitInside (x : Ctx) : Prop := 0 < x.sres ∧ x.sres < 12

theorem splitInside_iff (x : Ctx) : (decide (0 < x.sres) && decide (x.sres < 12)) = true ↔ x.splitInside := by
  simp [Ctx.splitInside]

theorem frameRead_eq (x : Ctx) : x.frameRead = if x.capv then 3072 else if 0 < x.sres ∧ x.sres < 12 then 24 else 0 := by
  simp [Ctx.frameRead]

theorem returnFrame_capv (x : Ctx) (bs : List Byte) : (x.returnFrame bs).capv = true ↔ x.capv = true ∧ x.splitInside := by
  rw [← splitInside_iff, ← Bool.and_eq_true]
  rfl

theorem returnFrame_inside {x : Ctx} (bs : List Byte) (h : x.splitInside) :
    (x.returnFrame bs).map = (bs.getD 7 0).toNat % 16 ∧ (x.returnFrame bs).gen = BitVec.ofNat 64 (leNat ((bs.drop 16).take 8)) := by
  have hin := (splitInside_iff x).2 h
  have hmap : (x.returnFrame bs).map = bits (frameNat (frameTable bs) 0 8) 56 4 := if_pos hin
  have hgen : (x.returnFrame bs).gen = BitVec.ofNat 64 (frameNat (frameTable bs) 16 8) := if_pos hin
  rw [hmap, hgen, frameNat_frameTable, frameNat_frameTable]
  exact ⟨bits_eighthByte bs, rfl⟩

theorem returnFrame_outside {x : Ctx} (bs : List Byte) (h : ¬x.splitInside) :
    (x.returnFrame bs).map = x.phase ∧ (x.returnFrame bs).gen = x.phgen :=
  have hout := mt (splitInside_iff x).1 h
  ⟨if_neg hout, if_neg hout⟩

@[simp] theorem endFlight_ctx (s : State) (c : Nat) : s.endFlight.ctx c = s.ctx c := rfl

/-! ### RTE and EXIT at the end of their bundle -/

/-- At the end of the bundle of an RTE the return is made, in a state in which the context's registers are as before; no bundle is left in
flight. -/
theorem finish_rte {s : State} (h : s.fl.after = .rte) : ∃ t, Keeps s.endFlight t ∧ (t.ctx s.fl.ctx).SameReturn s.me
    ∧ s.finish = t.rteReturn s.fl.ctx s.fl.pc s.fl.lit := by
  unfold State.finish
  dsimp only
  rw [h]
  obtain ⟨hfl, hmem, hctx, -⟩ := Performs.settle s s.fl.ctx
  obtain ⟨htrapm, hsres, hcapv, hepc, hlit⟩ := Ctx.SameReturn.of_still (hctx s.fl.ctx)
  refine ⟨_, ?_, ?_, rfl⟩
  · exact ⟨congrArg (fun f : Flight => { f with live := false, rest := [], cap := none }) hfl, hmem⟩
  · rw [endFlight_ctx, State.ctx_setCtx]
    exact ⟨htrapm, hsres, hcapv, hepc, hlit⟩

theorem finish_exit {s : State} (h : s.fl.after = .exit) : s.finish.me.mode = .exiting := by
  have hsettle : (s.settle s.fl.ctx).fl.ctx = s.fl.ctx := congrArg Flight.ctx (Performs.settle ..).fl
  obtain ⟨t, hctx, ht⟩ : ∃ t : State, t.fl.ctx = s.fl.ctx ∧ s.finish = t.setCtx s.fl.ctx { t.ctx s.fl.ctx with mode := .exiting } := by
    unfold State.finish
    dsimp only
    rw [h]
    refine ⟨_, ?_, rfl⟩
    exact hsettle
  rw [State.me, ht, State.setCtx_fl, hctx, State.ctx_setCtx]

/-! ### The descriptor of DICTSW -/

/-- A field of a number within the low bits of a word is that field of the word. -/
theorem extractLsb'_ofNat_toNat (v : Nat) {w lo n : Nat} (h : lo + n ≤ w) : ((BitVec.ofNat w v).extractLsb' lo n).toNat = bits v lo n := by
  rw [BitVec.extractLsb'_toNat, BitVec.toNat_ofNat, bits, ← Nat.shiftRight_eq_div_pow]
  apply Nat.eq_of_testBit_eq
  intro i
  simp only [Nat.testBit_mod_two_pow, Nat.testBit_shiftRight]
  by_cases hi : i < n
  · simp [show lo + i < w by omega]
  · simp [hi]

/-- The descriptor of a dictionary names aligned bases, at most 65,534 entries and no reserved bit (R61). -/
def GoodDescriptor (w : BitVec 192) : Prop :=
  w.extractLsb' 0 6 = 0 ∧ w.extractLsb' 64 6 = 0 ∧ (w.extractLsb' 128 16).toNat ≤ 65534 ∧ w.extractLsb' 144 48 = 0

theorem goodDescriptor_iff (v : Nat) : GoodDescriptor (BitVec.ofNat 192 v)
    ↔ ¬(bits v 0 64 % 64 ≠ 0 ∨ bits v 64 64 % 64 ≠ 0 ∨ 65534 < bits v 128 16 ∨ bits v 144 48 ≠ 0) := by
  have hzero {n : Nat} (lo : Nat) (h : lo + n ≤ 192) : (BitVec.ofNat 192 v).extractLsb' lo n = 0 ↔ bits v lo n = 0 := by
    rw [← extractLsb'_ofNat_toNat v h, BitVec.toNat_eq]
    rfl
  have hlow (lo : Nat) : bits v lo 64 % 64 = bits v lo 6 := by
    simp only [bits]
    omega
  rw [GoodDescriptor, hzero 0 (by decide), hzero 64 (by decide), hzero 144 (by decide), extractLsb'_ofNat_toNat v (by decide), hlow, hlow]
  omega

/-- The state in which a slot reads at its commit: the accesses of its context have performed (R96). -/
def State.atRead (s : State) (srcs : List ByteSrc) (ts : List Trans) : State :=
  ((s.performAll s.fl.ctx).fills ts).touch (srcs.filterMap ByteSrc.place)

theorem atRead_fl (s : State) (srcs : List ByteSrc) (ts : List Trans) : (s.atRead srcs ts).fl = s.fl :=
  (((Performs.performAll s s.fl.ctx).trans (Performs.fills _ ts)).trans (Performs.touch _ _)).fl

theorem atRead_me (s : State) (srcs : List ByteSrc) (ts : List Trans) : (s.atRead srcs ts).ctx s.fl.ctx = (s.atRead srcs ts).me := by
  rw [State.me, atRead_fl]

theorem commitRead_bad {s : State} {addr : Nat} {srcs : List ByteSrc} {ts : List Trans} {e : AFault}
    (h : (s.atRead srcs ts).hardFault ts addr srcs = some e) : s.commitRead s.fl.ctx addr srcs ts = (s.atRead srcs ts, .error e) := by
  unfold State.commitRead
  dsimp only
  rw [← State.atRead, h]

theorem commitRead_good {s : State} {addr : Nat} {srcs : List ByteSrc} {ts : List Trans}
    (h : (s.atRead srcs ts).hardFault ts addr srcs = none) : s.commitRead s.fl.ctx addr srcs ts =
      ((s.atRead srcs ts).countSubst (s.atRead srcs ts).me.node ((s.atRead srcs ts).softGranules srcs).length,
        .ok ((s.atRead srcs ts).goodBytes (s.atRead srcs ts).byte srcs)) := by
  unfold State.commitRead
  dsimp only
  rw [← State.atRead, h, atRead_me]

/-- The state with the dictionary that a good descriptor names: the code stream begins anew, and the entries of the context's space leave
the dictionary cache (R61, R96). -/
def State.takeDict (u : State) (cbase dbase dictn : Nat) : State :=
  let t := u.setMine { u.mine with dict := u.mine.dict.filter fun e => e.1 != u.me.node + 1 }
  t.setMe { t.me with cbase := cbase, dbase := dbase, dictn := dictn, icWords := [] }

theorem mem_takeDict (u : State) (cbase dbase dictn : Nat) (e : Nat × Nat × Nat) :
    e ∈ (u.takeDict cbase dbase dictn).mine.dict ↔ e ∈ u.mine.dict ∧ e.1 ≠ u.me.node + 1 := by
  rw [State.takeDict, State.mine_setMe, State.mine_setMine, List.mem_filter, bne_iff_ne]

theorem takeDict_eq (u : State) (cbase dbase dictn : Nat) : u.takeDict cbase dbase dictn =
    (u.setMine { u.mine with dict := (u.takeDict cbase dbase dictn).mine.dict }).setMe
      { u.me with cbase := cbase, dbase := dbase, dictn := dictn, icWords := [] } := by
  rw [State.takeDict, State.mine_setMe, State.mine_setMine, State.me_setMine]

theorem exec_dictsw (a : BitVec 5) (s : State) : exec (.dictsw a) s =
    done s (match s.placeAligned 3 .read false 8 (s.aArg 0 a).toNat 24 with
      | .error e => s.accessFault e
      | .ok (srcs, ts) => match s.commitRead s.fl.ctx (s.aArg 0 a).toNat srcs ts with
        | (s, .error e) => s.accessFault e
        | (s, .ok bs) =>
          if bits (leNat bs) 0 64 % 64 ≠ 0 ∨ bits (leNat bs) 64 64 % 64 ≠ 0 ∨ 65534 < bits (leNat bs) 128 16
              ∨ bits (leNat bs) 144 48 ≠ 0 then
            s.slotFault causeDictDesc 0 0
          else (s.takeDict (bits (leNat bs) 0 64) (bits (leNat bs) 64 64) (bits (leNat bs) 128 16)).goto 0) := by
  rw [← State.opA_eq]
  rfl

theorem dictsw_misplaced {s : State} {a : BitVec 5} {e : AFault}
    (h : s.placeAligned 3 .read false 8 (s.aArg 0 a).toNat 24 = .error e) : exec (.dictsw a) s = .next ((s.accessFault e).closed s) := by
  rw [exec_dictsw, h, done_closed]

section
variable {s : State} {a : BitVec 5} {srcs : List ByteSrc} {ts : List Trans}

theorem dictsw_bad (hplace : s.placeAligned 3 .read false 8 (s.aArg 0 a).toNat 24 = .ok (srcs, ts)) {e : AFault}
    (h : (s.atRead srcs ts).hardFault ts (s.aArg 0 a).toNat srcs = some e) :
    exec (.dictsw a) s = .next (((s.atRead srcs ts).accessFault e).closed s) := by
  rw [exec_dictsw, hplace]
  dsimp only
  rw [commitRead_bad h, done_closed]

/-- The state in which the descriptor of DICTSW is checked: the substitutions of its read are counted (R359). -/
def State.dictRead (s : State) (srcs : List ByteSrc) (ts : List Trans) : State :=
  (s.atRead srcs ts).countSubst (s.atRead srcs ts).me.node ((s.atRead srcs ts).softGranules srcs).length

/-- The descriptor that DICTSW reads. -/
def State.descriptor (s : State) (srcs : List ByteSrc) (ts : List Trans) : BitVec 192 :=
  BitVec.ofNat 192 (leNat ((s.atRead srcs ts).goodBytes (s.atRead srcs ts).byte srcs))

theorem dictsw_refused (hplace : s.placeAligned 3 .read false 8 (s.aArg 0 a).toNat 24 = .ok (srcs, ts))
    (h : (s.atRead srcs ts).hardFault ts (s.aArg 0 a).toNat srcs = none) (hbad : ¬GoodDescriptor (s.descriptor srcs ts)) :
    exec (.dictsw a) s = .next (((s.dictRead srcs ts).slotFault causeDictDesc 0 0).closed s) := by
  rw [State.descriptor, goodDescriptor_iff, not_not] at hbad
  rw [exec_dictsw, hplace]
  dsimp only
  rw [commitRead_good h]
  dsimp only
  rw [if_pos hbad, done_closed, State.dictRead]

theorem dictsw_taken (hplace : s.placeAligned 3 .read false 8 (s.aArg 0 a).toNat 24 = .ok (srcs, ts))
    (h : (s.atRead srcs ts).hardFault ts (s.aArg 0 a).toNat srcs = none) (hgood : GoodDescriptor (s.descriptor srcs ts)) :
    exec (.dictsw a) s = .next ((((s.dictRead srcs ts).takeDict ((s.descriptor srcs ts).extractLsb' 0 64).toNat
      ((s.descriptor srcs ts).extractLsb' 64 64).toNat ((s.descriptor srcs ts).extractLsb' 128 16).toNat).goto 0).closed s) := by
  rw [State.descriptor, goodDescriptor_iff] at hgood
  rw [exec_dictsw, hplace]
  dsimp only
  rw [commitRead_good h]
  dsimp only
  rw [if_neg hgood, done_closed, State.dictRead, State.descriptor, extractLsb'_ofNat_toNat _ (by decide),
    extractLsb'_ofNat_toNat _ (by decide), extractLsb'_ofNat_toNat _ (by decide)]

end

/-! ### The obligation -/

/-- The bundle of an RTE with no slot left ends with the return, and no bundle is in flight after it. -/
theorem exec_rte_last {s : State} (h : s.fl.rest.length ≤ 1) : ∃ t u : State, (t.ctx s.fl.ctx).SameReturn s.me ∧
    u = t.rteReturn s.fl.ctx s.fl.pc s.fl.lit ∧ exec .rte s = .next (u.closed s) ∧ u.fl.live = false ∧ u.fl.ctx = s.fl.ctx := by
  obtain ⟨t, hkeeps, hsame, hfinish⟩ := finish_rte (s := { s with fl := { s.fl with after := .rte } }) rfl
  have hfl : (t.rteReturn s.fl.ctx s.fl.pc s.fl.lit).fl = t.fl := (Keeps.rteReturn ..).fl
  refine ⟨t, _, hsame, rfl, ?_, by rw [hfl, hkeeps.fl]; rfl, by rw [hfl, hkeeps.fl]; rfl⟩
  rw [← hfinish]
  show done s (if s.fl.rest.length ≤ 1 then _ else _) = _
  rw [if_pos h, done_closed]

/-- Settles O29. The return is `rteReturn_reenters` and its two refusals, the end of the bundle `finish_rte`, and DICTSW goes by what its
read at the commit answers. -/
theorem returnExitAndDictionarySwitch : Obligations.ReturnExitAndDictionarySwitch := by
  refine ⟨?returns, ?instructions⟩
  case returns =>
    intro s c epc lit r x inside read y htrapm hsres
    have hread : read = r.returnRead c := by rw [State.returnRead, frameRead_eq]
    have hr := retireAll_sameReturn s c
    refine ⟨fun e he => rteReturn_unreadable epc lit (hread.symm.trans he), fun bs hbs => ?_⟩
    obtain ⟨t, -, ht⟩ := rteReturn_reenters epc lit (hr.trapm ▸ htrapm) (hr.sres ▸ hsres) (hread.symm.trans hbs)
    have hy : y = _ := (congrArg (State.ctx · c) ht).trans (reenter_ctx _ c _)
    rw [State.ctx_setCtx] at hy
    rw [hy]
    exact ⟨rfl, rfl, rfl, rfl, _, rfl, rfl, returnFrame_capv x bs, tabGet_frameTable bs, returnFrame_inside bs, returnFrame_outside bs⟩
  case instructions =>
    intro s a hw x va desc
    refine ⟨fun hrest => ?later, fun hrest htrapm hsres hcapv hedge => ?ret, fun hrest hbad => ?refused, done_eq hw rfl, fun hafter => ?exit,
      fun e he => dictsw_misplaced he, fun srcs ts hdesc => ⟨fun e he => dictsw_bad hdesc he, fun he hok =>
        ⟨_, dictsw_taken hdesc he hok, takeDict_eq .., mem_takeDict _ _ _ _⟩, fun he hok => dictsw_refused hdesc he hok⟩⟩
    case later =>
      show done s (if s.fl.rest.length ≤ 1 then _ else _) = _
      rw [if_neg (by omega)]
      exact done_eq hw rfl
    case ret =>
      have hedge : s.me.sres = 0 ∨ s.me.sres = 12 := hedge
      obtain ⟨t, u, hsame, hu, hexec, hlive, hctx⟩ := exec_rte_last hrest
      have hr := (retireAll_sameReturn t s.fl.ctx).trans hsame
      have hread : (t.retireAll s.fl.ctx).returnRead s.fl.ctx = .ok [] := by
        have hzero : ((t.retireAll s.fl.ctx).ctx s.fl.ctx).frameRead = 0 := by
          rw [frameRead_eq, hr.capv, hr.sres, hcapv, if_neg (by decide), if_neg (by omega)]
        rw [State.returnRead, hzero, readVirtual_zero]
      obtain ⟨v, hperforms, hv⟩ := rteReturn_reenters s.fl.pc s.fl.lit (hsame.trapm.trans htrapm) (hsame.sres.trans_le hsres) hread
      have hme : (u.closed s).me = _ := (congrArg u.ctx hctx).trans (hu ▸ hv ▸ reenter_ctx ..)
      rw [State.ctx_setCtx] at hme
      have hsettling := (hperforms.settling s.fl.ctx).trans (congrArg Ctx.settling (retireAll_ctx ..))
      obtain ⟨hphase, hphgen⟩ := phase_of_still (hperforms.ctx s.fl.ctx)
      obtain ⟨hmap, hgen⟩ := returnFrame_outside (x := (t.retireAll s.fl.ctx).ctx s.fl.ctx) [] (by
        rw [Ctx.splitInside, hr.sres]
        omega)
      refine ⟨_, hexec, hlive, ?_⟩
      rw [hme]
      exact ⟨rfl, rfl, congrArg (BitVec.toNat · % 2 ^ 32) hr.epc, hr.lit, hsettling, _, rfl, hr.sres,
        congrArg (· && _) (hr.capv.trans hcapv), hmap.trans hphase.symm, hgen.trans hphgen.symm⟩
    case refused =>
      obtain ⟨t, u, hsame, hu, hexec, hlive, hctx⟩ := exec_rte_last hrest
      refine ⟨_, hexec, hlive, ?_⟩
      show (u.ctx u.fl.ctx).mode = .killed
      rw [hctx, hu]
      exact rteReturn_refused _ _ (by rwa [hsame.trapm, hsame.sres])
    case exit => exact finish_exit hafter

end Sys2Proof.Machine
end

section
/-! PROOFS. What reads, writes, accesses that perform and records leave of the launches: the queues, the launches in flight and the device's
clock, and the modes of contexts (R258, R306, R307). Reads leave the contexts themselves. -/

namespace Sys2Proof.Machine

/-- The queues, the launches, their next number, the device's clock and the modes of contexts stay. -/
structure Desk (s t : State) : Prop where
  hwq : t.dev.hwq = s.dev.hwq
  launches : t.dev.launches = s.dev.launches
  next : t.dev.nextLaunch = s.dev.nextLaunch
  clock : t.dev.clock = s.dev.clock
  mode : ∀ c, (t.ctx c).mode = (s.ctx c).mode

/-- The queues, the launches, their next number, the device's clock and all contexts stay: what the device reads changes nothing of them. -/
structure Aside (s t : State) : Prop where
  hwq : t.dev.hwq = s.dev.hwq
  launches : t.dev.launches = s.dev.launches
  next : t.dev.nextLaunch = s.dev.nextLaunch
  clock : t.dev.clock = s.dev.clock
  ctxs : t.ctxs = s.ctxs

theorem Aside.desk {s t : State} (h : Aside s t) : Desk s t :=
  ⟨h.hwq, h.launches, h.next, h.clock, fun c => by rw [State.ctx, State.ctx, h.ctxs]⟩

theorem Aside.ctx {s t : State} (h : Aside s t) (c : Nat) : t.ctx c = s.ctx c := by rw [State.ctx, State.ctx, h.ctxs]
theorem Desk.launch {s t : State} (h : Desk s t) (id : Nat) : t.launch id = s.launch id := by rw [State.launch, State.launch, h.launches]
theorem Desk.hw {s t : State} (h : Desk s t) (q : Nat) : t.hw q = s.hw q := by rw [State.hw, State.hw, h.hwq]

/-! ### Reads -/

namespace Aside

variable {s t u : State}

theorem refl : Aside s s := ⟨rfl, rfl, rfl, rfl, rfl⟩
theorem trans (a : Aside s t) (b : Aside t u) : Aside s u :=
  ⟨b.hwq.trans a.hwq, b.launches.trans a.launches, b.next.trans a.next, b.clock.trans a.clock, b.ctxs.trans a.ctxs⟩
theorem ite {c : Prop} [Decidable c] (a : Aside s t) (b : Aside s u) : Aside s (if c then t else u) := by split <;> assumption
theorem foldl {α : Type} {f : State → α → State} (h : ∀ s a, Aside s (f s a)) (l : List α) (s : State) : Aside s (l.foldl f s) := by
  induction l generalizing s with
  | nil => exact refl
  | cons a l ih => exact (h s a).trans (ih _)

theorem setCore (s : State) (k x) : Aside s (s.setCore k x) := ⟨rfl, rfl, rfl, rfl, rfl⟩
theorem setCluster (s : State) (k x) : Aside s (s.setCluster k x) := ⟨rfl, rfl, rfl, rfl, rfl⟩
theorem poke (s : State) (k b) : Aside s (s.poke k b) := by
  obtain ⟨l, h⟩ := s.poke_frame k b
  exact h ▸ ⟨rfl, rfl, rfl, rfl, rfl⟩
theorem pokes (s : State) (l) : Aside s (s.pokes l) := by
  obtain ⟨w, h⟩ := State.pokes_frame l s
  exact h ▸ ⟨rfl, rfl, rfl, rfl, rfl⟩
theorem countSubst (s : State) (c n) : Aside s (s.countSubst c n) := by
  unfold State.countSubst
  split <;> exact ⟨rfl, rfl, rfl, rfl, rfl⟩
theorem unpoison (s : State) (k) : Aside s (s.unpoison k) := by
  unfold State.unpoison
  split <;> exact ⟨rfl, rfl, rfl, rfl, rfl⟩
theorem sendHost (s : State) (r k) : Aside s (s.sendHost r k) := by
  unfold State.sendHost
  dsimp only
  split <;> exact ⟨rfl, rfl, rfl, rfl, rfl⟩
theorem askHost (s : State) (k) : Aside s (s.askHost k) := by
  unfold State.askHost
  dsimp only
  split <;> exact ⟨rfl, rfl, rfl, rfl, rfl⟩
theorem refreshCopies (s : State) (c k) : Aside s (s.refreshCopies c k) := by
  unfold State.refreshCopies
  refine foldl (fun s o => ?_) _ s
  exact ite refl (setCore _ _ _)
theorem putIn (s : State) (e : RedEntry) (x) : Aside s (e.putIn x s) := by
  unfold RedEntry.putIn
  exact (pokes _ _).trans ((foldl (fun s k => refreshCopies s k _) _ _).trans (sendHost _ _ _))
theorem drainEntry (s : State) (e) : Aside s (drainEntry s e) := by
  unfold Sys2Proof.Machine.drainEntry
  dsimp only
  split
  · exact putIn _ _ _
  · exact ((countSubst _ _ _).trans (putIn _ _ _)).trans (unpoison _ _)
  · exact refl
theorem drainRed (s : State) (p) : Aside s (s.drainRed p) := by
  unfold State.drainRed
  split
  · exact refl
  · exact (foldl drainEntry _ s).trans ⟨rfl, rfl, rfl, rfl, rfl⟩
theorem touch (s : State) (k) : Aside s (s.touch k) := by
  unfold State.touch
  exact ite refl (drainRed _ _)
theorem fillLine (s : State) (c l) : Aside s (s.fillLine c l) := by
  unfold State.fillLine
  dsimp only
  exact ite refl (ite (setCore _ _ _) ⟨rfl, rfl, rfl, rfl, rfl⟩)
theorem fillLines (s : State) (c k) : Aside s (s.fillLines c k) := foldl (fun s l => fillLine s c l) _ s
theorem dropLines (s : State) (c) : Aside s (s.dropLines c) := by
  unfold State.dropLines State.dropCopies
  refine foldl (fun s o => ?_) _ s
  exact ite refl (setCore _ _ _)
theorem hold (s : State) (t n p) : Aside s (s.hold t n p) := by
  unfold State.hold
  dsimp only
  split
  · exact refl
  · split <;> exact ⟨rfl, rfl, rfl, rfl, rfl⟩
theorem keepPath (s : State) (d l) : Aside s (s.keepPath d l) := by
  unfold State.keepPath
  refine foldl (fun s p => ?_) _ s
  dsimp only
  split
  · exact refl
  · split <;> exact ⟨rfl, rfl, rfl, rfl, rfl⟩
theorem cacheHost (s : State) (t) : Aside s (s.cacheHost t) := by
  unfold State.cacheHost
  dsimp only
  split
  · exact refl
  · split <;> exact ⟨rfl, rfl, rfl, rfl, rfl⟩
theorem fill (s : State) (t) : Aside s (s.fill t) := by
  unfold State.fill
  dsimp only
  split
  · exact (cacheHost _ _).trans (touch _ _)
  · exact ((((cacheHost _ _).trans (touch _ _)).trans (hold _ _ _ _)).trans (hold _ _ _ _)).trans (keepPath _ _ _)
theorem fills (s : State) (l) : Aside s (s.fills l) := foldl fill l s
theorem afterRead (s : State) (sp : Space) (die va n : Nat) : Aside s (s.afterRead sp die va n) := by
  unfold State.afterRead
  split
  · exact refl
  · exact trans (((fills _ _).trans (touch _ _)).trans (askHost _ _)) (ite refl (countSubst _ _ _))
theorem readRanges (s : State) (sp : Space) (die : Nat) (rs) : Aside s (s.readRanges sp die rs) :=
  foldl (f := fun s (r : Nat × Nat) => s.afterRead sp die r.1 r.2) (fun s r => afterRead s sp die r.1 r.2) rs s
theorem afterLoad (s : State) (q x) : Aside s (s.afterLoad q x) := by
  unfold State.afterLoad
  dsimp only
  split
  · exact readRanges _ _ _ _
  · exact (readRanges _ _ _ _).trans (readRanges _ _ _ _)

end Aside

/-! ### Writes, accesses and records -/

namespace Desk

variable {s t u : State}

theorem refl : Desk s s := ⟨rfl, rfl, rfl, rfl, fun _ => rfl⟩
theorem trans (a : Desk s t) (b : Desk t u) : Desk s u :=
  ⟨b.hwq.trans a.hwq, b.launches.trans a.launches, b.next.trans a.next, b.clock.trans a.clock, fun c => (b.mode c).trans (a.mode c)⟩
theorem ite {c : Prop} [Decidable c] (a : Desk s t) (b : Desk s u) : Desk s (if c then t else u) := by split <;> assumption
theorem foldl {α : Type} {f : State → α → State} (h : ∀ s a, Desk s (f s a)) (l : List α) (s : State) : Desk s (l.foldl f s) := by
  induction l generalizing s with
  | nil => exact refl
  | cons a l ih => exact (h s a).trans (ih _)

theorem setCtx (s : State) (c x) (h : x.mode = (s.ctx c).mode) : Desk s (s.setCtx c x) :=
  ⟨rfl, rfl, rfl, rfl, fun d => by by_cases e : d = c <;> simp [e, h]⟩
theorem touch (s : State) (k) : Desk s (s.touch k) := (Aside.touch s k).desk
theorem drainOf (s : State) (c) : Desk s (s.drainOf c) := (Aside.drainRed s _).desk
theorem demotePage (s : State) (t) : Desk s (s.demotePage t) := by
  unfold State.demotePage
  refine (Aside.poke s t.entry _).desk.trans ⟨rfl, rfl, rfl, rfl, fun c => ?_⟩
  simp only [State.ctx]
  rw [tabGet_map Ctx.init (Ctx.home t) rfl]
  rfl
theorem demote (s : State) (v k) : Desk s (s.demote v k) := by
  unfold State.demote
  exact foldl (fun s t => ite (demotePage _ _) refl) _ s
theorem storeCells (s : State) (k) : Desk s (s.storeCells k) :=
  (((Aside.touch _ _).trans (Aside.unpoison _ _)).trans (Aside.pokes _ _)).desk
theorem storeVia (s : State) (v k r) : Desk s (s.storeVia v k r) :=
  ((demote _ _ _).trans (storeCells _ _)).trans (Aside.sendHost _ _ _).desk
theorem joinRed (s : State) (n) : Desk s (s.joinRed n) := by
  unfold State.joinRed
  dsimp only
  split
  · exact ⟨rfl, rfl, rfl, rfl, fun _ => rfl⟩
  · split
    · exact ⟨rfl, rfl, rfl, rfl, fun _ => rfl⟩
    · exact (Aside.drainRed _ _).desk.trans ⟨rfl, rfl, rfl, rfl, fun _ => rfl⟩
theorem addRed (s : State) (a b c d e f g h i) : Desk s (s.addRed a b c d e f g h i) := ite refl (joinRed _ _)
theorem crossOne (s : State) (l w) : Desk s (s.crossOne l w) := ⟨rfl, rfl, rfl, rfl, fun _ => rfl⟩
theorem cross (s : State) (d k w) : Desk s (s.cross d k w) := by
  unfold State.cross
  exact foldl (fun s l => crossOne s l _) _ s
theorem meet (s : State) (c i l) : Desk s (s.meet c i l) := by
  unfold State.meet
  exact (((Aside.askHost _ _).trans (Aside.countSubst _ _ _)).trans (.ite (Aside.dropLines _ _) .refl)).desk
theorem bump (s : State) (n : Nat) : Desk s { s with fresh := n } := ⟨rfl, rfl, rfl, rfl, fun _ => rfl⟩
theorem landLoad (s : State) (c i l b) : Desk s (s.landLoad c i l b) := by
  unfold State.landLoad
  dsimp only
  exact (ite (bump _ _) refl).trans ((ite refl (Aside.fillLines _ _ _).desk).trans (setCtx _ _ _ rfl))
theorem landStore (s : State) (c i l) : Desk s (s.landStore c i l) := (storeVia _ _ _ _).trans (Aside.refreshCopies _ _ _).desk
theorem failWrite (s : State) (c i k) : Desk s (s.failWrite c i k) := setCtx _ _ _ rfl
theorem perform (s : State) (c i) : Desk s (s.perform c i) := by
  unfold State.perform
  dsimp only
  have h : Desk s (if i.rel = true then s.drainOf c else s) := ite (drainOf _ _) refl
  generalize (if i.rel = true then s.drainOf c else s) = u at h ⊢
  refine h.trans ?_
  split
  · split
    · exact (touch _ _).trans (setCtx _ _ _ rfl)
    · exact (touch _ _).trans ((meet _ _ _ _).trans (landLoad _ _ _ _ _))
  · split
    · exact failWrite _ _ _ _
    · exact landStore _ _ _ _
  · split
    · exact (touch _ _).trans (setCtx _ _ _ rfl)
    · exact (touch _ _).trans ((meet _ _ _ _).trans ((landStore _ _ _ _).trans (setCtx _ _ _ rfl)))
  · split
    · exact failWrite _ _ _ _
    · exact (demote _ _ _).trans (addRed _ _ _ _ _ _ _ _ _ _)
  · exact drainOf _ _
  · exact (ite refl (bump _ _)).trans (Aside.setCore _ _ _).desk
theorem performAt (s : State) (c n) : Desk s (s.performAt c n) := by
  unfold State.performAt
  dsimp only
  split
  · exact refl
  · split
    · refine (setCtx s c _ ?_).trans ((cross _ _ _ _).trans (perform _ _ _))
      rfl
    · exact refl
theorem force (n : Nat) (s : State) (c id) : Desk s (s.force n c id) := by
  induction n generalizing s c id with
  | zero => exact refl
  | succ n ih =>
    unfold State.force
    split
    · exact refl
    next m _ =>
      have first := foldl (f := fun s (i : PortItem) => State.force n s c i.id) (fun s i => ih s c i.id) ((s.ctx c).port.take m) s
      have own (b : Prop) [Decidable b] (l : List (Nat × Nat)) (t : State) :
          Desk t (if b then l.foldl (fun s p => State.force n s p.2 p.1) t else t) :=
        ite (foldl (f := fun s (p : Nat × Nat) => State.force n s p.2 p.1) (fun s p => ih s p.2 p.1) l t) refl
      dsimp only
      split
      · exact first.trans (own _ _ _)
      · exact (first.trans (own _ _ _)).trans (performAt _ _ _)
theorem performThrough (s : State) (c id) : Desk s (s.performThrough c id) := force _ _ _ _
theorem performAll (s : State) (c) : Desk s (s.performAll c) := foldl (fun s id => performThrough s c id) _ s
theorem writeVirtual {s t : State} {sp d va bs r} (h : writeVirtual s sp d va bs r = .ok t) : Desk s t := by
  unfold Sys2Proof.Machine.writeVirtual at h
  split at h
  · cases h
  · dsimp only at h
    split at h <;> cases h
    exact ((Aside.fills _ _).desk.trans (storeVia _ _ _ _)).trans (ite (Aside.refreshCopies _ _ _).desk refl)

theorem interrupt (s : State) (v : Nat) : Desk s { s with dev := s.dev.interrupt v } := by
  unfold Dev.interrupt
  split <;> exact ⟨rfl, rfl, rfl, rfl, fun _ => rfl⟩
theorem signal (s : State) (e n) : Desk s (s.signal e n) := by
  unfold State.signal
  split
  · exact interrupt _ _
  · exact refl
theorem writeOutcome (s : State) (n) : Desk s (s.writeOutcome n) := by
  unfold State.writeOutcome
  dsimp only
  split
  · exact writeVirtual ‹_›
  · exact refl
theorem countTrap (s : State) (n f) : Desk s (s.countTrap n f) := ⟨rfl, rfl, rfl, rfl, fun _ => rfl⟩
theorem dropRecord (s : State) (a b c d) : Desk s (s.dropRecord a b c d) := (countTrap _ _ _).trans (storeVia _ _ _ _)
theorem sayRecord (s : State) (a b c d) : Desk s (s.sayRecord a b c d) :=
  ((countTrap _ _ _).trans (storeVia _ _ _ _)).trans (signal _ _ _)
theorem writeTrap (s : State) (a b c r) : Desk s (s.writeTrap a b c r).1 := by
  unfold State.writeTrap
  dsimp only
  split
  · exact ⟨rfl, rfl, rfl, rfl, fun _ => rfl⟩
  generalize (classOf r.code == 2) = fatal
  generalize (if fatal = true then 256 else 255) = room
  split
  · exact (Aside.fills _ _).desk.trans (dropRecord _ _ _ _ _)
  split
  · exact (Aside.fills _ _).desk.trans (dropRecord _ _ _ _ _)
  · exact ((Aside.fills _ _).trans (Aside.fills _ _)).desk.trans
      ((storeVia _ _ _ _).trans ((sayRecord _ _ _ _ _).trans (ite (writeOutcome _ _) refl)))

end Desk

end Sys2Proof.Machine
end

section
/-! PROOFS. Binding the contexts of a launch (R41, R310 to R312): every place that a launch is given holds a context at reset values, and the
launch stands with the cluster that took it. -/

namespace Sys2Proof.Machine

/-! ### Tables of queues and launches -/

theorem find?_tabPut {α : Type} (t : Tab α) (n : Nat) (x : α) : (tabPut t n x).find? (fun p => p.1 == n) = some (n, x) := by
  induction t with
  | nil => simp [tabPut]
  | cons p t ih =>
    obtain ⟨k, v⟩ := p
    unfold tabPut
    split
    · simp
    split
    next h => simp
    next h => rw [List.find?_cons_of_neg (by simpa using Ne.symm h), ih]

theorem find?_tabErase {α : Type} (t : Tab α) (n : Nat) : (tabErase t n).find? (fun p => p.1 == n) = none := by
  rw [tabErase_eq_filter, List.find?_eq_none]
  intro p hp
  simpa using (List.mem_filter.1 hp).2

@[simp] theorem State.hw_setHw (s : State) (q : Nat) (x : HwQueue) : (s.setHw q x).hw q = some x := by
  simp only [State.hw, State.setHw, find?_tabPut, Option.map_some]

@[simp] theorem State.launch_setHw (s : State) (q : Nat) (x : HwQueue) (id : Nat) : (s.setHw q x).launch id = s.launch id := rfl

@[simp] theorem State.launch_setLaunch (s : State) (id : Nat) (l : Launch) : (s.setLaunch id l).launch id = some l := by
  simp only [State.launch, State.setLaunch, find?_tabPut, Option.map_some]

/-! ### The queues while a launch is bound -/

/-- The queues and the next number of a launch stay. -/
structure SameQueues (s t : State) : Prop where
  hwq : t.dev.hwq = s.dev.hwq
  next : t.dev.nextLaunch = s.dev.nextLaunch

namespace SameQueues

variable {s t u : State}

theorem refl : SameQueues s s := ⟨rfl, rfl⟩
theorem trans (a : SameQueues s t) (b : SameQueues t u) : SameQueues s u := ⟨b.hwq.trans a.hwq, b.next.trans a.next⟩
theorem foldl {α : Type} {f : State → α → State} (h : ∀ s a, SameQueues s (f s a)) (l : List α) (s : State) :
    SameQueues s (l.foldl f s) := by
  induction l generalizing s with
  | nil => exact refl
  | cons a l ih => exact (h s a).trans (ih _)
theorem hw (h : SameQueues s t) (q : Nat) : t.hw q = s.hw q := by rw [State.hw, State.hw, h.hwq]

end SameQueues

theorem Aside.queues {s t : State} (h : Aside s t) : SameQueues s t := ⟨h.hwq, h.next⟩

/-! ### Binding -/

/-- The values of a context bound to a launch: those of reset, with what the launch and the stage give (R41, R311). -/
def Launch.Binds (l : Launch) (id : Nat) (z : Ctx) : Prop :=
  z.mode = .running ∧ z.launch = id ∧ z.node = l.node ∧ z.prio = l.prio ∧ z.cmpat = l.cmpat ∧ z.priv = l.priv ∧ z.compat = l.compat
    ∧ z.pc = 0 ∧ z.inRun = false ∧ z.pend = [] ∧ z.loops = [] ∧ z.txn = none ∧ (∀ r, z.sreg r = l.carries.getD r 0)
    ∧ (∀ r, z.areg r = 0 ∧ z.vreg r = 0 ∧ z.mreg r = 0 ∧ z.preg r = 0)
    ∧ ∃ st, l.stages[z.stage]? = some st ∧ z.cbase = st.cbase ∧ z.dbase = st.dbase ∧ z.dictn = st.dictn ∧ z.tgrant = st.tgrant

/-- A launch stands with its clusters and stages, and every context of a list ran and is bound to it. -/
structure Holds (id : Nat) (l : Launch) (cs : List Nat) (t : State) : Prop where
  launch : ∃ y, t.launch id = some y ∧ y.clusters = l.clusters ∧ y.stages = l.stages ∧ ∀ c ∈ cs, c ∈ y.ran
  binds : ∀ c ∈ cs, l.Binds id (t.ctx c)

theorem Holds.aside {id : Nat} {l : Launch} {cs : List Nat} {s t : State} (h : Holds id l cs s) (k : Aside s t) : Holds id l cs t :=
  ⟨by rw [k.desk.launch]; exact h.launch, fun c hc => by rw [k.ctx]; exact h.binds c hc⟩

/-- What binding a context of a stage does: the launch counts it, its context takes the values of the launch, and no other context and no
queue changes. -/
theorem bindCtx_spec {l : Launch} {stage : Nat} {st : Stage} (hst : l.stages[stage]? = some st) (s : State) (id gang c : Nat) :
    let t := s.bindCtx id l stage gang c
    SameQueues s t ∧ l.Binds id (t.ctx c) ∧ (∀ d, d ≠ c → t.ctx d = s.ctx d)
      ∧ t.launch id = some { (s.launch id).getD l with
          ran := if ((s.launch id).getD l).ran.contains c then ((s.launch id).getD l).ran else ((s.launch id).getD l).ran ++ [c] } := by
  intro t
  obtain ⟨u, x, k, n, hu, hx, ht⟩ : ∃ (u : State) (x : Ctx) (k : Core) (n : Nat), Aside s u ∧ l.Binds id x ∧
      t = ({ (u.setCtx c x).setCore (coreOf c) k with dev := { u.dev with nextInst := n } }).setLaunch id
        { (u.launch id).getD l with
          ran := if ((u.launch id).getD l).ran.contains c then ((u.launch id).getD l).ran else ((u.launch id).getD l).ran ++ [c] } := by
    refine ⟨_, _, _, _, Aside.readRanges .., ?_, by unfold t State.bindCtx; rw [hst]; rfl⟩
    exact ⟨rfl, rfl, rfl, rfl, rfl, rfl, rfl, rfl, rfl, rfl, rfl, rfl, tabGet_zipIdx (tabGet_put 0) l.carries, fun _ => ⟨rfl, rfl, rfl, rfl⟩,
      st, hst, rfl, rfl, rfl, rfl⟩
  have hctx (d : Nat) : t.ctx d = (u.setCtx c x).ctx d := by rw [ht]; rfl
  refine ⟨hu.queues.trans (by rw [ht]; exact ⟨rfl, rfl⟩), ?_, fun d hd => ?_, ?_⟩
  · rw [hctx, State.ctx_setCtx]
    exact hx
  · rw [hctx, State.ctx_setCtx_ne _ _ _ hd, hu.ctx]
  · rw [ht, State.launch_setLaunch, hu.desk.launch]

/-- A launch that is held, with a further context bound to one of its stages. -/
theorem Holds.bindCtx {id stage : Nat} {l : Launch} {cs : List Nat} {s : State} {st : Stage} (h : Holds id l cs s)
    (hst : l.stages[stage]? = some st) (gang c : Nat) : Holds id l (cs ++ [c]) (s.bindCtx id l stage gang c) := by
  obtain ⟨-, hbinds, hother, hlaunch⟩ := bindCtx_spec hst s id gang c
  obtain ⟨y, hy, hclusters, hstages, hran⟩ := h.launch
  rw [hy, Option.getD_some] at hlaunch
  refine ⟨⟨_, hlaunch, hclusters, hstages, fun d hd => ?_⟩, fun d hd => ?_⟩
  · dsimp only
    rcases List.mem_append.1 hd with hd | hd
    · split
      · exact hran d hd
      · exact List.mem_append_left _ (hran d hd)
    · obtain rfl := List.mem_singleton.1 hd
      split
      next hc => exact List.contains_iff_mem.1 hc
      next => exact List.mem_append_right _ (List.mem_singleton_self _)
  · by_cases hdc : d = c
    · rw [hdc]
      exact hbinds
    · rw [hother d hdc]
      exact h.binds d ((List.mem_append.1 hd).resolve_right (by simpa using hdc))

theorem Holds.bindCtxs {id stage : Nat} {l : Launch} {st : Stage} (hst : l.stages[stage]? = some st) (gang : Nat) (ctxs : List Nat)
    {cs : List Nat} {s : State} (h : Holds id l cs s) :
    Holds id l (cs ++ ctxs) (ctxs.foldl (fun s c => s.bindCtx id l stage gang c) s) := by
  induction ctxs generalizing cs s with
  | nil => rwa [List.append_nil]
  | cons c ctxs ih =>
    rw [← List.singleton_append, ← List.append_assoc]
    exact ih (h.bindCtx hst gang c)

theorem setParts_aside (s : State) (cl n : Nat) (bids : List Nat) : Aside s (bids.foldl (fun s b => s.setParts cl n b) s) :=
  .foldl (fun _ _ => .setCluster _ _ _) bids s

theorem Holds.bindGang {id stage : Nat} {l : Launch} {cs : List Nat} {s : State} {st : Stage} (h : Holds id l cs s)
    (hst : l.stages[stage]? = some st) (cl : Nat) (ctxs : List Nat) : Holds id l (cs ++ ctxs) (s.bindGang id l stage cl ctxs) := by
  unfold State.bindGang
  rw [hst]
  exact (h.bindCtxs hst _ ctxs).aside (setParts_aside ..)

theorem bindGang_queues (id : Nat) (l : Launch) (stage : Nat) (s : State) (cl : Nat) (ctxs : List Nat) :
    SameQueues s (s.bindGang id l stage cl ctxs) := by
  unfold State.bindGang
  split
  · exact .refl
  next st hst =>
    exact (SameQueues.foldl (fun u c => (bindCtx_spec hst u id s.dev.nextInst c).1) ctxs s).trans (setParts_aside ..).queues

/-- Contexts that the gangs of stages take. -/
def gangSizes (sts : List (Stage × Nat)) : Nat := (sts.map fun p => p.1.gang + 1).sum

/-- The gangs of stages bound, each at its places. -/
theorem bindStages_spec {id : Nat} {l : Launch} {cl : Nat} {sts : List (Stage × Nat)} (hsts : ∀ p ∈ sts, l.stages[p.2]? = some p.1)
    (places : List (Nat × Nat)) {cs : List Nat} {s : State} (h : Holds id l cs s) :
    Holds id l (cs ++ (places.take (gangSizes sts)).map (·.1)) (bindStages id l cl sts places s)
      ∧ SameQueues s (bindStages id l cl sts places s) := by
  induction sts generalizing places cs s with
  | nil =>
    exact ⟨by simpa [gangSizes, bindStages] using h, .refl⟩
  | cons p sts ih =>
    obtain ⟨st, i⟩ := p
    have hgang := h.bindGang (hsts _ (List.mem_cons_self ..)) cl ((places.take (st.gang + 1)).map (·.1))
    obtain ⟨hholds, hqueues⟩ := ih (fun p hp => hsts p (List.mem_cons_of_mem _ hp)) (places.drop (st.gang + 1)) hgang
    refine ⟨?_, (bindGang_queues ..).trans hqueues⟩
    have hsplit : places.take (gangSizes ((st, i) :: sts))
        = places.take (st.gang + 1) ++ (places.drop (st.gang + 1)).take (gangSizes sts) := by
      rw [← List.take_add]
      rfl
    rw [hsplit, List.map_append, ← List.append_assoc]
    exact hholds

/-! ### Places -/

theorem placeAll_length {free : Nat → Bool} {bound : Nat → List (Nat × Bool × Nat)} {cl id : Nat} {compat : Bool} {tgs : List Nat}
    {taken places : List (Nat × Nat)} (h : placeAll free bound cl compat id tgs taken = some places) :
    places.length = taken.length + tgs.length := by
  induction tgs generalizing taken with
  | nil =>
    cases h
    rfl
  | cons tg tgs ih =>
    unfold placeAll at h
    split at h
    · cases h
    · rw [ih h, List.length_append, List.length_singleton, List.length_cons]
      omega

theorem gangSizes_zipIdx (sts : List Stage) (n : Nat) : gangSizes (sts.zipIdx n) = (sts.flatMap Stage.grants).length := by
  induction sts generalizing n with
  | nil => rfl
  | cons st sts ih =>
    rw [List.zipIdx_cons, List.flatMap_cons, List.length_append, ← ih (n + 1), Stage.grants, List.length_replicate]
    rfl

theorem admits_length {s : State} {id cl : Nat} {l : Launch} {places : List (Nat × Nat)} (h : s.admits id l cl = some places) :
    places.length = gangSizes l.stages.zipIdx := by
  unfold State.admits at h
  extract_lets y clash setting at h
  split at h
  · rw [placeAll_length h, gangSizes_zipIdx]
    exact Nat.zero_add _
  · cases h

/-! ### A cluster takes up a launch -/

theorem setFused_aside (s : State) (cl : Nat) (fused : Bool) : Aside s (s.setFused cl fused) := by
  unfold State.setFused
  exact (Aside.setCluster ..).trans (.foldl (fun s k => (Aside.dropLines s k).trans (.setCore ..)) _ _)

/-- A launch that a cluster takes up, with the queue that the cluster took last at its priority (R322). -/
def State.note (s : State) (id cl : Nat) (l : Launch) : State :=
  let t := s.setLaunch id l
  { t with dev := { t.dev with lastAt := tabPut t.dev.lastAt (16 * cl + l.prio) (l.queue + 1) } }

theorem note_queues (s : State) (id cl : Nat) (l : Launch) : SameQueues s (s.note id cl l) := ⟨rfl, rfl⟩

theorem note_launch (s : State) (id cl : Nat) (l : Launch) : (s.note id cl l).launch id = some l := State.launch_setLaunch s id l

/-- A cluster with the L1 that a launch asks for. -/
def State.fuseAs (s : State) (cl : Nat) (l : Launch) : State := if (s.cluster cl).fused = l.fuse then s else s.setFused cl l.fuse

theorem fuseAs_aside (s : State) (cl : Nat) (l : Launch) : Aside s (s.fuseAs cl l) := .ite .refl (setFused_aside ..)

theorem enter_eq {s : State} {id cl : Nat} {l : Launch} (hl : s.launch id = some l) (places : List (Nat × Nat)) :
    s.enter id cl places = bindStages id { l with clusters := l.clusters ++ [cl] } cl l.stages.zipIdx places
      ((s.note id cl { l with clusters := l.clusters ++ [cl] }).fuseAs cl { l with clusters := l.clusters ++ [cl] }) := by
  unfold State.enter
  rw [hl]
  rfl

/-- What a cluster that takes up a launch leaves: the launch with the cluster, its places bound, and the queues as they were. -/
theorem enter_spec {s : State} {id cl : Nat} {l : Launch} {places : List (Nat × Nat)} (hl : s.launch id = some l)
    (hlen : places.length = gangSizes l.stages.zipIdx) :
    Holds id { l with clusters := l.clusters ++ [cl] } (places.map (·.1)) (s.enter id cl places) ∧ SameQueues s (s.enter id cl places) := by
  have hfuse := fuseAs_aside (s.note id cl { l with clusters := l.clusters ++ [cl] }) cl { l with clusters := l.clusters ++ [cl] }
  have hnote := note_launch s id cl { l with clusters := l.clusters ++ [cl] }
  have hholds : Holds id { l with clusters := l.clusters ++ [cl] } [] (s.note id cl { l with clusters := l.clusters ++ [cl] }) :=
    ⟨⟨_, hnote, rfl, rfl, by simp⟩, by simp⟩
  obtain ⟨hbound, hsame⟩ := bindStages_spec (cl := cl) (fun p hp => List.mem_zipIdx_iff_getElem?.1 hp) places (hholds.aside hfuse)
  rw [enter_eq hl]
  rw [List.nil_append, List.take_of_length_le hlen.le] at hbound
  exact ⟨hbound, ((note_queues ..).trans hfuse.queues).trans hsame⟩

end Sys2Proof.Machine
end

section
/-! PROOFS. The admission of launches, their retirement and the watchdog (R306 to R312, R320 to R324). -/

namespace Sys2Proof.Machine

/-! ### Admission -/

/-- The state in which a launch enters its cluster: where the L1 changes, the stores of the cluster have performed (R240). -/
def State.entry (d : State) (l : Launch) (cl : Nat) : State := if (d.cluster cl).fused = l.fuse then d else d.cleanCluster cl

theorem entry_desk (d : State) (l : Launch) (cl : Nat) : Desk d (d.entry l cl) := .ite .refl (.foldl Desk.performAll _ _)

/-- The L1 of a cluster is as a launch asks, or no store of the cluster waits any more. -/
def State.entryClean (d : State) (l : Launch) (cl : Nat) : Prop := (d.cluster cl).fused = l.fuse ∨ (d.entry l cl).clusterClean cl = true

theorem enterClean_clean {d : State} {l : Launch} {cl : Nat} (h : d.entryClean l cl) (f : State → State) :
    d.enterClean l cl f = f (d.entry l cl) := by
  unfold State.enterClean
  unfold State.entryClean State.entry at h
  unfold State.entry
  split
  · rfl
  next hfuse =>
    rw [if_neg hfuse] at h
    exact if_pos (h.resolve_left hfuse)

theorem enterClean_dirty {d : State} {l : Launch} {cl : Nat} (h : ¬d.entryClean l cl) (f : State → State) : d.enterClean l cl f = d := by
  unfold State.enterClean
  unfold State.entryClean State.entry at h
  obtain ⟨hfuse, hclean⟩ := not_or.1 h
  rw [if_neg hfuse] at hclean ⊢
  exact if_neg hclean

theorem ready_of {x : HwQueue} (hstate : x.state = 1) (hlaunch : x.launch = none) (hwork : x.children ≠ [] ∨ x.pending ≠ 0) :
    x.ready = true := by
  have hidle : x.idle = 1 := if_pos hwork
  simp [HwQueue.ready, hstate, hlaunch, hidle]

/-- The state that LAUNCH_ADMIT reads: every pending reduction has drained (R117). -/
def State.flushed (s : State) : State := s.drainRed fun _ => true

section
variable {s : State} {q cl : Nat} {x : HwQueue}

theorem admit_error {e : Nat} (hx : s.flushed.hw q = some x) (hready : x.ready = true) (hload : s.flushed.loadNext q x = .error e) :
    exec (.launchAdmit q cl) s = .next (((s.flushed.afterLoad q x).setHw q { x with state := 4, err := e }).closed s) := by
  unfold State.flushed at hx hload
  show execLaunchAdmit q cl s = _
  unfold execLaunchAdmit
  dsimp only
  rw [hx]
  dsimp only
  rw [if_pos hready, hload]
  rfl

theorem admit_declined {l : Launch} (hw : s.wlog = []) (hx : s.flushed.hw q = some x) (hready : x.ready = true)
    (hload : s.flushed.loadNext q x = .ok l)
    (hno : s.flushed.choice cl ≠ some q ∨ s.flushed.admits s.flushed.dev.nextLaunch l cl = none) :
    exec (.launchAdmit q cl) s = .next s := by
  unfold State.flushed at hx hload hno
  show execLaunchAdmit q cl s = _
  unfold execLaunchAdmit
  dsimp only
  rw [hx]
  dsimp only
  rw [if_pos hready, hload]
  dsimp only
  split
  · exact done_eq hw rfl
  next hchoice =>
    rw [hno.resolve_left hchoice]
    exact done_eq hw rfl

theorem admit_taken {l : Launch} {places : List (Nat × Nat)} (hx : s.flushed.hw q = some x) (hready : x.ready = true)
    (hload : s.flushed.loadNext q x = .ok l) (hchoice : s.flushed.choice cl = some q)
    (hplaces : s.flushed.admits s.flushed.dev.nextLaunch l cl = some places) :
    exec (.launchAdmit q cl) s = .next ((s.flushed.enterClean l cl fun t =>
      ((t.afterLoad q x).startLaunchOf q x l).enter t.dev.nextLaunch cl places).closed s) := by
  unfold State.flushed at hx hload hchoice hplaces
  show execLaunchAdmit q cl s = _
  unfold execLaunchAdmit
  dsimp only
  rw [hx]
  dsimp only
  rw [if_pos hready, hload]
  dsimp only
  rw [if_neg (not_not.2 hchoice), hplaces]
  rfl

theorem admit_further {id : Nat} {l : Launch} {places : List (Nat × Nat)} (hx : s.flushed.hw q = some x) (hstate : x.state = 2)
    (hid : x.launch = some id) (hlaunch : s.flushed.launch id = some l) (hmore : l.more = true) (hcl : cl ∉ l.clusters)
    (hchoice : s.flushed.choice cl = some q) (hplaces : s.flushed.admits id l cl = some places) :
    exec (.launchAdmit q cl) s = .next ((s.flushed.enterClean l cl fun t => t.enter id cl places).closed s) := by
  unfold State.flushed at hx hlaunch hchoice hplaces
  have hready : ¬x.ready = true := by simp [HwQueue.ready, hstate]
  have hno : ¬(x.state ≠ 2 ∨ (s.drainRed fun _ => true).choice cl ≠ some q ∨ (!l.more) = true ∨ l.clusters.contains cl = true) := by
    simp [hstate, hchoice, hmore, hcl]
  show execLaunchAdmit q cl s = _
  unfold execLaunchAdmit
  dsimp only
  rw [hx]
  dsimp only
  rw [if_neg hready, hid]
  dsimp only
  rw [hlaunch]
  dsimp only
  rw [if_neg hno, hplaces]
  rfl

end

/-- A queue with its next launch in flight. -/
def HwQueue.started (x : HwQueue) (id clock : Nat) : HwQueue :=
  { x with state := 2, launch := some id, wdFrom := clock, wdOnce := false, children := x.children.drop 1
           head := if x.children = [] then (x.head + 1) % 2 ^ 32 else x.head }

theorem startLaunchOf_hw (s : State) (q : Nat) (x : HwQueue) (l : Launch) :
    (s.startLaunchOf q x l).hw q = some (x.started s.dev.nextLaunch s.dev.clock) := by
  unfold State.startLaunchOf
  refine (State.hw_setHw ..).trans (congrArg some ?_)
  by_cases hchildren : x.children = []
  · simp [HwQueue.started, hchildren]
  · simp [HwQueue.started, hchildren]

theorem startLaunchOf_launch (s : State) (q : Nat) (x : HwQueue) (l : Launch) :
    (s.startLaunchOf q x l).launch s.dev.nextLaunch = some l := by
  unfold State.startLaunchOf
  exact State.launch_setLaunch ..

theorem startLaunchOf_next (s : State) (q : Nat) (x : HwQueue) (l : Launch) :
    (s.startLaunchOf q x l).dev.nextLaunch = s.dev.nextLaunch + 1 := by
  unfold State.startLaunchOf
  rfl

/-- What a cluster leaves that takes the next launch of a queue. -/
theorem start_spec {u : State} {q cl : Nat} {x : HwQueue} {l : Launch} {places : List (Nat × Nat)}
    (hlen : places.length = gangSizes l.stages.zipIdx) :
    let t := ((u.afterLoad q x).startLaunchOf q x l).enter u.dev.nextLaunch cl places
    Holds u.dev.nextLaunch { l with clusters := l.clusters ++ [cl] } (places.map (·.1)) t ∧ t.dev.nextLaunch = u.dev.nextLaunch + 1
      ∧ t.hw q = some (x.started u.dev.nextLaunch u.dev.clock) := by
  intro t
  have hload := Aside.afterLoad u q x
  have hlaunch := startLaunchOf_launch (u.afterLoad q x) q x l
  have hnext := startLaunchOf_next (u.afterLoad q x) q x l
  have hhw := startLaunchOf_hw (u.afterLoad q x) q x l
  rw [hload.next] at hlaunch hnext hhw
  rw [hload.clock] at hhw
  obtain ⟨hholds, hqueues⟩ := enter_spec (cl := cl) hlaunch hlen
  exact ⟨hholds, hqueues.next.trans hnext, (hqueues.hw q).trans hhw⟩

/-- A launch that is held, as the statement says it. -/
theorem Holds.bound {id cl : Nat} {l : Launch} {places : List (Nat × Nat)} {t : State}
    (h : Holds id { l with clusters := l.clusters ++ [cl] } (places.map (·.1)) t) :
    (∃ y, t.launch id = some y ∧ y.clusters = l.clusters ++ [cl] ∧ y.stages = l.stages ∧ ∀ p ∈ places, p.1 ∈ y.ran)
      ∧ ∀ p ∈ places, l.Binds id (t.ctx p.1) := by
  have hmem {p : Nat × Nat} (hp : p ∈ places) : p.1 ∈ places.map (·.1) := List.mem_map_of_mem hp
  obtain ⟨y, hy, hclusters, hstages, hran⟩ := h.launch
  exact ⟨⟨y, hy, hclusters, hstages, fun p hp => hran _ (hmem hp)⟩, fun p hp => h.binds _ (hmem hp)⟩

theorem Holds.closed {id : Nat} {l : Launch} {cs : List Nat} {t : State} (h : Holds id l cs t) (s : State) : Holds id l cs (t.closed s) :=
  ⟨h.launch, h.binds⟩

section
variable {s : State} {q cl : Nat} {x : HwQueue} {l : Launch} {places : List (Nat × Nat)}

theorem admit_held (hx : s.flushed.hw q = some x) (hready : x.ready = true) (hload : s.flushed.loadNext q x = .ok l)
    (hchoice : s.flushed.choice cl = some q) (hplaces : s.flushed.admits s.flushed.dev.nextLaunch l cl = some places)
    (hdirty : ¬s.flushed.entryClean l cl) : exec (.launchAdmit q cl) s = .next (s.flushed.closed s) := by
  rw [admit_taken hx hready hload hchoice hplaces, enterClean_dirty hdirty]

theorem admit_starts (hx : s.flushed.hw q = some x) (hready : x.ready = true) (hload : s.flushed.loadNext q x = .ok l)
    (hchoice : s.flushed.choice cl = some q) (hplaces : s.flushed.admits s.flushed.dev.nextLaunch l cl = some places)
    (hclean : s.flushed.entryClean l cl) : ∃ t, exec (.launchAdmit q cl) s = .next t ∧ t.dev.nextLaunch = s.flushed.dev.nextLaunch + 1
      ∧ t.hw q = some (x.started s.flushed.dev.nextLaunch s.dev.clock)
      ∧ Holds s.flushed.dev.nextLaunch { l with clusters := l.clusters ++ [cl] } (places.map (·.1)) t := by
  have hentry := entry_desk s.flushed l cl
  have hclock : (s.flushed.entry l cl).dev.clock = s.dev.clock := hentry.clock.trans (Aside.drainRed ..).clock
  obtain ⟨hholds, hnext, hhw⟩ := start_spec (u := s.flushed.entry l cl) (q := q) (x := x) (cl := cl) (admits_length hplaces)
  rw [admit_taken hx hready hload hchoice hplaces, enterClean_clean hclean]
  rw [← hentry.next, ← hclock]
  exact ⟨_, rfl, hnext, hhw, hholds.closed s⟩

theorem admit_joins {id : Nat} (hx : s.flushed.hw q = some x) (hstate : x.state = 2) (hid : x.launch = some id)
    (hlaunch : s.flushed.launch id = some l) (hmore : l.more = true) (hcl : cl ∉ l.clusters) (hchoice : s.flushed.choice cl = some q)
    (hplaces : s.flushed.admits id l cl = some places) (hclean : s.flushed.entryClean l cl) :
    ∃ t, exec (.launchAdmit q cl) s = .next t ∧ t.hw q = s.flushed.hw q
      ∧ Holds id { l with clusters := l.clusters ++ [cl] } (places.map (·.1)) t := by
  have hentry := entry_desk s.flushed l cl
  obtain ⟨hholds, hqueues⟩ := enter_spec (cl := cl) ((hentry.launch id).trans hlaunch) (admits_length hplaces)
  rw [admit_further hx hstate hid hlaunch hmore hcl hchoice hplaces, enterClean_clean hclean]
  exact ⟨_, rfl, (hqueues.hw q).trans (hentry.hw q), hholds.closed s⟩

end

/-! ### Retirement -/

/-- Tail records in the order of their contexts and instances (R320). -/
def tailLe (a b : TailRec) : Prop := a.ctx < b.ctx ∨ (a.ctx = b.ctx ∧ a.inst ≤ b.inst)

theorem byTail_perm (t : TailRec) (ts : List TailRec) : (byTail t ts).Perm (t :: ts) := by
  induction ts with
  | nil => exact .refl _
  | cons u ts ih =>
    unfold byTail
    split
    · exact .refl _
    · exact (ih.cons u).trans (.swap t u ts)

theorem byTail_pairwise (t : TailRec) {ts : List TailRec} (h : ts.Pairwise tailLe) : (byTail t ts).Pairwise tailLe := by
  induction ts with
  | nil => exact List.pairwise_singleton _ _
  | cons u ts ih =>
    obtain ⟨hu, hts⟩ := List.pairwise_cons.1 h
    unfold byTail
    split
    next hlt =>
      refine List.pairwise_cons.2 ⟨fun v hv => ?_, h⟩
      rcases List.mem_cons.1 hv with rfl | hv
      · unfold tailLe
        omega
      · have huv := hu v hv
        unfold tailLe at huv ⊢
        omega
    next hge =>
      refine List.pairwise_cons.2 ⟨fun v hv => ?_, ih hts⟩
      rcases List.mem_cons.1 ((byTail_perm t ts).mem_iff.1 hv) with rfl | hv
      · unfold tailLe
        omega
      · exact hu v hv

theorem byTails_spec (ts : List TailRec) : (ts.foldr byTail []).Perm ts ∧ (ts.foldr byTail []).Pairwise tailLe := by
  induction ts with
  | nil => exact ⟨.refl _, .nil⟩
  | cons t ts ih =>
    obtain ⟨hperm, hsorted⟩ := ih
    exact ⟨(byTail_perm t _).trans (hperm.cons t), byTail_pairwise t hsorted⟩

theorem saveQueue_desk (s : State) (x : HwQueue) (node : Nat) : Desk s (s.saveQueue x node) := by
  unfold State.saveQueue
  split
  · exact Desk.writeVirtual ‹_›
  · exact .refl

theorem saveQueue_mem (s : State) (x : HwQueue) (node : Nat) : (s.saveQueue x node).mem = s.mem := by
  unfold State.saveQueue
  split
  · exact (Keeps.writeVirtual ‹_›).mem
  · rfl

/-- What a queue says of its last launch. -/
structure SameWork (x y : HwQueue) : Prop where
  launch : y.launch = x.launch
  prog : y.prog = x.prog
  lastTag : y.lastTag = x.lastTag
  children : y.children = x.children

/-- What the launch boundary makes of a queue: a write of DONE that was lost puts it in error state, a pre-emption saves it, and else it is
ready or empty (R321, R322). -/
structure AtBoundary (x y : HwQueue) (lost : Bool) : Prop where
  work : SameWork x y
  error : lost = true → y.state = 4 ∧ y.err = 8
  saved : lost = false → x.preq = true → y.state = 3 ∧ y.preq = false
  idle : lost = false → x.preq = false → y.state = if y.children = [] ∧ y.pending = 0 then 0 else 1

theorem idle_eq (x : HwQueue) : x.idle = if x.children = [] ∧ x.pending = 0 then 0 else 1 := by
  unfold HwQueue.idle
  by_cases hwork : x.children = [] ∧ x.pending = 0
  · rw [if_neg (by simpa using hwork), if_pos hwork]
  · rw [if_pos (by simpa [-not_and, not_and_or] using hwork), if_neg hwork]

theorem boundary_spec {s : State} {q : Nat} {x : HwQueue} (l : Launch) (lost : Bool) (hx : s.hw q = some x) (hstate : x.state ≠ 4) :
    ∃ (u : State) (y : HwQueue), s.boundary q l lost = u.setHw q y ∧ Desk s u ∧ u.mem = s.mem ∧ AtBoundary x y lost
      ∧ (y.state = 0 → u = s) := by
  have hidle := idle_eq x
  unfold State.boundary
  rw [hx]
  dsimp only
  rw [if_neg hstate]
  split
  next hlost =>
    exact ⟨s, _, rfl, .refl, rfl, ⟨⟨rfl, rfl, rfl, rfl⟩, fun _ => ⟨rfl, rfl⟩, by simp [hlost], by simp [hlost]⟩, fun _ => rfl⟩
  next hlost =>
  split
  next hpreq =>
    exact ⟨_, _, rfl, saveQueue_desk .., saveQueue_mem ..,
      ⟨⟨rfl, rfl, rfl, rfl⟩, by simp [hlost], fun _ _ => ⟨rfl, rfl⟩, by simp [hpreq]⟩, fun h => by cases h⟩
  next hpreq =>
  split
  next hrank =>
    exact ⟨_, _, rfl, saveQueue_desk .., saveQueue_mem .., ⟨⟨rfl, rfl, rfl, rfl⟩, by simp [hlost], by simp [hpreq], fun _ _ => hidle⟩,
      fun h => by
        have hone : x.idle = 1 := hrank.1
        have hzero : x.idle = 0 := h
        omega⟩
  next => exact ⟨s, _, rfl, .refl, rfl, ⟨⟨rfl, rfl, rfl, rfl⟩, by simp [hlost], by simp [hpreq], fun _ _ => hidle⟩, fun _ => rfl⟩

/-- The accesses of a launch have performed, and every reduction has drained. -/
def State.settled (s : State) (l : Launch) : State := (l.ran.foldl State.performAll s).drainRed fun _ => true

theorem settled_desk (s : State) (l : Launch) : Desk s (s.settled l) := (Desk.foldl Desk.performAll l.ran s).trans (Aside.drainRed ..).desk

theorem settled_keeps (s : State) (l : Launch) : Keeps s (s.settled l) :=
  (Keeps.foldl Keeps.performAll l.ran s).trans (Performs.drainRed ..).keeps

/-- The write of DONE at the retirement of a launch (R320). -/
def State.writeDone (u : State) (l : Launch) : Except AFault State :=
  if l.doneVa = 0 then .ok u else writeVirtual u (u.space l.node) 0 l.doneVa (leBytes 8 l.tag) false

theorem writeDone_desk {u v : State} {l : Launch} (h : u.writeDone l = .ok v) : Desk u v ∧ Keeps u v := by
  unfold State.writeDone at h
  split at h
  · cases h
    exact ⟨.refl, .refl⟩
  · exact ⟨.writeVirtual h, .writeVirtual h⟩

/-- A launch leaves, and its queue comes to its launch boundary. -/
def State.leaveLaunch (v : State) (id : Nat) (l : Launch) (lost : Bool) : State :=
  let s := v.progress l.queue
  let s := { s with dev := { s.dev with launches := tabErase s.dev.launches id } }
  match s.hw l.queue with
  | none => s
  | some x =>
    (s.setHw l.queue { x with launch := none, lastTag := l.tag, wdOnce := false, children := l.tails.foldr byTail [] ++ x.children }).boundary
      l.queue l lost

/-- A state without a launch. -/
def State.dropLaunch (s : State) (id : Nat) : State := { s with dev := { s.dev with launches := tabErase s.dev.launches id } }

theorem launch_dropLaunch (s : State) (id : Nat) : (s.dropLaunch id).launch id = none := by
  simp only [State.launch, State.dropLaunch, find?_tabErase, Option.map_none]

/-- The queue of a launch that has ended, before its launch boundary (R320, R324). -/
def HwQueue.ended (x : HwQueue) (clock : Nat) (l : Launch) : HwQueue :=
  { x with prog := (x.prog + 1) % 2 ^ 32, wdFrom := clock, launch := none, lastTag := l.tag, wdOnce := false
           children := l.tails.foldr byTail [] ++ x.children }

theorem leaveLaunch_eq {v : State} {l : Launch} {x : HwQueue} (id : Nat) (lost : Bool) (hx : v.hw l.queue = some x) :
    ∃ p, v.leaveLaunch id l lost = (((v.setHw l.queue p).dropLaunch id).setHw l.queue (x.ended v.dev.clock l)).boundary l.queue l lost := by
  have hprogress : v.progress l.queue = v.setHw l.queue { x with prog := (x.prog + 1) % 2 ^ 32, wdFrom := v.dev.clock } := by
    unfold State.progress
    rw [hx]
  refine ⟨{ x with prog := (x.prog + 1) % 2 ^ 32, wdFrom := v.dev.clock }, ?_⟩
  unfold State.leaveLaunch
  rw [hprogress]
  dsimp only
  rw [← State.dropLaunch]
  have hhw : ((v.setHw l.queue { x with prog := (x.prog + 1) % 2 ^ 32, wdFrom := v.dev.clock }).dropLaunch id).hw l.queue
      = some { x with prog := (x.prog + 1) % 2 ^ 32, wdFrom := v.dev.clock } := State.hw_setHw ..
  rw [hhw]
  rfl

theorem leaveLaunch_spec {v : State} {l : Launch} {x : HwQueue} (id : Nat) (lost : Bool) (hx : v.hw l.queue = some x) (hstate : x.state ≠ 4) :
    ∃ y, (v.leaveLaunch id l lost).hw l.queue = some y ∧ (v.leaveLaunch id l lost).launch id = none ∧ (v.leaveLaunch id l lost).mem = v.mem
      ∧ (y.state = 0 → ∀ k, (v.leaveLaunch id l lost).byte k = v.byte k) ∧ AtBoundary (x.ended v.dev.clock l) y lost := by
  obtain ⟨p, heq⟩ := leaveLaunch_eq id lost hx
  obtain ⟨u, y, hu, hdesk, hmem, hat, hsame⟩ := boundary_spec (s := ((v.setHw l.queue p).dropLaunch id).setHw l.queue (x.ended v.dev.clock l))
    l lost (State.hw_setHw ..) hstate
  rw [heq, hu]
  refine ⟨y, State.hw_setHw .., ?_, hmem, fun hzero k => ?_, hat⟩
  · rw [State.launch_setHw, hdesk.launch, State.launch_setHw, launch_dropLaunch]
  · rw [hsame hzero]
    rfl

section
variable {s : State} {id : Nat} {l : Launch}

/-- Every access of the launch's contexts but a mark has performed. -/
def State.portsDone (s : State) (l : Launch) : Prop := ∀ c ∈ l.ran, ((l.ran.foldl State.performAll s).ctx c).port.all isMark = true

theorem retire_none (hw : s.wlog = []) (h : s.launch id = none) : exec (.launchRetire id) s = .next s := by
  show execLaunchRetire id s = _
  unfold execLaunchRetire
  rw [h]
  exact done_eq hw rfl

theorem retire_early (hw : s.wlog = []) (hl : s.launch id = some l) (hmay : s.mayRetire id l = false) :
    exec (.launchRetire id) s = .next s := by
  show execLaunchRetire id s = _
  unfold execLaunchRetire
  rw [hl]
  dsimp only
  rw [if_pos (by simp [hmay])]
  exact done_eq hw rfl

theorem retire_waits (hw : s.wlog = []) (hl : s.launch id = some l) (hmay : s.mayRetire id l = true)
    (hport : ∃ c ∈ l.ran, ((l.ran.foldl State.performAll s).ctx c).port.all isMark = false) : exec (.launchRetire id) s = .next s := by
  have hany : (l.ran.any fun c => !((l.ran.foldl State.performAll s).ctx c).port.all isMark) = true := by
    simpa only [List.any_eq_true, Bool.not_eq_true'] using hport
  show execLaunchRetire id s = _
  unfold execLaunchRetire
  rw [hl]
  dsimp only
  rw [if_neg (by simp [hmay]), if_pos hany]
  exact done_eq hw rfl

theorem retire_eq (hl : s.launch id = some l) (hmay : s.mayRetire id l = true) (hports : s.portsDone l) :
    (∀ v, (s.settled l).writeDone l = .ok v → exec (.launchRetire id) s = .next ((v.leaveLaunch id l false).closed s))
      ∧ ∀ e, (s.settled l).writeDone l = .error e → exec (.launchRetire id) s = .next (((s.settled l).leaveLaunch id l true).closed s) := by
  have hany : ¬(l.ran.any fun c => !((l.ran.foldl State.performAll s).ctx c).port.all isMark) = true := by
    unfold State.portsDone at hports
    simpa only [List.any_eq_true, not_exists, not_and, Bool.not_eq_true', Bool.not_eq_false] using hports
  have hexec : exec (.launchRetire id) s = execLaunchRetire id s := rfl
  rw [hexec]
  unfold execLaunchRetire
  rw [hl]
  dsimp only
  rw [if_neg (by simp [hmay]), if_neg hany, ← State.settled, ← State.writeDone]
  refine ⟨fun v hv => ?_, fun e he => ?_⟩
  · rw [hv]
    rfl
  · rw [he]
    rfl

end

/-! ### The watchdog -/

/-- The queues that stand, whatever they hold. -/
def State.queueIds (s : State) : List Nat := s.dev.hwq.map (·.1)

theorem hw_isSome (s : State) (q : Nat) : (s.hw q).isSome = true ↔ q ∈ s.queueIds := by
  simp [State.hw, State.queueIds, List.find?_isSome]

theorem queueState_queueIds (s : State) (q st : Nat) : (s.queueState q st).queueIds = s.queueIds := by
  simp only [State.queueIds, State.queueState, List.map_map]
  refine List.map_congr_left fun p _ => ?_
  dsimp only [Function.comp_apply]
  split <;> rfl

theorem queueState_hw (s : State) (q st : Nat) : (s.queueState q st).hw q = (s.hw q).map fun x => { x with state := st } := by
  have hkey : ((fun p : Nat × HwQueue => p.1 == q) ∘ fun p => if p.1 = q then (p.1, { p.2 with state := st }) else p) = fun p => p.1 == q := by
    funext p
    dsimp only [Function.comp_apply]
    split <;> rfl
  simp only [State.hw, State.queueState, List.find?_map, Option.map_map, hkey]
  refine Option.map_congr fun p hp => ?_
  have hq : p.1 = q := by simpa using List.find?_some hp
  simp [hq]

theorem returnWork_hwq (s : State) (c : Nat) : (s.returnWork c).dev.hwq = s.dev.hwq := by
  unfold State.returnWork
  dsimp only
  split <;> rfl

theorem returnWork_mode (s : State) (c d : Nat) : ((s.returnWork c).ctx d).mode = (s.ctx d).mode := by
  unfold State.returnWork
  dsimp only
  split
  · rfl
  · exact (Desk.setCtx s c { s.ctx c with chosen := none } rfl).mode d

theorem freeze_hwq (s : State) (node : Nat) : (s.freeze node).dev.hwq = s.dev.hwq := by
  unfold State.freeze
  exact (Aside.foldl (fun _ _ => .setCore ..) _ s).hwq

theorem killQueue_queueIds (s : State) (c : Nat) : (s.killQueue c).queueIds = s.queueIds := by
  unfold State.killQueue
  split
  · exact queueState_queueIds ..
  · rfl

theorem kill_queueIds (s : State) (c : Nat) : (s.kill c).queueIds = s.queueIds := by
  unfold State.kill
  rw [killQueue_queueIds, State.queueIds, freeze_hwq]
  rfl

theorem kill_mode_ne (s : State) {c d : Nat} (h : d ≠ c) : ((s.kill c).ctx d).mode = (s.ctx d).mode := by
  unfold State.kill
  rw [killQueue_ctx, freeze_ctx]
  exact congrArg Ctx.mode (State.ctx_setCtx_ne _ _ _ h)

/-- A fatal fault kills its context and no other. -/
theorem takeFatal_mode_ne (s : State) {c d : Nat} (p : Split) (h : d ≠ c) : ((s.takeFatal c p).ctx d).mode = (s.ctx d).mode := by
  unfold State.takeFatal
  rw [kill_mode_ne _ h, (Desk.writeTrap ..).mode, freeze_ctx, returnWork_mode]

theorem takeFatal_queueIds (s : State) (c : Nat) (p : Split) : (s.takeFatal c p).queueIds = s.queueIds := by
  unfold State.takeFatal
  rw [kill_queueIds, State.queueIds, (Desk.writeTrap ..).hwq, freeze_hwq, returnWork_hwq, State.queueIds]

theorem takeFatals_mode (f : State → Nat × Ctx → Split) (l : List (Nat × Ctx)) (s : State) {c : Nat}
    (h : (s.ctx c).mode = .killed ∨ c ∈ l.map (·.1)) : ((l.foldl (fun s p => s.takeFatal p.1 (f s p)) s).ctx c).mode = .killed := by
  induction l generalizing s with
  | nil => exact h.resolve_right (by simp)
  | cons p l ih =>
    rw [List.foldl_cons]
    refine ih _ ?_
    by_cases hc : c = p.1
    · rw [hc]
      exact .inl (takeFatal_mode ..)
    · rw [takeFatal_mode_ne _ _ hc]
      exact h.imp_right fun hmem => (List.mem_cons.1 hmem).resolve_left hc

theorem takeFatals_queueIds (f : State → Nat × Ctx → Split) (l : List (Nat × Ctx)) (s : State) :
    (l.foldl (fun s p => s.takeFatal p.1 (f s p)) s).queueIds = s.queueIds := by
  induction l generalizing s with
  | nil => rfl
  | cons p l ih => rw [List.foldl_cons, ih, takeFatal_queueIds]

/-- A context that is bound stands in the table. -/
theorem mem_of_tabGet {α : Type} {d : α} {t : Tab α} {n : Nat} (h : tabGet d t n ≠ d) : (n, tabGet d t n) ∈ t := by
  induction t with
  | nil => exact absurd rfl h
  | cons p t ih =>
    obtain ⟨k, v⟩ := p
    unfold tabGet at h ⊢
    split
    next hk => exact hk ▸ List.mem_cons_self ..
    next hk =>
      rw [if_neg hk] at h
      exact List.mem_cons_of_mem _ (ih h)

/-- Contexts of a launch that a kill reaches, with their numbers. -/
theorem killable_mem {s : State} {c id : Nat} (hid : (s.ctx c).launch = id) (hkill : (s.ctx c).killable = true) :
    c ∈ (s.ctxs.filter fun p => p.2.launch == id && p.2.killable).map (·.1) := by
  have hbound : s.ctx c ≠ Ctx.init := fun h => by
    rw [h] at hkill
    cases hkill
  exact List.mem_map.2 ⟨(c, s.ctx c), List.mem_filter.2 ⟨mem_of_tabGet hbound, by simp [hid, hkill]⟩, rfl⟩

theorem killLaunch_mode {s : State} {id c : Nat} (code : Nat) (hid : (s.ctx c).launch = id) (hkill : (s.ctx c).killable = true) :
    ((s.killLaunch id code).ctx c).mode = .killed :=
  takeFatals_mode (fun s p => s.splitAt p.1 code 0 0 0) _ s (.inr (killable_mem hid hkill))

theorem killLaunch_queueIds (s : State) (id code : Nat) : (s.killLaunch id code).queueIds = s.queueIds :=
  takeFatals_queueIds (fun s p => s.splitAt p.1 code 0 0 0) _ s

section
variable {s : State} {q id : Nat} {x : HwQueue} {l : Launch}

theorem watchdog_eq (hx : s.hw q = some x) (hid : x.launch = some id) (hl : s.launch id = some l) : exec (.watchdogExpiry q) s =
    done s (if x.state ≠ 2 ∨ l.wdlim = 0 ∨ s.dev.clock - x.wdFrom < l.wdlim * 65536 then s
      else if x.wdOnce then (s.killLaunch id causeWdKill).queueState q 5
      else s.setHw q { x with preq := true, wdOnce := true, wdFrom := s.dev.clock }) := by
  show execWatchdogExpiry q s = _
  unfold execWatchdogExpiry
  rw [hx]
  dsimp only
  rw [hid, Option.bind_some, hl]
  rfl

/-- The second expiry of a watchdog kills its queue (R324). -/
theorem killed_state (hx : s.hw q = some x) (code : Nat) :
    (((s.killLaunch id code).queueState q 5).hw q).map (·.state) = some 5 := by
  have hsome : ((s.killLaunch id code).hw q).isSome = true := by
    rw [hw_isSome, killLaunch_queueIds, ← hw_isSome, hx]
    rfl
  obtain ⟨y, hy⟩ := Option.isSome_iff_exists.1 hsome
  rw [queueState_hw, hy]
  rfl

end

/-! ### The obligation -/

/-- Settles O56: admission by `start_spec` and `enter_spec`, retirement by `leaveLaunch_spec`, the watchdog by the two lemmas of a kill. -/
theorem launchesAreAdmittedAndRetired : Obligations.LaunchesAreAdmittedAndRetired := by
  intro s q cl id hw d bound ready clean
  refine ⟨fun x hx hstate hlaunch hwork => ?ready, fun x l places hx hstate hlaunch hl hmore hcl hchoice hplaces hclean => ?further,
    retire_none hw, fun l => retire_early hw, fun l => retire_waits hw, fun l x hl hmay hx hstate hports => ?retire,
    fun x l hx hid hl => ?watchdog⟩
  case ready =>
    have hready := ready_of hstate hlaunch hwork
    refine ⟨fun e he => admit_error hx hready he, fun l hload hno => admit_declined hw hx hready hload hno,
      fun l places hload hchoice hplaces hdirty => admit_held hx hready hload hchoice hplaces hdirty,
      fun l places hload hchoice hplaces hclean => ?_⟩
    obtain ⟨t, hexec, hnext, hhw, hholds⟩ := admit_starts hx hready hload hchoice hplaces hclean
    exact ⟨t, hexec, hnext, hhw, hholds.bound⟩
  case further =>
    obtain ⟨t, hexec, hhw, hholds⟩ := admit_joins hx hstate hlaunch hl hmore hcl hchoice hplaces hclean
    exact ⟨t, hexec, hhw, hholds.bound⟩
  case retire =>
    intro u w
    obtain ⟨hkept, hlost⟩ := retire_eq hl hmay hports
    obtain ⟨hperm, hsorted⟩ := byTails_spec l.tails
    have hsettled : (s.settled l).hw l.queue = some x := ((settled_desk s l).hw l.queue).trans hx
    cases hdone : w with
    | error e =>
      obtain ⟨y, hy, hnone, -, -, hat⟩ := leaveLaunch_spec id true hsettled hstate
      exact ⟨_, y, _, hlost e hdone, hnone, hy, hat.work.launch, hat.work.prog, hat.work.lastTag, hat.work.children, hperm, hsorted,
        fun _ _ => hat.error rfl, fun v hv => (by cases hv)⟩
    | ok v =>
      obtain ⟨hdesk, hkeeps⟩ := writeDone_desk hdone
      obtain ⟨y, hy, hnone, hmem, hbyte, hat⟩ := leaveLaunch_spec id false ((hdesk.hw l.queue).trans hsettled) hstate
      have hbase : (v.leaveLaunch id l false).mem = s.mem := hmem.trans ((settled_keeps s l).trans hkeeps).mem
      refine ⟨_, y, _, hkept v hdone, hnone, hy, hat.work.launch, hat.work.prog, hat.work.lastTag, hat.work.children, hperm, hsorted,
        fun e he => (by cases he), fun v' hv => ?_⟩
      cases hv
      exact ⟨hat.saved rfl, hat.idle rfl, fun hzero k => (State.closed_byte hbase k).trans (hbyte hzero k)⟩
  case watchdog =>
    rw [watchdog_eq hx hid hl]
    refine ⟨fun hearly => ?_, fun hrun hlimit hlate => ⟨fun honce => ?_, fun honce => ?_⟩⟩
    · rw [if_pos hearly]
      exact done_eq hw rfl
    · rw [if_neg (by omega), if_neg (by simp [honce])]
      exact done_eq hw rfl
    · rw [if_neg (by omega), if_pos honce]
      exact ⟨_, rfl, killed_state hx _, fun c hc hkill => killLaunch_mode _ hc hkill⟩

end Sys2Proof.Machine
end

section
/-! PROOFS. What the decoder reads is the word it was given (R63, R64, R82, R83). -/

namespace Sys2Proof

/-- What an opcode names stands in the slot of that opcode. -/
theorem candidate_slot {k : SlotKind} {w : Nat} {i : Instr} (h : candidate k w = some i) : slotOf i = some k := by
  cases k
  all_goals
    dsimp only [candidate] at h
    delta candidateSync candidateCtrl candidateSca candidateMem candidateVec candidateXfm candidateScl candidateMtx candidateEng
      candidateMicro at h
    split at h <;> cases h <;> rfl

/-- A word decodes to an instruction exactly when its opcode names it, it re-encodes to the word, and it is admitted. -/
theorem decodeSlot_ok_iff {k : SlotKind} {w : Nat} {i : Instr} :
    decodeSlot k w = .ok i ↔ candidate k w = some i ∧ encode i = w ∧ admits i = true := by
  unfold decodeSlot
  cases candidate k w with
  | none => simp
  | some j =>
    dsimp only
    split
    · rename_i hne
      simp only [Option.some.injEq, reduceCtorEq, false_iff]
      rintro ⟨rfl, henc, -⟩
      exact hne henc
    · rename_i henc
      have henc : encode j = w := by simpa using henc
      split
      · rename_i hadm
        simp only [Decoded.ok.injEq, Option.some.injEq]
        exact ⟨by rintro rfl; exact ⟨rfl, henc, hadm⟩, fun h => h.1⟩
      · rename_i hadm
        simp only [Option.some.injEq, reduceCtorEq, false_iff]
        rintro ⟨rfl, -, h⟩
        exact hadm h

/-- Settles O6: a word is accepted where the instruction named re-encodes to it and is admitted, and what an opcode names stands in the
slot of that opcode. -/
theorem decodedWordIsTheEncoding : Obligations.DecodedWordIsTheEncoding := by
  intro k w i h
  obtain ⟨hcand, henc, hadm⟩ := decodeSlot_ok_iff.1 h
  exact ⟨henc, candidate_slot hcand, hadm⟩

/-- Settles O7: each word is read, re-encoded and compared by evaluation. -/
theorem wordsOfTheSpecDecode : Obligations.WordsOfTheSpecDecode := by
  unfold Obligations.WordsOfTheSpecDecode
  decide

end Sys2Proof
end

section
/-! PROOFS. The no-ops (R63, R159) and a refresh of HBM (R255, log entry 58). -/

namespace Sys2Proof.Machine

/-- Settles O10: each of the instructions ends its meaning with the state it began with, whose log is empty. -/
theorem noOpsChangeNothing : Obligations.NoOpsChangeNothing := by
  intro s bank hlog i hi
  have hend : done s s = .next s := done_eq hlog rfl
  simp only [List.mem_cons, List.not_mem_nil, or_false] at hi
  obtain rfl | rfl | rfl | rfl | rfl | rfl | rfl | rfl | rfl | rfl := hi
  all_goals exact hend

end Sys2Proof.Machine
end

section
/-! PROOFS. Rows of the banks read and written in compatibility mode (R80, R168, log entry 29). -/

namespace Sys2Proof.Machine

/-! ### Words packed and runs of keys -/

/-- An element packed is read back. -/
theorem elemAt_packElems (w : Nat) (l : List Nat) (i : Nat) : elemAt (packElems w l) w i = l.getD i 0 % 2 ^ w := by
  induction l generalizing i with
  | nil => simp [packElems, elemAt]
  | cons c l ih =>
    have hc : c % 2 ^ w < 2 ^ w := Nat.mod_lt _ (Nat.two_pow_pos w)
    cases i with
    | zero => simp [packElems, elemAt]
    | succ i =>
      rw [List.getD_cons_succ, ← ih]
      unfold elemAt
      rw [packElems, Nat.mul_succ, Nat.pow_add, Nat.mul_comm (2 ^ (w * i)), ← Nat.div_div_eq_div_mul,
        Nat.add_mul_div_left _ _ (Nat.two_pow_pos w), Nat.div_eq_of_lt hc, Nat.zero_add]

/-- The list that puts values at consecutive keys from `lo + j` on, but for the default. -/
def listedFrom {α : Type} [DecidableEq α] (d : α) (lo j : Nat) (xs : List α) : Tab α :=
  (xs.zipIdx j).filterMap fun p => if p.1 = d then none else some (lo + p.2, p.1)

theorem listedFrom_cons {α : Type} [DecidableEq α] (d : α) (lo j : Nat) (x : α) (xs : List α) :
    listedFrom d lo j (x :: xs) = if x = d then listedFrom d lo (j + 1) xs else (lo + j, x) :: listedFrom d lo (j + 1) xs := by
  unfold listedFrom
  rw [List.zipIdx_cons, List.filterMap_cons]
  by_cases hx : x = d <;> simp [hx]

theorem tabGet_listedFrom_outside {α : Type} [DecidableEq α] {d e : α} {xs : List α} {lo j n : Nat}
    (h : n < lo + j ∨ lo + j + xs.length ≤ n) : tabGet e (listedFrom d lo j xs) n = e := by
  induction xs generalizing j with
  | nil => rfl
  | cons x xs ih =>
    rw [List.length_cons] at h
    have hrest := ih (j := j + 1) (by omega)
    rw [listedFrom_cons]
    split
    · exact hrest
    · rw [tabGet, if_neg (by omega), hrest]

theorem tabGet_listedFrom {α : Type} [DecidableEq α] {d : α} {xs : List α} {lo j n : Nat} (h : lo + j ≤ n) :
    tabGet d (listedFrom d lo j xs) n = xs.getD (n - (lo + j)) d := by
  induction xs generalizing j with
  | nil => rfl
  | cons x xs ih =>
    rw [listedFrom_cons]
    by_cases hn : n = lo + j
    · have hrest : tabGet d (listedFrom d lo (j + 1) xs) n = d := tabGet_listedFrom_outside (by omega)
      rw [hn] at hrest ⊢
      rw [Nat.sub_self, List.getD_cons_zero]
      by_cases hx : x = d
      · rw [if_pos hx, hrest, hx]
      · rw [if_neg hx, tabGet, if_pos rfl]
    · have hrest := ih (j := j + 1) (by omega)
      rw [show n - (lo + j) = n - (lo + (j + 1)) + 1 by omega, List.getD_cons_succ, ← hrest]
      split
      · rfl
      · rw [tabGet, if_neg (by omega)]

/-- The values of a run of keys are put, and every other key is left. -/
theorem tabGet_tabRange {α : Type} [DecidableEq α] (d : α) (t : Tab α) (lo : Nat) (xs : List α) (n : Nat) :
    tabGet d (tabRange d t lo xs) n = if lo ≤ n ∧ n < lo + xs.length then xs.getD (n - lo) d else tabGet d t n := by
  have hbelow : ∀ e, lo ≤ n → tabGet e (tabBelow t lo) n = e := fun e h =>
    tabGet_none fun p hp => by have := of_decide_eq_true (List.mem_filter.1 hp).2; omega
  have hfrom : n < lo + xs.length → tabGet d (tabFrom t (lo + xs.length)) n = d := fun h =>
    tabGet_none fun p hp => by have := of_decide_eq_true (List.mem_filter.1 hp).2; omega
  have hrange : tabRange d t lo xs = tabBelow t lo ++ listedFrom d lo 0 xs ++ tabFrom t (lo + xs.length) := rfl
  rw [hrange, tabGet_append, tabGet_append]
  by_cases hlo : lo ≤ n
  · rw [hbelow _ hlo]
    by_cases hhi : n < lo + xs.length
    · rw [if_pos ⟨hlo, hhi⟩, hfrom hhi, tabGet_listedFrom hlo]
      rfl
    · rw [if_neg (by omega), tabGet_listedFrom_outside (by omega), tabGet_from d t (by omega)]
  · rw [if_neg (by omega), hfrom (by omega), tabGet_listedFrom_outside (by omega), tabGet_below d t (by omega)]

/-! ### What stands beside a routine leaves the chunks of its MSTEP as they are -/

/-- A state whose core runs the same routine as that of another, but for words that programs wrote. -/
structure Beside (s t : State) : Prop where
  cyc : t.mine.cyc = s.mine.cyc
  routine : ∃ l, t.mine.routine = s.mine.routine.map fun r => { r with puts := r.puts ++ l }
  mps : t.mine.mps = s.mine.mps
  slotFor : ∀ c, (t.ctx c).slotFor = (s.ctx c).slotFor

theorem Core.microAt_eq {k j : Core} (h : j.mps = k.mps) (r : Routine) (puts : List BankPut) :
    j.microAt { r with puts := puts } = k.microAt r := by
  unfold Core.microAt
  rw [h]

theorem Beside.stepping {s t : State} (h : Beside s t) (b : Nat) : t.stepping b = s.stepping b := by
  obtain ⟨hcyc, ⟨l, hr⟩, hmps, hslot⟩ := h
  unfold State.stepping
  cases hs : s.mine.routine with
  | none =>
    rw [hs] at hr
    simp only [hs, hr, Option.map_none]
  | some r =>
    rw [hs] at hr
    simp only [hs, hr, Option.map_some, hcyc, hslot, Core.microAt_eq hmps]
    rfl

/-- The chunks of an MSTEP read nothing of their core but its scale latches. -/
theorem Core.chunks_bump (k : Core) (c : Nat) (r : Routine) (slot time : Nat) (int : Bool) (is : List Nat) (acm : Tab (BitVec 32)) (f : Flags6)
    (w : Bool) : (k.bump c).chunks r slot time int is acm f w = k.chunks r slot time int is acm f w := by
  induction is generalizing acm f w with
  | nil => rfl
  | cons i is ih =>
    unfold Core.chunks
    simp only [ih]
    rfl

/-! ### The words that a read gives -/

theorem extractLsb'_packElems (l : List Nat) {i : Nat} (hi : i < 32) :
    (BitVec.ofNat 1024 (packElems 32 l)).extractLsb' (32 * i) 32 = BitVec.ofNat 32 (l.getD i 0) := by
  have h : (BitVec.ofNat 1024 (packElems 32 l)).extractLsb' (32 * i) 32 = BitVec.ofNat 32 (elemAt (packElems 32 l) 32 i) := by
    apply BitVec.eq_of_getLsbD_eq
    intro j hj
    have hij : j + 32 * i < 1024 := by omega
    simp only [BitVec.getLsbD_extractLsb', BitVec.getLsbD_ofNat, elemAt, Nat.testBit_mod_two_pow, Nat.testBit_div_two_pow, hj, hij,
      decide_true, Bool.true_and, Nat.add_comm]
  rw [h, elemAt_packElems]
  apply BitVec.eq_of_toNat_eq
  simp

theorem bankWords_eq (s : State) (b : Nat) :
    s.bankWords b = (List.range 32).map fun i => tabGet 0 s.mine.acm (bankRow b (s.mine.pointer b) + i) := tabDense_eq ..

theorem bankWords_getElem? (s : State) (b : Nat) {i : Nat} (hi : i < 32) :
    (s.bankWords b)[i]? = some (tabGet 0 s.mine.acm (bankRow b (s.mine.pointer b) + i)) := by
  rw [bankWords_eq, List.getElem?_map, List.getElem?_range hi]
  rfl

theorem bankAfter_length (s : State) (b n : Nat) : (s.bankAfter b n).length = 32 := by
  have hwords : ∀ u : State, (u.bankWords b).length = 32 := fun u => by rw [bankWords_eq, List.length_map, List.length_range]
  unfold State.bankAfter
  split
  · split
    · exact hwords s
    · exact List.length_replicate
  · exact hwords _

/-- The first of the chunks ended is no later than the one under way. -/
theorem stepping_le {s : State} {b lo hi : Nat} (h : s.stepping b = some (lo, hi)) : lo ≤ hi := by
  unfold State.stepping at h
  dsimp only at h
  split at h
  · cases h
  · split at h
    · cases h
    · split at h
      · split at h
        · simp only [Option.some.injEq, Prod.mk.injEq] at h
          generalize (s.mine.cyc - _) / _ = q at h
          omega
        · cases h
      · split at h
        · cases h
          omega
        · cases h
      · cases h

/-- A word that a read of a bank's row may give at place `i` (R168). -/
def State.MayRead (s : State) (b i : Nat) (w : BitVec 32) : Prop :=
  (s.stepping b = none → w = tabGet 0 s.mine.acm (bankRow b (s.mine.pointer b) + i))
    ∧ ∀ lo hi, s.stepping b = some (lo, hi) → ∃ n, lo ≤ n ∧ n ≤ hi ∧ (s.bankAfter b n)[i]? = some w

/-- The vector that a read of a bank's row puts on its way. -/
def State.bankVec (s : State) (b : Nat) : Vec := BitVec.ofNat 1024 (s.bankRead b)

theorem bankVec_mayRead (s : State) (b : Nat) {i : Nat} (hi : i < 32) : s.MayRead b i ((s.bankVec b).extractLsb' (32 * i) 32) := by
  unfold State.bankVec State.bankRead
  refine ⟨fun hs => ?quiet, fun lo top hs => ?racing⟩
  case quiet =>
    rw [hs]
    dsimp only
    rw [extractLsb'_packElems _ hi, List.getD_eq_getElem?_getD, List.getElem?_map, bankWords_getElem? s b hi]
    exact BitVec.ofNat_toNat ..
  case racing =>
    have hle := stepping_le hs
    rw [hs]
    dsimp only
    generalize hlast : (if s.mine.settledChunk (top - 1) = true then top else max lo (top - 1)) = last
    have hlo : lo ≤ last := by subst hlast; split <;> omega
    have hlast : last ≤ top := by subst hlast; split <;> omega
    rw [extractLsb'_packElems _ hi, List.getD_eq_getElem?_getD, List.getElem?_map, List.getElem?_range hi, Option.map_some, Option.getD_some,
      List.length_map, List.length_range]
    generalize hj : Config.freeNat (s.fresh + i) % (last + 1 - lo) = j
    have hj : j < last + 1 - lo := hj ▸ Nat.mod_lt _ (by omega)
    refine ⟨lo + j, by omega, by omega, ?_⟩
    have hrow : ((List.range (last + 1 - lo)).map fun j => s.bankAfter b (lo + j)).getD j [] = s.bankAfter b (lo + j) := by
      rw [List.getD_eq_getElem?_getD, List.getElem?_map, List.getElem?_range hj]
      rfl
    have hlen : i < (s.bankAfter b (lo + j)).length := by rw [bankAfter_length]; exact hi
    rw [hrow, List.getD_eq_getElem?_getD, List.getElem?_eq_getElem hlen, Option.getD_some, BitVec.ofNat_toNat, BitVec.setWidth_eq]

/-! ### One bank read -/

section
variable (s : State) (b v : Nat)

theorem mine_bankLoad : (s.bankLoad b v).mine = s.mine.bump b := by
  unfold State.bankLoad
  exact State.mine_setMine ..

theorem me_bankLoad : (s.bankLoad b v).me = (s.write (.v v (s.bankVec b)) 4).me := rfl

@[simp] theorem fl_bankLoad : (s.bankLoad b v).fl = s.fl := rfl
@[simp] theorem wlog_bankLoad : (s.bankLoad b v).wlog = s.wlog := rfl
@[simp] theorem mem_bankLoad : (s.bankLoad b v).mem = s.mem := rfl

theorem slotFor_bankLoad (c : Nat) : ((s.bankLoad b v).ctx c).slotFor = (s.ctx c).slotFor := by
  by_cases hc : c = s.fl.ctx
  · subst hc
    have : (s.bankLoad b v).ctx s.fl.ctx = (s.bankLoad b v).me := rfl
    rw [this, me_bankLoad, State.write_eq, State.me_setMe]
    rfl
  · have : (s.bankLoad b v).ctx c = s.ctx c := State.ctx_setMe_ne s _ hc
    rw [this]

theorem beside_bankLoad : Beside s (s.bankLoad b v) where
  cyc := by rw [mine_bankLoad]; rfl
  routine := ⟨[], by rw [mine_bankLoad]; simp [Core.bump]⟩
  mps := by rw [mine_bankLoad]; rfl
  slotFor := slotFor_bankLoad s b v

theorem pointer_bump (k : Core) (c : Nat) : (k.bump b).pointer c = if c = b then (k.pointer b + 1) % 512 else k.pointer c :=
  tabGet_put ..

theorem acm_runChunks_bankLoad (n : Nat) : ((s.bankLoad b v).runChunks n).mine.acm = (s.runChunks n).mine.acm := by
  have hmine := mine_bankLoad s b v
  have hr : (s.bankLoad b v).mine.routine = s.mine.routine := by rw [hmine]; rfl
  unfold State.runChunks
  cases hs : s.mine.routine with
  | none =>
    rw [hs] at hr
    simp only [hr]
    rw [hmine]
    rfl
  | some r =>
    rw [hs] at hr
    simp only [hr]
    rw [slotFor_bankLoad]
    cases r.target.bind (s.ctx r.ctx).slotFor with
    | none =>
      dsimp only
      rw [hmine]
      rfl
    | some slot =>
      simp only [State.mine_setMine, hmine, Core.chunks_bump]
      rfl

theorem bankPtr_runChunks (n : Nat) : (s.runChunks n).mine.bankPtr = s.mine.bankPtr := by
  unfold State.runChunks
  split
  · rfl
  · dsimp only
    split
    · rfl
    · rw [State.mine_setMine]

variable {c : Nat} (hc : c ≠ b)
include hc

theorem pointer_bankLoad : (s.bankLoad b v).mine.pointer c = s.mine.pointer c := by
  rw [mine_bankLoad, pointer_bump, if_neg hc]

theorem bankWords_bankLoad : (s.bankLoad b v).bankWords c = s.bankWords c := by
  rw [bankWords_eq, bankWords_eq, pointer_bankLoad s b v hc, mine_bankLoad]
  rfl

/-- Reading a bank leaves what another bank's row may hold after chunks. -/
theorem bankAfter_bankLoad (n : Nat) : (s.bankLoad b v).bankAfter c n = s.bankAfter c n := by
  have hchunks : ((s.bankLoad b v).runChunks n).bankWords c = (s.runChunks n).bankWords c := by
    have hptr : ((s.bankLoad b v).runChunks n).mine.pointer c = (s.runChunks n).mine.pointer c := by
      unfold Core.pointer
      rw [bankPtr_runChunks, bankPtr_runChunks]
      exact pointer_bankLoad s b v hc
    rw [bankWords_eq, bankWords_eq, hptr, acm_runChunks_bankLoad]
  have hmicro : (s.bankLoad b v).mine.routine.map (s.bankLoad b v).mine.microAt = s.mine.routine.map s.mine.microAt := by
    rw [mine_bankLoad]
    rfl
  unfold State.bankAfter
  rw [hmicro, hchunks, bankWords_bankLoad s b v hc]

theorem mayRead_bankLoad (i : Nat) (w : BitVec 32) : (s.bankLoad b v).MayRead c i w ↔ s.MayRead c i w := by
  have hacm : (s.bankLoad b v).mine.acm = s.mine.acm := by rw [mine_bankLoad]; rfl
  unfold State.MayRead
  rw [(beside_bankLoad s b v).stepping, hacm, pointer_bankLoad s b v hc]
  simp only [bankAfter_bankLoad s b v hc]

end

/-! ### The banks of ACBRD -/

/-- The state after ACBRD in compatibility mode. -/
def State.bankLoads (s : State) (a b v : Nat) (one : BitVec 1) : State :=
  if one = 1 then s.bankLoad a v else (s.bankLoad a v).bankLoad b (v + 1)

theorem exec_acbrd {s : State} (hw : s.wlog = []) (hcompat : s.me.compat = true) (ba bb : BitVec 4) (v : BitVec 9) (one : BitVec 1) :
    exec (.acbrd ba bb v one) s = .next (s.bankLoads ba.toNat bb.toNat v.toNat one) := by
  have h : exec (.acbrd ba bb v one) s = done s (s.bankLoads ba.toNat bb.toNat v.toNat one) := by
    show execAcbrd ba bb v one s = _
    unfold execAcbrd
    rw [hcompat]
    rfl
  rw [h]
  unfold State.bankLoads
  split <;> exact done_eq hw rfl

theorem bit_one_or_zero (x : BitVec 1) : x = 1 ∨ x = 0 := by
  revert x
  decide

/-- A pointer after one or two banks have each advanced. -/
theorem pointer_bumps (k : Core) {a b : Nat} {one : BitVec 1} (hab : one = 1 ∨ a ≠ b) (c : Nat) :
    (if one = 1 then k.bump a else (k.bump a).bump b).pointer c
      = if c = a ∨ (one = 0 ∧ c = b) then (k.pointer c + 1) % 512 else k.pointer c := by
  obtain rfl | rfl := bit_one_or_zero one
  · rw [if_pos rfl, pointer_bump]
    by_cases hc : c = a <;> simp [hc]
  · have hab : a ≠ b := hab.resolve_left (by decide)
    rw [if_neg (by decide), pointer_bump, pointer_bump, pointer_bump]
    by_cases hc : c = a
    · simp [hc, hab]
    · by_cases hcb : c = b <;> simp [hc, hcb, hab.symm]

theorem mine_bankLoads (s : State) (a b v : Nat) (one : BitVec 1) :
    (s.bankLoads a b v one).mine = if one = 1 then s.mine.bump a else (s.mine.bump a).bump b := by
  unfold State.bankLoads
  split
  · exact mine_bankLoad ..
  · rw [mine_bankLoad, mine_bankLoad]

theorem bankLoads_frame (s : State) (a b v : Nat) (one : BitVec 1) :
    { (s.bankLoads a b v one).mine with bankPtr := s.mine.bankPtr } = s.mine ∧ SameBytes s (s.bankLoads a b v one) := by
  rw [mine_bankLoads]
  unfold State.bankLoads
  split
  · exact ⟨rfl, fun _ => rfl⟩
  · exact ⟨rfl, fun _ => rfl⟩

/-- A write on its way adds to the context what the state's cycle and context say. -/
theorem me_write_congr {s t : State} (hme : t.me = s.me) (hfl : t.fl = s.fl) (w : RegWrite) (lat : Nat) :
    (t.write w lat).me = (s.write w lat).me := by
  rw [State.write_eq, State.write_eq, State.me_setMe, State.me_setMe, hme, hfl]

/-- What ACBRD reads into its second vector: the row of its second bank, after the first has been read. -/
def State.bankVec2 (s : State) (a b v : Nat) : Vec := (s.bankLoad a v).bankVec b

theorem me_bankLoads (s : State) (a b v : Nat) (one : BitVec 1) :
    (s.bankLoads a b v one).me = (if one = 1 then s.write (.v v (s.bankVec a)) 4
      else (s.write (.v v (s.bankVec a)) 4).write (.v (v + 1) (s.bankVec2 a b v)) 4).me := by
  unfold State.bankLoads
  split
  · exact me_bankLoad ..
  · rw [me_bankLoad]
    exact me_write_congr (me_bankLoad ..) rfl _ _

/-! ### The banks of ACBWR -/

/-- What a program writes to a bank under a running chunk, to stand beside the routine. -/
def State.bankPuts (s : State) (b value choice : Nat) : List BankPut :=
  match s.stepping b with
  | none => []
  | some (_, hi) => [{ chunk := hi - 1, key := bankRow b (s.mine.pointer b), value := value, choice := choice }]

/-- The accumulators after a write to a bank's row that nothing runs on. -/
def State.bankAcm (s : State) (b x : Nat) : Tab (BitVec 32) :=
  if s.stepping b = none then
    tabRange 0 s.mine.acm (bankRow b (s.mine.pointer b)) ((List.range 32).map fun i => BitVec.ofNat 32 (elemAt x 32 i))
  else s.mine.acm

/-- Pointers, accumulators and what stands beside the routine are put, and the choices of the latter are drawn. -/
def State.withBanks (s : State) (ptr : Tab Nat) (acm : Tab (BitVec 32)) (puts : List BankPut) : State :=
  State.setMine { s with fresh := s.fresh + 32 * puts.length }
    { s.mine with bankPtr := ptr, acm := acm, routine := s.mine.routine.map fun r => { r with puts := r.puts ++ puts } }

theorem mine_withBanks (s : State) (ptr : Tab Nat) (acm : Tab (BitVec 32)) (puts : List BankPut) :
    (s.withBanks ptr acm puts).mine = { s.mine with
      bankPtr := ptr, acm := acm, routine := s.mine.routine.map fun r => { r with puts := r.puts ++ puts } } :=
  State.mine_setMine ..

theorem withBanks_withBanks (s : State) (p q : Tab Nat) (c d : Tab (BitVec 32)) (l m : List BankPut) :
    (s.withBanks p c l).withBanks q d m = s.withBanks q d (l ++ m) := by
  have hset : ∀ (f g : Nat) (x y : Core),
      State.setMine { State.setMine { s with fresh := f } x with fresh := g } y = State.setMine { s with fresh := g } y := by
    simp [State.setMine, State.setCore, State.myCore]
  unfold State.withBanks
  rw [State.mine_setMine, hset]
  simp [Nat.mul_add, Nat.add_assoc, Function.comp_def]

/-- Writing a bank advances its pointer, and changes its row or what stands beside the routine. -/
theorem bankStore_eq (s : State) (b x : Nat) :
    s.bankStore b x = s.withBanks (s.mine.bump b).bankPtr (s.bankAcm b x) (s.bankPuts b x s.fresh) := by
  unfold State.bankStore State.bankPuts State.bankAcm State.bankPut State.withBanks
  cases hs : s.stepping b with
  | none => simp [Core.bump, Core.pointer]
  | some p => simp [Core.bump, Core.pointer]

section
variable (s : State) (b x : Nat)

theorem mine_bankStore : (s.bankStore b x).mine = { s.mine.bump b with
    acm := s.bankAcm b x, routine := s.mine.routine.map fun r => { r with puts := r.puts ++ s.bankPuts b x s.fresh } } := by
  rw [bankStore_eq, mine_withBanks]
  rfl

theorem fresh_bankStore : (s.bankStore b x).fresh = s.fresh + 32 * (s.bankPuts b x s.fresh).length := by
  rw [bankStore_eq]
  rfl

theorem beside_bankStore : Beside s (s.bankStore b x) where
  cyc := by rw [mine_bankStore]; rfl
  routine := ⟨s.bankPuts b x s.fresh, by rw [mine_bankStore]⟩
  mps := by rw [mine_bankStore]; rfl
  slotFor c := by rw [bankStore_eq]; rfl

theorem pointer_bankStore {c : Nat} (hc : c ≠ b) : (s.bankStore b x).mine.pointer c = s.mine.pointer c := by
  have h : (s.bankStore b x).mine.pointer c = (s.mine.bump b).pointer c := by
    rw [mine_bankStore]
    rfl
  rw [h, pointer_bump, if_neg hc]

theorem bankPuts_bankStore {c : Nat} (hc : c ≠ b) (y choice : Nat) :
    (s.bankStore b x).bankPuts c y choice = s.bankPuts c y choice := by
  unfold State.bankPuts
  rw [(beside_bankStore s b x).stepping, pointer_bankStore s b x hc]

theorem tabGet_bankAcm (j : Nat) : tabGet 0 (s.bankAcm b x) j =
    if s.stepping b = none ∧ bankRow b (s.mine.pointer b) ≤ j ∧ j < bankRow b (s.mine.pointer b) + 32 then
      BitVec.ofNat 32 (elemAt x 32 (j - bankRow b (s.mine.pointer b)))
    else tabGet 0 s.mine.acm j := by
  unfold State.bankAcm
  by_cases hs : s.stepping b = none
  · rw [if_pos hs, tabGet_tabRange, List.length_map, List.length_range]
    simp only [hs, true_and]
    split
    · rw [List.getD_eq_getElem?_getD, List.getElem?_map, List.getElem?_range (by omega)]
      rfl
    · rfl
  · rw [if_neg hs, if_neg fun h => hs h.1]

/-- A row written is read back, and every other accumulator is left. -/
theorem tabGet_bankAcm_row (hs : s.stepping b = none) {i : Nat} (hi : i < 32) :
    (tabGet 0 (s.bankAcm b x) (bankRow b (s.mine.pointer b) + i)).toNat = elemAt x 32 i := by
  rw [tabGet_bankAcm, if_pos ⟨hs, by omega, by omega⟩, Nat.add_sub_cancel_left, BitVec.toNat_ofNat]
  exact Nat.mod_eq_of_lt (Nat.mod_lt _ (Nat.two_pow_pos 32))

theorem tabGet_bankAcm_other {j : Nat}
    (h : s.stepping b ≠ none ∨ j < bankRow b (s.mine.pointer b) ∨ bankRow b (s.mine.pointer b) + 32 ≤ j) :
    tabGet 0 (s.bankAcm b x) j = tabGet 0 s.mine.acm j := by
  rw [tabGet_bankAcm, if_neg]
  rintro ⟨hs, hlo, hhi⟩
  obtain h | h | h := h
  · exact h hs
  · omega
  · omega

end

/-- The state after ACBWR in compatibility mode. -/
def State.bankStores (s : State) (a b x y : Nat) (one : BitVec 1) : State :=
  if one = 1 then s.bankStore a x else (s.bankStore a x).bankStore b y

theorem exec_acbwr {s : State} (hw : s.wlog = []) (hcompat : s.me.compat = true) (ba bb : BitVec 4) (v : BitVec 9) (one : BitVec 1) :
    exec (.acbwr ba bb v one) s
      = .next (s.bankStores ba.toNat bb.toNat (s.opV 0 v.toNat) (s.opV 0x80 (v.toNat + 1)) one) := by
  have h : exec (.acbwr ba bb v one) s = done s (s.bankStores ba.toNat bb.toNat (s.opV 0 v.toNat) (s.opV 0x80 (v.toNat + 1)) one) := by
    show execAcbwr ba bb v one s = _
    unfold execAcbwr
    rw [hcompat]
    rfl
  rw [h]
  apply done_eq
  · unfold State.bankStores
    rw [bankStore_eq, bankStore_eq]
    split <;> exact hw
  · unfold State.bankStores
    rw [bankStore_eq, bankStore_eq]
    split <;> rfl

theorem pointer_bankStores (s : State) (a b x y : Nat) (one : BitVec 1) (c : Nat) :
    (s.bankStores a b x y one).mine.pointer c = (if one = 1 then s.mine.bump a else (s.mine.bump a).bump b).pointer c := by
  unfold State.bankStores
  split
  · rw [mine_bankStore]
    rfl
  · rw [mine_bankStore, mine_bankStore]
    rfl

/-- What ACBWR leaves to stand beside the routine. -/
def State.bankPuts2 (s : State) (a b x y : Nat) (one : BitVec 1) : List BankPut :=
  s.bankPuts a x s.fresh ++ if one = 0 then s.bankPuts b y (s.fresh + 32 * (s.bankPuts a x s.fresh).length) else []

/-- ACBWR changes pointers, accumulators and what stands beside the routine, and the choices made. -/
theorem bankStores_frame (s : State) {a b : Nat} (x y : Nat) {one : BitVec 1} (hab : one = 1 ∨ a ≠ b) :
    let t := s.bankStores a b x y one
    t = s.withBanks t.mine.bankPtr t.mine.acm (s.bankPuts2 a b x y one) := by
  obtain rfl | rfl := bit_one_or_zero one
  · have ht : s.bankStores a b x y 1 = s.bankStore a x := if_pos rfl
    have hputs : s.bankPuts2 a b x y 1 = s.bankPuts a x s.fresh := List.append_nil _
    dsimp only
    rw [ht, hputs, bankStore_eq, mine_withBanks]
  · have hba : b ≠ a := (hab.resolve_left (by decide)).symm
    have ht : s.bankStores a b x y 0 = (s.bankStore a x).bankStore b y := if_neg (by decide)
    have hputs : s.bankPuts2 a b x y 0 = s.bankPuts a x s.fresh ++ (s.bankStore a x).bankPuts b y (s.bankStore a x).fresh := by
      rw [fresh_bankStore, bankPuts_bankStore s a x hba]
      rfl
    have hstore : ∀ p acm l, (s.bankStore a x).withBanks p acm l = s.withBanks p acm (s.bankPuts a x s.fresh ++ l) := fun p acm l => by
      rw [bankStore_eq, withBanks_withBanks]
    dsimp only
    rw [ht, hputs, ← hstore, bankStore_eq (s.bankStore a x), mine_withBanks]

/-- Rows of different banks lie apart, as each pointer is below 512. -/
theorem bankRow_apart {a b p q i : Nat} (hab : a ≠ b) (hp : p < 512) (hq : q < 512) (hi : i < 32) :
    bankRow a p + i < bankRow b q ∨ bankRow b q + 32 ≤ bankRow a p + i := by
  unfold bankRow
  omega

/-- The row of the second bank lies where it lay, once the first has been written. -/
theorem acm_bankStores_two (s : State) {a b : Nat} (x y : Nat) :
    (s.bankStores a b x y 0).mine.acm = (s.bankStore a x).bankAcm b y := by
  have ht : s.bankStores a b x y 0 = (s.bankStore a x).bankStore b y := if_neg (by decide)
  rw [ht, mine_bankStore]

theorem acm_bankStores_one (s : State) {a b : Nat} (x y : Nat) : (s.bankStores a b x y 1).mine.acm = s.bankAcm a x := by
  have ht : s.bankStores a b x y 1 = s.bankStore a x := if_pos rfl
  rw [ht, mine_bankStore]

/-- Each row written holds its vector's words. -/
theorem bankStores_rows {s : State} {a b x y i : Nat} {one : BitVec 1} (hab : one = 1 ∨ a ≠ b) (hptr : ∀ c, s.mine.pointer c < 512)
    (hi : i < 32) :
    let t := s.bankStores a b x y one
    (s.stepping a = none → (tabGet 0 t.mine.acm (bankRow a (s.mine.pointer a) + i)).toNat = elemAt x 32 i)
      ∧ (one = 0 → s.stepping b = none → (tabGet 0 t.mine.acm (bankRow b (s.mine.pointer b) + i)).toNat = elemAt y 32 i) := by
  dsimp only
  obtain rfl | rfl := bit_one_or_zero one
  · rw [acm_bankStores_one]
    exact ⟨fun hs => tabGet_bankAcm_row s a x hs hi, fun h => absurd h (by decide)⟩
  · have hab : a ≠ b := hab.resolve_left (by decide)
    have hpb := pointer_bankStore s a x hab.symm
    have hsb := (beside_bankStore s a x).stepping b
    have hacm : (s.bankStore a x).mine.acm = s.bankAcm a x := by rw [mine_bankStore]
    rw [acm_bankStores_two]
    refine ⟨fun hs => ?_, fun _ hs => ?_⟩
    · have hother := tabGet_bankAcm_other (s.bankStore a x) b y (j := bankRow a (s.mine.pointer a) + i)
        (.inr (hpb ▸ bankRow_apart hab (hptr a) (hptr b) hi))
      rw [hother, hacm]
      exact tabGet_bankAcm_row s a x hs hi
    · rw [← hpb]
      exact tabGet_bankAcm_row _ b y (hsb.trans hs) hi

/-- Every accumulator outside the rows written is left. -/
theorem bankStores_others {s : State} {a b x y j : Nat} {one : BitVec 1} (hab : one = 1 ∨ a ≠ b)
    (ha : s.stepping a ≠ none ∨ j < bankRow a (s.mine.pointer a) ∨ bankRow a (s.mine.pointer a) + 32 ≤ j)
    (hb : one = 1 ∨ s.stepping b ≠ none ∨ j < bankRow b (s.mine.pointer b) ∨ bankRow b (s.mine.pointer b) + 32 ≤ j) :
    tabGet 0 (s.bankStores a b x y one).mine.acm j = tabGet 0 s.mine.acm j := by
  obtain rfl | rfl := bit_one_or_zero one
  · rw [acm_bankStores_one]
    exact tabGet_bankAcm_other s a x ha
  · have hab : a ≠ b := hab.resolve_left (by decide)
    have hacm : (s.bankStore a x).mine.acm = s.bankAcm a x := by rw [mine_bankStore]
    rw [acm_bankStores_two, tabGet_bankAcm_other, hacm]
    · exact tabGet_bankAcm_other s a x ha
    · rw [(beside_bankStore s a x).stepping, pointer_bankStore s a x hab.symm]
      exact hb.resolve_left (by decide)

/-- Settles O45: a bank read or written leaves what runs on the other bank, its pointer and its row, so that the second access of a pair
meets what the first met. -/
theorem bankRowsReadAndWritten : Obligations.BankRowsReadAndWritten := by
  intro s ba bb v one hw
  refine ⟨fun hcompat => ⟨?_, ?_⟩, fun hcompat hone => ?_⟩
  · show execAcbrd ba bb v one s = _
    unfold execAcbrd
    rw [hcompat, if_pos (by rfl)]
    exact done_closed ..
  · show execAcbwr ba bb v one s = _
    unfold execAcbwr
    rw [hcompat, if_pos (by rfl)]
    exact done_closed ..
  · have hab : one = 1 ∨ ba.toNat ≠ bb.toNat := hone
    have hptrs : ∀ c, (if one = 1 then s.mine.bump ba.toNat else (s.mine.bump ba.toNat).bump bb.toNat).pointer c = _ :=
      pointer_bumps s.mine hab
    refine ⟨⟨s.bankVec ba.toNat, s.bankVec2 ba.toNat bb.toNat v.toNat, _, exec_acbrd hw hcompat ba bb v one, fun i hi => ⟨?_, fun h => ?_⟩,
      me_bankLoads .., fun c => ?_, bankLoads_frame ..⟩, fun hptr => ⟨_, exec_acbwr hw hcompat ba bb v one, fun i hi => ?_, fun j ha hb => ?_,
      fun c => ?_, ?_⟩⟩
    · exact bankVec_mayRead s _ hi
    · have hba : bb.toNat ≠ ba.toNat := (hab.resolve_left (by rw [h]; decide)).symm
      exact (mayRead_bankLoad s ba.toNat v.toNat hba i _).1 (bankVec_mayRead _ _ hi)
    · have h := hptrs c
      rw [← mine_bankLoads s ba.toNat bb.toNat v.toNat one] at h
      exact h
    · exact bankStores_rows hab hptr hi
    · exact bankStores_others hab ha hb
    · have h := hptrs c
      rw [← pointer_bankStores s ba.toNat bb.toNat _ _ one] at h
      exact h
    · exact bankStores_frame s _ _ hab

end Sys2Proof.Machine
end

section
/-! PROOFS. The instructions that queue an entry of the matrix unit by its handles: MCALL, ACZ and ACREL (R80, R154 to R156, R167). -/

namespace Sys2Proof.Machine

/-! ### Handles and slots -/

theorem find?_tabPut_ne {α : Type} (t : Tab α) {n m : Nat} (x : α) (h : m ≠ n) :
    (tabPut t n x).find? (fun p => p.1 == m) = t.find? fun p => p.1 == m := by
  induction t with
  | nil => rw [tabPut, List.find?_cons_of_neg (by simpa using Ne.symm h)]
  | cons p t ih =>
    obtain ⟨k, v⟩ := p
    unfold tabPut
    split
    · rw [List.find?_cons_of_neg (by simpa using Ne.symm h)]
    split
    next hk =>
      subst hk
      rw [List.find?_cons_of_neg (by simpa using Ne.symm h), List.find?_cons_of_neg (by simpa using Ne.symm h)]
    next => rw [List.find?_cons, List.find?_cons, ih]

theorem nodup_eraseDups (l : List Nat) : l.eraseDups.Nodup := by
  match l with
  | [] => exact List.nodup_nil
  | a :: l =>
    rw [List.eraseDups_cons, List.nodup_cons]
    exact ⟨by simp [List.mem_eraseDups], nodup_eraseDups _⟩
termination_by l.length
decreasing_by exact Nat.lt_succ_of_le (List.length_filter_le _ _)

/-- Where a handle has no slot the context is in native mode. -/
theorem compat_of_unmapped {x : Ctx} {h : Nat} (hnone : x.slotFor h = none) : x.compat = false := by
  unfold Ctx.slotFor at hnone
  split at hnone
  · cases hnone
  · simpa using ‹¬x.compat = true›

/-- A handle mapped is found at its slot, and every other handle is left where it was. -/
theorem slotFor_map {x : Ctx} (hc : x.compat = false) (h f g : Nat) :
    ({ x with handles := tabPut x.handles h f } : Ctx).slotFor g = if g = h then some f else x.slotFor g := by
  unfold Ctx.slotFor
  simp only [hc, Bool.false_eq_true, if_false]
  split
  · subst g
    rw [find?_tabPut]
    rfl
  · rw [find?_tabPut_ne _ _ ‹_›]

/-- The elements of a slot are zeroed and no other. -/
theorem tabGet_zeroSlot (k : Core) (slot i : Nat) :
    tabGet 0 (k.zeroSlot slot).acm i = if 16384 * slot ≤ i ∧ i < 16384 * (slot + 1) then 0 else tabGet 0 k.acm i := by
  have hbelow : ∀ e, 16384 * slot ≤ i → tabGet e (tabBelow k.acm (16384 * slot)) i = e := fun e h =>
    tabGet_none fun p hp => by have := of_decide_eq_true (List.mem_filter.1 hp).2; omega
  have hfrom : i < 16384 * (slot + 1) → tabGet 0 (tabFrom k.acm (16384 * (slot + 1))) i = 0 := fun h =>
    tabGet_none fun p hp => by have := of_decide_eq_true (List.mem_filter.1 hp).2; omega
  show tabGet 0 (tabBelow k.acm (16384 * slot) ++ tabFrom k.acm (16384 * (slot + 1))) i = _
  rw [tabGet_append]
  by_cases hlo : 16384 * slot ≤ i
  · rw [hbelow _ hlo]
    by_cases hhi : i < 16384 * (slot + 1)
    · rw [if_pos ⟨hlo, hhi⟩, hfrom hhi]
    · rw [if_neg (by omega), tabGet_from 0 _ (by omega)]
  · rw [if_neg (by omega), hfrom (by omega), tabGet_below 0 _ (by omega)]

/-! ### Handles mapped to free slots -/

/-- A state but for the handles of its context and the free slots and accumulators of its core. -/
def State.withSlots (s : State) (handles : Tab Nat) (free : List Nat) (acm : Tab (BitVec 32)) (int : Tab Bool) : State :=
  (s.setMe { s.me with handles := handles }).setMine { s.mine with free := free, acm := acm, slotInt := int }

section
variable (s : State) (handles : Tab Nat) (free : List Nat) (acm : Tab (BitVec 32)) (int : Tab Bool)

theorem me_withSlots : (s.withSlots handles free acm int).me = { s.me with handles := handles } := by
  unfold State.withSlots
  rw [State.me_setMine, State.me_setMe]

theorem mine_withSlots : (s.withSlots handles free acm int).mine = { s.mine with free := free, acm := acm, slotInt := int } := by
  unfold State.withSlots
  exact State.mine_setMine ..

theorem wlog_withSlots : (s.withSlots handles free acm int).wlog = s.wlog := rfl
theorem mem_withSlots : (s.withSlots handles free acm int).mem = s.mem := rfl

end

/-- What mapping handles, none of which has a slot, to the first free slots leaves: each handle at the slot of its place in the free list,
those slots zeroed, and every other handle and accumulator as it was (R155, R167). -/
structure Maps (s t : State) (hs : List Nat) : Prop where
  me : { t.me with handles := s.me.handles } = s.me
  mine : { t.mine with free := s.mine.free, acm := s.mine.acm, slotInt := s.mine.slotInt } = s.mine
  mem : t.mem = s.mem
  wlog : t.wlog = s.wlog
  fl : t.fl = s.fl
  portId : t.portId = s.portId
  free : t.mine.free = s.mine.free.drop hs.length
  mapped : ∀ (j o : Nat), hs[j]? = some o → t.me.slotFor o = s.mine.free[j]?
  others : ∀ o, o ∉ hs → t.me.slotFor o = s.me.slotFor o
  zeroed : ∀ (j f : Nat), j < hs.length → s.mine.free[j]? = some f →
    ∀ i, 16384 * f ≤ i → i < 16384 * (f + 1) → tabGet 0 t.mine.acm i = 0
  zeros : ∀ i, tabGet 0 s.mine.acm i = 0 → tabGet 0 t.mine.acm i = 0

theorem mapHandle_mapped {s : State} {h : Nat} (hsome : (s.me.slotFor h).isSome = true) : s.mapHandle h = s := by
  unfold State.mapHandle
  exact if_pos hsome

/-- A handle without a slot takes the first free one, zeroed. -/
theorem mapHandle_free {s : State} {h f : Nat} {rest : List Nat} (hnone : s.me.slotFor h = none) (hfree : s.mine.free = f :: rest) :
    s.mapHandle h = s.withSlots (tabPut s.me.handles h f) rest (s.mine.zeroSlot f).acm (tabErase s.mine.slotInt f) := by
  unfold State.mapHandle
  dsimp only
  rw [hnone, hfree]
  rfl

theorem Maps.nil (s : State) : Maps s s [] where
  me := rfl
  mine := rfl
  mem := rfl
  wlog := rfl
  fl := rfl
  portId := rfl
  free := rfl
  mapped j o h := by simp at h
  others _ _ := rfl
  zeroed j f h := by simp at h
  zeros _ h := h

/-- A first handle mapped, and then the others. -/
theorem Maps.cons {s t : State} {h f : Nat} {hs rest : List Nat} (hnone : s.me.slotFor h = none) (hfree : s.mine.free = f :: rest)
    (hnot : h ∉ hs) (ht : Maps (s.mapHandle h) t hs) : Maps s t (h :: hs) := by
  rw [mapHandle_free hnone hfree] at ht
  obtain ⟨tme, tmine, tmem, twlog, tfl, tportId, tfree, tmapped, tothers, tzeroed, tzeros⟩ := ht
  have hfind := slotFor_map (compat_of_unmapped hnone) h f
  simp only [me_withSlots, mine_withSlots] at tme tmine tfree tmapped tothers tzeroed tzeros
  refine ⟨?_, ?_, tmem, twlog, tfl, tportId, ?_, ?_, ?_, ?_, ?_⟩
  · simpa using congrArg (fun x : Ctx => { x with handles := s.me.handles }) tme
  · simpa using congrArg (fun k : Core => { k with free := s.mine.free, acm := s.mine.acm, slotInt := s.mine.slotInt }) tmine
  · rw [tfree, hfree]
    rfl
  · intro j o hj
    rw [hfree]
    cases j with
    | zero =>
      obtain rfl : h = o := by simpa using hj
      rw [tothers h hnot, hfind, if_pos rfl]
      rfl
    | succ j => exact tmapped j o (by simpa using hj)
  · intro o ho
    simp only [List.mem_cons, not_or] at ho
    rw [tothers o ho.2, hfind, if_neg ho.1]
  · intro j g hj hg i hlo hhi
    rw [hfree] at hg
    cases j with
    | zero =>
      obtain rfl : f = g := by simpa using hg
      exact tzeros i (by rw [tabGet_zeroSlot, if_pos ⟨hlo, hhi⟩])
    | succ j => exact tzeroed j g (by simpa using hj) (by simpa using hg) i hlo hhi
  · intro i hi
    refine tzeros i ?_
    rw [tabGet_zeroSlot, hi, ite_self]

/-- Handles mapped in turn, where there are free slots enough. -/
theorem maps_foldl {s : State} {hs : List Nat} (hnodup : hs.Nodup) (hnone : ∀ h ∈ hs, s.me.slotFor h = none)
    (hroom : hs.length ≤ s.mine.free.length) : Maps s (hs.foldl State.mapHandle s) hs := by
  induction hs generalizing s with
  | nil => exact .nil s
  | cons h hs ih =>
    obtain ⟨hnot, hnodup⟩ := List.nodup_cons.1 hnodup
    have hh : s.me.slotFor h = none := hnone h (List.mem_cons_self ..)
    match hfree : s.mine.free with
    | [] => simp [hfree] at hroom
    | f :: rest =>
      refine .cons hh hfree hnot (ih hnodup (fun g hg => ?_) ?_)
      · rw [mapHandle_free hh hfree, me_withSlots, slotFor_map (compat_of_unmapped hh), if_neg (fun (e : g = h) => hnot (e ▸ hg))]
        exact hnone g (List.mem_cons_of_mem _ hg)
      · rw [mapHandle_free hh hfree, mine_withSlots]
        simpa [hfree] using hroom

/-! ### Entries queued -/

section
variable (s : State) (op : MatrixOp)

theorem mine_queueMatrix : (s.queueMatrix op).mine = { s.mine with
    mq := s.mine.mq ++ [{ ctx := s.fl.ctx, at' := s.fl.t, op := op, mark := s.portId, begun := false }] } := by
  unfold State.queueMatrix
  exact State.mine_setMine ..

@[simp] theorem me_queueMatrix : (s.queueMatrix op).me = s.me := rfl
@[simp] theorem mem_queueMatrix : (s.queueMatrix op).mem = s.mem := rfl
@[simp] theorem wlog_queueMatrix : (s.queueMatrix op).wlog = s.wlog := rfl

end

/-- An entry queued after slots have changed hands changes one core and one context. -/
theorem queueMatrix_withSlots (s : State) (handles : Tab Nat) (free : List Nat) (acm : Tab (BitVec 32)) (int : Tab Bool) (op : MatrixOp) :
    (s.withSlots handles free acm int).queueMatrix op = State.setMine (State.setMe { s with portId := s.portId + 1 } { s.me with
      handles := handles }) { s.mine with
        mq := s.mine.mq ++ [{ ctx := s.fl.ctx, at' := s.fl.t, op := op, mark := s.portId, begun := false }]
        free := free, acm := acm, slotInt := int } := by
  have hset : ∀ (x : Ctx) (k j : Core) (n : Nat),
      State.setMine { (s.setMe x).setMine k with portId := n } j = State.setMine (State.setMe { s with portId := n } x) j := by
    intro x k j n
    simp [State.setMe, State.setMine, State.setCtx, State.setCore, State.myCore]
  rw [State.queueMatrix, mine_withSlots, State.withSlots, hset]
  rfl

theorem matrixFull_iff (k : Core) : k.matrixFull = true ↔ 8 ≤ k.mq.length := by
  unfold Core.matrixFull
  exact decide_eq_true_iff

/-- With no write in the log a slot that takes no fault answers the state that it leaves. -/
theorem done_queueMatrix {s r : State} (hw : s.wlog = []) (hwr : r.wlog = s.wlog) (hm : r.mem = s.mem) (op : MatrixOp) :
    done s (r.queueMatrix op) = .next (r.queueMatrix op) :=
  done_eq (hwr.trans hw) hm

section
variable {s : State} (hw : s.wlog = []) (slot : BitVec 4)

theorem exec_acz_compat (hc : s.me.compat = true) : exec (.acz slot) s = .next ((s.illegal (2 ^ 10)).closed s) := by
  show execAcz slot s = _
  unfold execAcz
  dsimp only
  rw [if_pos hc]
  exact done_closed ..

theorem exec_acrel_compat (hc : s.me.compat = true) : exec (.acrel slot) s = .next ((s.illegal (2 ^ 10)).closed s) := by
  show execAcrel slot s = _
  unfold execAcrel
  rw [if_pos hc]
  exact done_closed ..

include hw

theorem done_endFlight : done s s.endFlight = .next s.endFlight := done_eq hw rfl

theorem exec_acz_held (hc : s.me.compat = false) (h : 8 ≤ s.mine.mq.length ∨ s.me.slotFor slot.toNat = none ∧ s.mine.free = []) :
    exec (.acz slot) s = .next s.endFlight := by
  have hheld : (s.mine.matrixFull || ((s.me.slotFor slot.toNat).isNone && s.mine.free.isEmpty)) = true := by
    obtain h | ⟨hnone, hfree⟩ := h
    · rw [(matrixFull_iff _).2 h, Bool.true_or]
    · rw [hnone, hfree]
      exact Bool.or_true _
  show execAcz slot s = _
  unfold execAcz
  dsimp only
  rw [hc, if_neg Bool.false_ne_true, if_pos hheld]
  exact done_endFlight hw

omit hw in
/-- ACZ with a slot for its handle, its own or a free one, is queued behind the mapping. -/
theorem exec_acz_queued (hc : s.me.compat = false) (hroom : s.mine.mq.length < 8)
    (h : (s.me.slotFor slot.toNat).isSome = true ∨ s.mine.free ≠ []) :
    exec (.acz slot) s = done s ((s.mapHandle slot.toNat).queueMatrix (.acz slot.toNat)) := by
  have hgoes : ¬(s.mine.matrixFull || ((s.me.slotFor slot.toNat).isNone && s.mine.free.isEmpty)) = true := by
    rw [Bool.or_eq_true, matrixFull_iff, Bool.and_eq_true]
    rintro (hfull | ⟨hnone, hfree⟩)
    · omega
    · obtain h | h := h
      · rw [Option.isNone_iff_eq_none] at hnone
        simp [hnone] at h
      · exact h (List.isEmpty_iff.1 hfree)
  show execAcz slot s = _
  unfold execAcz
  dsimp only
  rw [hc, if_neg Bool.false_ne_true, if_neg hgoes]

theorem exec_acrel_held (hc : s.me.compat = false) (h : 8 ≤ s.mine.mq.length) : exec (.acrel slot) s = .next s.endFlight := by
  show execAcrel slot s = _
  unfold execAcrel
  rw [hc, if_neg Bool.false_ne_true, if_pos ((matrixFull_iff _).2 h)]
  exact done_endFlight hw

theorem exec_acrel_queued (hc : s.me.compat = false) (h : s.mine.mq.length < 8) :
    exec (.acrel slot) s = .next (s.queueMatrix (.acrel slot.toNat)) := by
  show execAcrel slot s = _
  unfold execAcrel
  rw [hc, if_neg Bool.false_ne_true, if_neg (by rw [matrixFull_iff]; omega)]
  exact done_queueMatrix hw rfl rfl _

end

/-! ### Calls -/

/-- The parameters of a call as the slot reads them. -/
def State.callArgs (s : State) : List Word64 := (List.range 8).map fun j => s.pArg (BitVec.ofNat 3 j)

theorem callArgs_eq (s : State) : (List.range 8).map s.opP = s.callArgs := by
  refine List.map_congr_left fun j hj => ?_
  have hj : j < 2 ^ 3 := List.mem_range.1 hj
  rw [State.pArg, BitVec.toNat_ofNat, Nat.mod_eq_of_lt hj]

/-- A parameter of the call is one that MCALL rejects for its kind. -/
def State.CallBad (s : State) (kinds : Nat) : Prop :=
  ∃ (j : Nat) (p : Word64), s.callArgs[j]? = some p ∧ argBad s.me.tgrant (kindOf kinds j) p.toNat = true

theorem callBad_iff (s : State) (kinds : Nat) :
    (s.callArgs.zipIdx.any fun p => argBad s.me.tgrant (kindOf kinds p.2) p.1.toNat) = true ↔ s.CallBad kinds := by
  unfold State.CallBad
  simp only [List.any_eq_true, Prod.exists, List.mem_zipIdx_iff_getElem?]
  exact exists_comm

/-- The entry that a call queues. -/
def State.callOp (s : State) (entry kinds : Nat) : MatrixOp :=
  .call entry kinds s.callArgs ((List.range 16).map fun t => (t, s.opTctl t))

/-- The output handles of a call that have no slot. -/
def State.callOuts (s : State) (kinds : Nat) : List Nat := s.me.unmapped (outHandles kinds s.callArgs)

theorem callOuts_nodup (s : State) (kinds : Nat) : (s.callOuts kinds).Nodup := (nodup_eraseDups _).filter _

theorem callOuts_unmapped {s : State} {kinds h : Nat} (hh : h ∈ s.callOuts kinds) : s.me.slotFor h = none := by
  have := (List.mem_filter.1 hh).2
  rwa [Option.isNone_iff_eq_none] at this

theorem exec_mcall (entry : BitVec 6) (s : State) : exec (.mcall entry) s = done s (match s.mine.committedKinds entry.toNat with
    | none => s.slotFault 0x28 entry.toNat 0
    | some kinds =>
      if (s.callArgs.zipIdx.any fun p => argBad s.me.tgrant (kindOf kinds p.2) p.1.toNat) = true then s.slotFault 0x28 entry.toNat 0
      else if (s.mine.matrixFull || decide (s.mine.free.length < (s.callOuts kinds).length)) = true then s.endFlight
      else ((s.callOuts kinds).foldl State.mapHandle s).queueMatrix (s.callOp entry.toNat kinds)) := by
  show execMcall entry s = _
  unfold execMcall
  dsimp only
  rw [callArgs_eq]
  rfl

section
variable {s : State} (entry : BitVec 6)

theorem exec_mcall_empty (hk : s.mine.committedKinds entry.toNat = none) :
    exec (.mcall entry) s = .next ((s.slotFault 0x28 entry.toNat 0).closed s) := by
  rw [exec_mcall, hk]
  exact done_closed ..

variable {kinds : Nat} (hk : s.mine.committedKinds entry.toNat = some kinds)
include hk

theorem exec_mcall_bad (hbad : s.CallBad kinds) : exec (.mcall entry) s = .next ((s.slotFault 0x28 entry.toNat 0).closed s) := by
  rw [exec_mcall, hk]
  dsimp only
  rw [if_pos ((callBad_iff s kinds).2 hbad)]
  exact done_closed ..

theorem exec_mcall_held (hw : s.wlog = []) (hgood : ¬s.CallBad kinds)
    (hheld : 8 ≤ s.mine.mq.length ∨ s.mine.free.length < (s.callOuts kinds).length) : exec (.mcall entry) s = .next s.endFlight := by
  rw [exec_mcall, hk]
  dsimp only
  rw [if_neg (mt (callBad_iff s kinds).1 hgood), if_pos (by rwa [Bool.or_eq_true, matrixFull_iff, decide_eq_true_iff])]
  exact done_endFlight hw

/-- A good call with room maps its output handles and is queued. -/
theorem exec_mcall_queued (hw : s.wlog = []) (hgood : ¬s.CallBad kinds) (hroom : s.mine.mq.length < 8)
    (hfree : (s.callOuts kinds).length ≤ s.mine.free.length) :
    ∃ t, Maps s t (s.callOuts kinds) ∧ exec (.mcall entry) s = .next (t.queueMatrix (s.callOp entry.toNat kinds)) := by
  have hmaps : Maps s ((s.callOuts kinds).foldl State.mapHandle s) (s.callOuts kinds) :=
    maps_foldl (callOuts_nodup s kinds) (fun h hh => callOuts_unmapped hh) hfree
  refine ⟨_, hmaps, ?_⟩
  rw [exec_mcall, hk]
  dsimp only
  rw [if_neg (mt (callBad_iff s kinds).1 hgood), if_neg (by rw [Bool.or_eq_true, matrixFull_iff, decide_eq_true_iff]; omega)]
  exact done_queueMatrix hw hmaps.wlog hmaps.mem _

end

/-- Handles mapped leave the rest of the queue's core as it was. -/
theorem Maps.mq {s t : State} {hs : List Nat} (h : Maps s t hs) : t.mine.mq = s.mine.mq := by
  simpa using congrArg Core.mq h.mine

/-- Settles O43: ACZ and ACREL by the branches of their meanings, MCALL by its checks and, where it is queued, by what mapping its output
handles leaves (`maps_foldl`). -/
theorem matrixQueueInstructions : Obligations.MatrixQueueInstructions := by
  intro s entry slot hw
  refine ⟨fun hc => ⟨exec_acz_compat slot hc, exec_acrel_compat slot hc⟩,
    fun hc hfull => ⟨exec_acz_held hw slot hc (.inl hfull), exec_acrel_held hw slot hc hfull⟩,
    fun hc hroom => ⟨exec_acrel_queued hw slot hc hroom, fun hsome => ?mapped, fun hnone hfree => ?_, fun f rest hnone hfree => ?free⟩,
    exec_mcall_empty entry, fun kinds hk => ⟨exec_mcall_bad entry hk, exec_mcall_held entry hk hw, fun hgood hroom hfree => ?called⟩⟩
  case mapped =>
    rw [exec_acz_queued slot hc hroom (.inl hsome), mapHandle_mapped hsome]
    exact done_queueMatrix hw rfl rfl _
  · exact exec_acz_held hw slot hc (.inr ⟨hnone, hfree⟩)
  case free =>
    rw [exec_acz_queued slot hc hroom (.inr (by simp [hfree])), mapHandle_free hnone hfree]
    refine ⟨_, done_queueMatrix hw (wlog_withSlots ..) (mem_withSlots ..) _, ?_, ?_, ?_⟩
    · intro i hlo hhi
      rw [mine_queueMatrix, mine_withSlots]
      exact (tabGet_zeroSlot ..).trans (if_pos ⟨hlo, hhi⟩)
    · intro i hi
      rw [mine_queueMatrix, mine_withSlots]
      exact (tabGet_zeroSlot ..).trans (if_neg (by omega))
    · rw [mine_queueMatrix, mine_withSlots]
      exact queueMatrix_withSlots ..
  case called =>
    obtain ⟨t, hmaps, hexec⟩ := exec_mcall_queued entry hk hw hgood hroom hfree
    refine ⟨_, hexec, ?_, ?_, fun j o ho => ?_, fun j f hj hf i hlo hhi => ?_, hmaps.me, ?_, ?_⟩
    · rw [mine_queueMatrix, hmaps.mq, hmaps.fl, hmaps.portId]
      rfl
    · rw [mine_queueMatrix]
      exact hmaps.free
    · exact hmaps.mapped j o ho
    · rw [mine_queueMatrix]
      exact hmaps.zeroed j f hj hf i hlo hhi
    · rw [mine_queueMatrix]
      simpa [hmaps.mq] using hmaps.mine
    · intro k
      have hmem : (t.queueMatrix (s.callOp entry.toNat kinds)).mem = s.mem := hmaps.mem
      have hlog : (t.queueMatrix (s.callOp entry.toNat kinds)).wlog = s.wlog := hmaps.wlog
      unfold State.byte
      rw [hmem, hlog]

end Sys2Proof.Machine
end

section
/-! PROOFS. The loads of the MEM slots: data put on its way (R72, R104 to R107, R110, R112 to R114; log entries 7 and 22). -/

namespace Sys2Proof.Machine

/-! ### What taking translations and settling own reads leave alone -/

theorem Performs.taken (s : State) (i : Instr) (ts : List Trans) : Performs s (s.taken i ts) := by
  unfold State.taken State.countTiles
  exact (fills _ _).trans (ite (countSubst _ _ _) refl)

theorem Performs.settleOwn (s : State) (core : Nat) : Performs s (s.settleOwn core) := by
  unfold State.settleOwn
  refine foldl (fun s p => ?_) _ s
  dsimp only
  split
  · exact refl
  split
  · exact refl
  split
  · split
    · have ht := touch s (opKeys (PortItem.op ‹_›))
      exact ht.trans (setCtx _ _ _ (ht.ctx _).symm)
    · exact refl
  · exact refl

theorem Performs.myCore {s t : State} (h : Performs s t) : t.myCore = s.myCore := by rw [State.myCore, State.myCore, h.fl]

/-- No reduction is pending, and no write has been logged since. -/
structure Calm (s t : State) : Prop where
  red : t.red = []
  wlog : t.wlog = s.wlog

theorem Calm.trans {s t u : State} (h : Calm s t) (k : Calm t u) : Calm s u := ⟨k.red, k.wlog.trans h.wlog⟩

theorem Calm.countSubst {s : State} (h : s.red = []) (node n : Nat) : Calm s (s.countSubst node n) := by
  unfold State.countSubst
  split <;> exact ⟨h, rfl⟩

theorem Calm.taken {s : State} (h : s.red = []) (i : Instr) (ts : List Trans) : Calm s (s.taken i ts) := by
  have hfills : Calm s (s.fills ts) := ⟨(fills_caches h ts).red.trans h, fills_wlog h ts⟩
  unfold State.taken State.countTiles
  split
  · exact hfills.trans (.countSubst hfills.red _ _)
  · exact hfills

theorem Calm.foldl {α : Type} {f : State → α → State} (hf : ∀ s a, s.red = [] → Calm s (f s a)) (l : List α) {s : State} (h : s.red = []) :
    Calm s (l.foldl f s) := by
  induction l generalizing s with
  | nil => exact ⟨h, rfl⟩
  | cons a l ih => exact (hf s a h).trans (ih (hf s a h).red)

theorem Calm.settleOwn {s : State} (h : s.red = []) (core : Nat) : Calm s (s.settleOwn core) := by
  unfold State.settleOwn
  refine foldl (fun s p h => ?_) _ h
  dsimp only
  split
  · exact ⟨h, rfl⟩
  split
  · exact ⟨h, rfl⟩
  split
  · split
    · rw [touch_still h]
      exact ⟨h, rfl⟩
    · exact ⟨h, rfl⟩
  · exact ⟨h, rfl⟩

theorem Calm.expects {s : State} (h : s.red = []) (due id : Nat) (got freeze : Bool) (ws : List (PendKind × RegWrite)) :
    Calm s (s.expects due id got freeze ws) := by
  unfold State.expects
  exact foldl (f := fun s (w : PendKind × RegWrite) => s.expect due id w.1 got freeze w.2) (fun s w h => ⟨h, rfl⟩) ws h

theorem Calm.enqueue {s : State} (h : s.red = []) (rank cls scope : Nat) (acq rel own : Bool) (addr : Nat) (via : List Trans) (op : PortOp) :
    Calm s (s.enqueue rank cls scope acq rel own addr via op) := ⟨h, rfl⟩

/-- A state that reads as another where no write has been logged. -/
theorem Calm.sameBytes {s t : State} (h : Calm s t) (hm : t.mem = s.mem) : SameBytes s (t.closed s) := by
  intro k
  rw [State.closed_byte hm, State.byte, State.byte, h.wlog, hm]

/-! ### The move of a base -/

/-- A state in which the move of a form's base, if it has one, is on its way (R104). -/
def State.moving (s : State) (a : BitVec 5) (moved : Option Word64) : State :=
  match moved with
  | some m => s.write (.a a.toNat m) 1
  | none => s

theorem moving_mem (s : State) (a : BitVec 5) (moved : Option Word64) : (s.moving a moved).mem = s.mem := by
  cases moved <;> rfl
theorem moving_wlog (s : State) (a : BitVec 5) (moved : Option Word64) : (s.moving a moved).wlog = s.wlog := by
  cases moved <;> rfl
theorem moving_red (s : State) (a : BitVec 5) (moved : Option Word64) : (s.moving a moved).red = s.red := by
  cases moved <;> rfl

theorem Calm.moving {s : State} (h : s.red = []) (a : BitVec 5) (moved : Option Word64) : Calm s (s.moving a moved) :=
  ⟨(moving_red ..).trans h, moving_wlog ..⟩

theorem expects_dev (s : State) (due id : Nat) (got freeze : Bool) (ws : List (PendKind × RegWrite)) :
    (s.expects due id got freeze ws).dev = s.dev := by
  induction ws generalizing s with
  | nil => rfl
  | cons w ws ih => exact ih (s.expect due id w.1 got freeze w.2)

/-- What a form with a base to move adds to its access: the move, where the slot has taken no fault. -/
structure Moves (f : State → State) (a : BitVec 5) (moved : Option Word64) : Prop where
  live : ∀ t, t.fl.live = true → f t = t.moving a moved
  ended : ∀ t, t.fl.live = false → f t = t

theorem Moves.id (a : BitVec 5) : Moves (fun t => t) a none := ⟨fun _ _ => rfl, fun _ _ => rfl⟩

theorem Moves.bump (pi : BitVec 1) (a : BitVec 5) (m : Word64) : Moves (·.bump pi a m.toNat) a (if pi = 1 then some m else none) where
  live t h := by
    unfold State.bump State.writeA
    by_cases hpi : pi = 1
    · rw [if_pos ⟨hpi, h⟩, if_pos hpi, BitVec.ofNat_toNat, BitVec.setWidth_eq]
      rfl
    · rw [if_neg fun e => hpi e.1, if_neg hpi]
      rfl
  ended t h := by
    unfold State.bump
    rw [if_neg]
    rintro ⟨-, hlive⟩
    rw [h] at hlive
    cases hlive

/-! ### A load of any form -/

/-- A load is sure of its data in time: it names own memory, and arrives no earlier than that memory answers (R107). -/
def sureOf (sp : BitVec 2) (arr : BitVec 10) (keys : List Nat) : Bool :=
  sp == 0 && decide ((if keys.any fun k => k % 8 == 4 then 8 else 6) ≤ arr.toNat)

/-- The state of a load as its data is looked for: its translations are taken, the choice of an arrival is drawn, and earlier loads of own
memory have read. -/
def State.loading (s : State) (i : Instr) (ts : List Trans) (sure own : Bool) : State :=
  let u := s.taken i ts
  let w : State := if sure then u else { u with fresh := u.fresh + 1 }
  if own then w.settleOwn s.myCore else w

/-- A load that has taken its translations, in state `v`: its read stands in the port, or, `now`, its data is that of the read phase. -/
def ReadsOrWaits (s v : State) (ac : BitVec 3) (a : BitVec 5) (arr : BitVec 10) (i : Instr) (scope : Nat) (acq : Bool) (ea : Word64)
    (moved : Option Word64) (ws : List (PendKind × RegWrite)) (landed : List Byte → List ByteSrc → List (PendKind × RegWrite))
    (srcs : List ByteSrc) (ts : List Trans) (now : Bool) : Prop :=
  let keys := placedKeys srcs
  let frozen := arr == 0 || keys.any fun k => k % 8 == 5
  let read := srcs.map v.readFirst
  (now = false → ∃ t, exec i s = .next ((t.moving a moved).closed s) ∧ (s.red = [] → SameBytes s ((t.moving a moved).closed s))
      ∧ Queued (v.expects (s.fl.t + arr.toNat) v.portId false frozen ws) t
        { id := v.portId, bundle := v.me.seq, rank := if acq then 0 else 1, cls := ac.toNat, scope := scope, acq := acq, rel := false
          own := anyOwn s.myCore (placedKeys read), since := v.dev.clock, addr := ea.toNat, via := ts, op := .load read })
  ∧ (now = true → exec i s = .next ((((({ v with portId := v.portId + 1 }).touch keys).expects (s.fl.t + arr.toNat)
      v.portId true false (landed (keys.map s.byte0) srcs)).moving a moved).closed s))

/-- What a load of the slot in flight does: `place` is where its bytes lie, `ws` are its destinations and `landed` the values that data gives
them. It is the outcome that `LoadsLandLater` states of each form. -/
def LoadLands (s : State) (sp : BitVec 2) (ac : BitVec 3) (a : BitVec 5) (arr : BitVec 10) (i : Instr) (place : Placed) (scope : Nat) (acq : Bool)
    (ea : Word64) (moved : Option Word64) (ws : List (PendKind × RegWrite))
    (landed : List Byte → List ByteSrc → List (PendKind × RegWrite)) : Prop :=
  (∀ bytes m, s.capturedLoad = some (bytes, m) → exec i s = .next ((({ s with portId := s.portId + 1 }).expects
      (s.fl.t + arr.toNat) s.portId true false (ws.map fun (w : PendKind × RegWrite) => (w.1, capturedWrite w.2 bytes m))).moving a moved))
    ∧ (∀ e, s.capturedLoad = none → place = .error e → exec i s = .next ((s.accessFault e).closed s))
    ∧ ∀ srcs ts, s.capturedLoad = none → place = .ok (srcs, ts) →
      let keys := placedKeys srcs
      let sure := sureOf sp arr keys
      let v := s.loading i ts sure (allOwn s.myCore keys)
      ReadsOrWaits s v ac a arr i scope acq ea moved ws landed srcs ts (allOwn s.myCore keys && keys.length == srcs.length && !acq && v.ownNow
        && !(keys.any v.isBad) && (sure || (arr != 0 && Config.freeBool (s.taken i ts).fresh)))

section
variable {s : State} {sp : BitVec 2} {ac : BitVec 3} {a : BitVec 5} {arr : BitVec 10} {i : Instr} {place : Placed} {scope : Nat} {acq : Bool}
  {ea : Word64} {moved : Option Word64} {ws : List (PendKind × RegWrite)} {landed : List Byte → List ByteSrc → List (PendKind × RegWrite)}
  {f : State → State}

theorem performs_loading (ts : List Trans) (sure own : Bool) : Performs s (s.loading i ts sure own) := by
  have htaken := Performs.taken s i ts
  have hdrawn : Performs s (if sure then s.taken i ts else { s.taken i ts with fresh := (s.taken i ts).fresh + 1 }) :=
    .ite htaken (htaken.trans (.bump _ _))
  unfold State.loading
  exact .ite (hdrawn.trans (.settleOwn _ _)) hdrawn

theorem calm_loading (h : s.red = []) (ts : List Trans) (sure own : Bool) : Calm s (s.loading i ts sure own) := by
  have htaken := Calm.taken h i ts
  have hdrawn : Calm s (if sure then s.taken i ts else { s.taken i ts with fresh := (s.taken i ts).fresh + 1 }) := by
    split
    · exact htaken
    · exact htaken.trans ⟨htaken.red, rfl⟩
  unfold State.loading
  dsimp only
  split
  · exact hdrawn.trans (.settleOwn hdrawn.red _)
  · exact hdrawn

/-- A load that has taken its translations reads its bytes at once, or waits in the port. -/
def State.readOrWait (v : State) (ws : List (PendKind × RegWrite)) (ea arr cls scope : Nat) (acq now : Bool) (srcs : List ByteSrc)
    (ts : List Trans) : State :=
  let keys := placedKeys srcs
  if allOwn v.myCore keys && keys.length == srcs.length && !acq && v.ownNow && !keys.any v.isBad && now then
    (({ v with portId := v.portId + 1 }).touch keys).expects (v.fl.t + arr) v.portId true false
      (ws.map fun (w : PendKind × RegWrite) => (w.1, loadValue w.2 (v.readOwn keys) srcs))
  else
    (v.expects (v.fl.t + arr) v.portId false (freezesFor arr keys) ws).enqueue (if acq then rankAcquire else rankLoad) cls scope acq false
      (anyOwn v.myCore (placedKeys (srcs.map v.readFirst))) ea ts (.load (srcs.map v.readFirst))

theorem load_placed {srcs : List ByteSrc} {ts : List Trans} (hcap : s.capturedLoad = none) (hplan : s.plan i = some (.ok (srcs, ts)))
    (hb : bounded i = (sp == 0)) :
    let sure := sureOf sp arr (placedKeys srcs)
    s.load i ws ea.toNat arr.toNat ac.toNat scope acq = (s.loading i ts sure (allOwn s.myCore (placedKeys srcs))).readOrWait ws ea.toNat arr.toNat
      ac.toNat scope acq (sure || (arr.toNat != 0 && Config.freeBool (s.taken i ts).fresh)) srcs ts := by
  have hcore : ∀ sure : Bool,
      (if sure = true then s.taken i ts else { s.taken i ts with fresh := (s.taken i ts).fresh + 1 }).myCore = s.myCore := fun sure =>
    (Performs.ite (.taken s i ts) ((Performs.taken s i ts).trans (.bump _ _))).myCore
  have hloading : ∀ sure, s.loading i ts sure (allOwn s.myCore (placedKeys srcs)) =
      let w := if sure = true then s.taken i ts else { s.taken i ts with fresh := (s.taken i ts).fresh + 1 }
      if allOwn w.myCore (placedKeys srcs) then w.settleOwn w.myCore else w := fun sure => by
    dsimp only
    rw [hcore sure]
    rfl
  dsimp only
  rw [hloading]
  unfold sureOf
  rw [← hb]
  unfold State.load
  rw [hcap, hplan]
  rfl

theorem toNat_bne_zero (arr : BitVec 10) : (arr.toNat != 0) = (arr != 0) := by
  rw [Bool.eq_iff_iff, bne_iff_ne, bne_iff_ne]
  exact not_congr ⟨fun h => BitVec.eq_of_toNat_eq h, fun h => by rw [h]; rfl⟩

/-- A base moves in whatever state a load leaves that has taken no fault. -/
theorem readsOrWaits {v : State} {srcs : List ByteSrc} {ts : List Trans} {soon : Bool} (hlive : s.fl.live = true) (hf : Moves f a moved)
    (hv : Performs s v) (hcalm : s.red = [] → Calm s v)
    (hexec : exec i s = done s (f (v.readOrWait ws ea.toNat arr.toNat ac.toNat scope acq soon srcs ts)))
    (hlanded : ∀ bytes srcs, landed bytes srcs = ws.map fun (w : PendKind × RegWrite) => (w.1, loadValue w.2 bytes srcs)) :
    let keys := placedKeys srcs
    ReadsOrWaits s v ac a arr i scope acq ea moved ws landed srcs ts
      (allOwn s.myCore keys && keys.length == srcs.length && !acq && v.ownNow && !(keys.any v.isBad) && soon) := by
  unfold State.readOrWait at hexec
  dsimp only at hexec
  have ht : v.fl.t = s.fl.t := congrArg Flight.t hv.fl
  have hvlive : v.fl.live = true := (congrArg Flight.live hv.fl).trans hlive
  rw [hv.myCore, ht] at hexec
  refine ⟨fun hnow => ?waits, fun hnow => ?reads⟩
  case waits =>
    rw [if_neg (by rw [hnow]; exact Bool.false_ne_true)] at hexec
    have hfrozen : freezesFor arr.toNat (placedKeys srcs) = (arr == 0 || (placedKeys srcs).any fun k => k % 8 == 5) := by
      unfold freezesFor
      rw [← Bool.not_inj_iff, Bool.not_or, Bool.not_or]
      exact congrArg (· && _) (toNat_bne_zero arr)
    rw [hfrozen] at hexec
    generalize (arr == 0 || (placedKeys srcs).any fun k => k % 8 == 5) = frozen at hexec ⊢
    obtain ⟨-, hmem, hfl, hport, hseq⟩ := expects_frame ws v (s.fl.t + arr.toNat) v.portId false frozen
    have hq := enqueue_queued (v.expects (s.fl.t + arr.toNat) v.portId false frozen ws) (if acq then 0 else 1) ac.toNat scope acq false
      (anyOwn s.myCore (placedKeys (srcs.map v.readFirst))) ea.toNat ts (.load (srcs.map v.readFirst))
    rw [hport, hseq, expects_dev] at hq
    rw [hf.live] at hexec
    · refine ⟨_, hexec, fun hred => ?_, hq⟩
      have hexpects := (hcalm hred).trans (.expects (hcalm hred).red (s.fl.t + arr.toNat) v.portId false frozen ws)
      refine Calm.sameBytes ((hexpects.trans (.enqueue hexpects.red ..)).trans (.moving ?_ a moved)) ((moving_mem ..).trans (hmem.trans hv.mem))
      exact hexpects.red
    · exact (congrArg Flight.live hfl).trans hvlive
  case reads =>
    rw [if_pos hnow] at hexec
    have hbytes : v.readOwn (placedKeys srcs) = (placedKeys srcs).map s.byte0 := by
      unfold State.readOwn State.byte0
      rw [hv.fl]
    rw [hexec, hf.live, hbytes, hlanded]
    · exact done_closed ..
    · rw [(expects_frame ..).2.2.1, touch_fl]
      exact hvlive

theorem loadLands (hlog : s.wlog = []) (hlive : s.fl.live = true) (hf : Moves f a moved)
    (hexec : exec i s = done s (f (s.load i ws ea.toNat arr.toNat ac.toNat scope acq))) (hplan : s.plan i = some place)
    (hb : bounded i = (sp == 0))
    (hlanded : ∀ bytes srcs, landed bytes srcs = ws.map fun (w : PendKind × RegWrite) => (w.1, loadValue w.2 bytes srcs)) :
    LoadLands s sp ac a arr i place scope acq ea moved ws landed := by
  refine ⟨fun bytes m hcap => ?captured, fun e hcap hplace => ?fault, fun srcs ts hcap hplace => ?placed⟩
  case captured =>
    obtain ⟨hwlog, hmem, hfl, -, -⟩ := expects_frame (ws.map fun (w : PendKind × RegWrite) => (w.1, capturedWrite w.2 bytes m))
      { s with portId := s.portId + 1 } (s.fl.t + arr.toNat) s.portId true false
    have hload : s.load i ws ea.toNat arr.toNat ac.toNat scope acq = ({ s with portId := s.portId + 1 }).expects
        (s.fl.t + arr.toNat) s.portId true false (ws.map fun (w : PendKind × RegWrite) => (w.1, capturedWrite w.2 bytes m)) := by
      unfold State.load
      rw [hcap]
    have hload_live := congrArg Flight.live hfl
    rw [hexec, hload, hf.live _ (hload_live.trans hlive)]
    exact done_eq ((moving_wlog ..).trans (hwlog.trans hlog)) ((moving_mem ..).trans hmem)
  case fault =>
    have hload : s.load i ws ea.toNat arr.toNat ac.toNat scope acq = s.accessFault e := by
      unfold State.load
      rw [hcap, hplan, hplace]
    have hended : (s.accessFault e).fl.live = false := slotFault_live ..
    rw [hexec, hload, hf.ended _ hended]
    exact done_closed ..
  case placed =>
    rw [hplace] at hplan
    have hload := load_placed (ws := ws) (ea := ea) (ac := ac) (arr := arr) (scope := scope) (acq := acq) hcap hplan hb
    rw [hload, toNat_bne_zero] at hexec
    exact readsOrWaits hlive hf (performs_loading ..) (fun h => calm_loading h ..) hexec hlanded

end

/-! ### The values that data gives -/

theorem szBytes_pos_le (sz : Nat) : 0 < szBytes sz ∧ szBytes sz ≤ 8 := by
  unfold szBytes
  split <;> decide

/-- A scalar's data is its low bytes, with the sign of the forms from SZ 3 on (R72). -/
theorem loadValue_scalar (d sz : Nat) (bytes : List Byte) (srcs : List ByteSrc) :
    let n := szBytes sz
    loadValue (.s d (BitVec.ofNat 64 (n + if 3 ≤ sz then 16 else 0))) bytes srcs =
      .s d (if 3 ≤ sz then (BitVec.ofNat (8 * n) (leNat (bytes.take n))).signExtend 64 else BitVec.ofNat 64 (leNat (bytes.take n))) := by
  obtain ⟨hpos, hle⟩ := szBytes_pos_le sz
  dsimp only
  generalize szBytes sz = n at hpos hle ⊢
  have hlt : leNat (bytes.take n) < 2 ^ (8 * n) := by
    calc leNat (bytes.take n) < 256 ^ (bytes.take n).length := leNat_lt _
      _ ≤ 256 ^ n := Nat.pow_le_pow_right (by decide) (List.length_take_le ..)
      _ = 2 ^ (8 * n) := by rw [Nat.pow_mul]
  unfold loadValue
  by_cases hs : 3 ≤ sz
  · have hnum : (BitVec.ofNat 64 (n + if 3 ≤ sz then 16 else 0)).toNat = n + 16 := by
      rw [if_pos hs, BitVec.toNat_ofNat, Nat.mod_eq_of_lt (by omega)]
    have hval : (BitVec.ofNat (8 * n) (leNat (bytes.take n))).toNat = leNat (bytes.take n) := by
      rw [BitVec.toNat_ofNat, Nat.mod_eq_of_lt hlt]
    have hsign := signExt_eq (by omega) (BitVec.ofNat (8 * n) (leNat (bytes.take n)))
    rw [hval] at hsign
    dsimp only
    rw [hnum, if_pos (by omega), if_pos hs, show (n + 16) % 16 = n by omega, hsign]
    rfl
  · have hnum : (BitVec.ofNat 64 (n + if 3 ≤ sz then 16 else 0)).toNat = n := by
      rw [if_neg hs, BitVec.toNat_ofNat, Nat.mod_eq_of_lt (by omega)]
      omega
    dsimp only
    rw [hnum, if_neg (by omega), if_neg hs, show n % 16 = n by omega]

/-- A vector's data is its bytes, and its mask names those left out (R112). -/
theorem loadValue_vector (v m : Nat) (nr : BitVec 1) (bytes : List Byte) (srcs : List ByteSrc) :
    ((PendKind.load, RegWrite.v v 0) :: if nr = 1 then [(PendKind.landing, RegWrite.m m 0)] else []).map
        (fun (w : PendKind × RegWrite) => (w.1, loadValue w.2 bytes srcs)) =
      (.load, .v v (BitVec.ofNat 1024 (leNat bytes))) :: if nr = 1 then [(.landing, .m m
        (BitVec.ofNat 128 (((srcs.zipIdx).map fun p => if p.1 = .absent then 2 ^ p.2 else 0).sum)))] else [] := by
  by_cases hnr : nr = 1
  · rw [if_pos hnr, if_pos hnr]
    rfl
  · rw [if_neg hnr, if_neg hnr]
    rfl

/-- Rows of a tile take their bytes in turn (R114). -/
theorem loadValue_tile (tile w n : Nat) (bytes : List Byte) (srcs : List ByteSrc) :
    loadValue (.tile tile ((List.range n).map fun i => (128 * i, List.replicate w 0))) bytes srcs =
      .tile tile ((List.range n).map fun i => (128 * i, (bytes.drop (w * i)).take w)) := by
  have hrows : ((List.range n).map fun i => (128 * i, List.replicate w (0 : Byte))).foldl
      (fun (r : List (Nat × List Byte) × List Byte) run => (r.1 ++ [(run.1, r.2.take run.2.length)], r.2.drop run.2.length)) ([], bytes)
      = ((List.range n).map fun i => (128 * i, (bytes.drop (w * i)).take w), bytes.drop (w * n)) := by
    induction n with
    | zero => rfl
    | succ n ih =>
      rw [List.range_succ, List.map_append, List.foldl_append, ih, List.map_append]
      simp [Nat.mul_succ]
  unfold loadValue
  dsimp only
  rw [hrows]

/-! ### The addresses of each form -/

section
variable (s : State) (a : BitVec 5)

theorem strided_eq (r : BitVec 6) (esz : Nat) : strided (s.opA 0 a.toNat) (s.opS 8 r.toNat) esz =
    (List.range (128 / 2 ^ esz)).map fun j => ((s.aArg 0 a + BitVec.ofNat 64 j * s.sArg 8 r).toNat, 2 ^ esz) := by
  rw [State.opA_eq, State.opS_eq]
  unfold strided
  refine List.map_congr_left fun j _ => ?_
  have hmul : BitVec.ofInt 64 ((j : Int) * (s.sArg 8 r).toInt) = BitVec.ofNat 64 j * s.sArg 8 r := by
    rw [BitVec.ofInt_mul, BitVec.ofInt_natCast, BitVec.ofInt_toInt]
  rw [wrapInt_add, signExt_eq (by decide), hmul]

theorem gathered_eq (x : BitVec 9) (esz : Nat) : gathered (s.opA 0 a.toNat) (s.opV 0x100 x.toNat) esz =
    (List.range (min 32 (128 / 2 ^ esz))).map fun j =>
      ((s.aArg 0 a + ((s.vArg 0x100 x).extractLsb' (32 * j) 32).signExtend 64).toNat, 2 ^ esz) := by
  rw [State.opA_eq, State.opV_eq]
  unfold gathered
  refine List.map_congr_left fun j _ => ?_
  have helem : elemAt (s.vArg 0x100 x).toNat 32 j = ((s.vArg 0x100 x).extractLsb' (32 * j) 32).toNat := by
    rw [BitVec.extractLsb'_toNat, Nat.shiftRight_eq_div_pow]
    rfl
  rw [helem, wrapInt_add, signExt_eq (by decide)]
  rfl

theorem tileRows_eq (ea : Word64) (tc : BitVec 32) : tileRows ea.toNat tc =
    (List.range (tcRows tc + 1)).map fun i => ((ea + BitVec.ofNat 64 (128 * i)).toNat, tcBpr tc + 1) := by
  unfold tileRows
  refine List.map_congr_left fun i _ => ?_
  rw [BitVec.toNat_add, BitVec.toNat_ofNat, Nat.add_mod_mod]

/-- The address with its offset of LDV (R104). -/
theorem ldvMoved_eq (b : Word64) (nr : BitVec 1) (addr : BitVec 10) : ldvMoved b.toNat nr addr =
    (b + (if nr = 1 then (addr.extractLsb' 0 6).signExtend 64 else addr.signExtend 64) <<< 7).toNat := by
  have hlow : addr.toNat % 64 = (addr.extractLsb' 0 6).toNat := by simp
  unfold ldvMoved
  split
  · rw [hlow, addOffset_lines b (by decide)]
  · rw [addOffset_lines b (by decide)]

theorem vecMoved_eq (b : Word64) (off : BitVec 10) : vecMoved b.toNat off = (b + off.signExtend 64 <<< 7).toNat :=
  addOffset_lines b (by decide) off

end

/-! ### Each form -/

section
variable (s : State) (sp : BitVec 2) (ac : BitVec 3) (a : BitVec 5) (arr : BitVec 10)

theorem div128_eq_extract (addr : BitVec 10) : addr.toNat / 128 = (addr.extractLsb' 7 3).toNat := by
  rw [BitVec.extractLsb'_toNat, Nat.shiftRight_eq_div_pow]
  have := addr.isLt
  omega

theorem exec_ld (d : BitVec 6) (ord pi : BitVec 1) (addr : BitVec 10) :
    let base := s.aArg 0 a
    let sz := (addr.extractLsb' 7 3).toNat
    let m := base + (addr.extractLsb' 0 7).signExtend 64 * BitVec.ofNat 64 (szBytes sz)
    let ea := if ord = 0 ∧ pi = 0 then m else base
    exec (.ld sp ac d a arr ord pi addr) s = done s ((s.load (.ld sp ac d a arr ord pi addr)
        [(.load, .s d.toNat (BitVec.ofNat 64 (szBytes sz + if 3 ≤ sz then 16 else 0)))] ea.toNat arr.toNat ac.toNat
        (addr.extractLsb' 4 3).toNat (ord == 1)).bump pi a m.toNat)
      ∧ s.plan (.ld sp ac d a arr ord pi addr) = some (s.placeAligned sp.toNat .read false (szBytes sz) ea.toNat (szBytes sz)) := by
  have hscope : bits addr.toNat 4 3 = (addr.extractLsb' 4 3).toNat := by
    rw [BitVec.extractLsb'_toNat, Nat.shiftRight_eq_div_pow]
    rfl
  have hmoved := ldMoved_eq (s.aArg 0 a) addr
  have hea := effective_eq (s.aArg 0 a) _ ord pi _ hmoved
  dsimp only
  constructor
  · show execLd sp ac d a arr ord pi addr s = _
    unfold execLd
    dsimp only
    rw [State.opA_eq, hea, hmoved, hscope, div128_eq_extract]
    simp only [szSigned, decide_eq_true_eq]
  · unfold State.plan
    dsimp only
    rw [State.opA_eq, hea, div128_eq_extract]

theorem exec_ldv (v : BitVec 9) (nr ord pi : BitVec 1) (addr : BitVec 10) :
    let base := s.aArg 0 a
    let m := base + (if nr = 1 then (addr.extractLsb' 0 6).signExtend 64 else addr.signExtend 64) <<< 7
    let ea := if ord = 0 ∧ pi = 0 then m else base
    exec (.ldv sp ac v a arr nr ord pi addr) s = done s ((s.load (.ldv sp ac v a arr nr ord pi addr)
        ((.load, .v v.toNat 0) :: if nr = 1 then [(.landing, .m (addr.extractLsb' 6 4).toNat 0)] else []) ea.toNat arr.toNat ac.toNat
        (addr.extractLsb' 7 3).toNat (ord == 1)).bump pi a m.toNat)
      ∧ s.plan (.ldv sp ac v a arr nr ord pi addr) = some (s.placeAligned sp.toNat .read (nr == 1) 32 ea.toNat 128) := by
  have hmask : addr.toNat / 64 = (addr.extractLsb' 6 4).toNat := by
    rw [BitVec.extractLsb'_toNat, Nat.shiftRight_eq_div_pow]
    have := addr.isLt
    omega
  have hmoved := ldvMoved_eq (s.aArg 0 a) nr addr
  have hea := effective_eq (s.aArg 0 a) _ ord pi _ hmoved
  dsimp only
  constructor
  · show execLdv sp ac v a arr nr ord pi addr s = _
    unfold execLdv
    dsimp only
    rw [State.opA_eq, hea, hmoved, hmask, div128_eq_extract]
    rfl
  · unfold State.plan
    dsimp only
    rw [State.opA_eq, hea]

theorem exec_ldvs (v : BitVec 9) (r : BitVec 6) (esz : BitVec 2) :
    let base := s.aArg 0 a
    exec (.ldvs sp ac v a arr r esz) s = done s (s.load (.ldvs sp ac v a arr r esz) [(.load, .v v.toNat 0)] base.toNat arr.toNat ac.toNat 0 false)
      ∧ s.plan (.ldvs sp ac v a arr r esz) = some (if base.toNat % 32 ≠ 0 then alignFault sp.toNat .read base.toNat
        else s.placeParts sp.toNat .read (2 ^ esz.toNat) ((List.range (128 / 2 ^ esz.toNat)).map fun j =>
          ((base + BitVec.ofNat 64 j * s.sArg 8 r).toNat, 2 ^ esz.toNat))) := by
  dsimp only
  constructor
  · rw [← State.opA_eq]
    rfl
  · rw [← strided_eq, ← State.opA_eq]
    rfl

theorem exec_ldvg (v x : BitVec 9) (esz : BitVec 2) :
    let base := s.aArg 0 a
    exec (.ldvg sp ac v a arr x esz) s = done s (s.load (.ldvg sp ac v a arr x esz) [(.load, .v v.toNat 0)] base.toNat arr.toNat ac.toNat 0 false)
      ∧ s.plan (.ldvg sp ac v a arr x esz) = some (s.placeParts sp.toNat .read (2 ^ esz.toNat)
        ((List.range (min 32 (128 / 2 ^ esz.toNat))).map fun j =>
          ((base + ((s.vArg 0x100 x).extractLsb' (32 * j) 32).signExtend 64).toNat, 2 ^ esz.toNat))) := by
  dsimp only
  constructor
  · rw [← State.opA_eq]
    rfl
  · rw [← gathered_eq]
    rfl

theorem exec_ldt (tile : BitVec 4) (pi : BitVec 1) (off : BitVec 10) :
    let base := s.aArg 0 a
    let m := base + off.signExtend 64 <<< 7
    let ea := if pi = 0 then m else base
    let tc := s.mine.tctlOf tile.toNat
    exec (.ldt sp ac tile a arr pi off) s = done s ((s.load (.ldt sp ac tile a arr pi off)
        [(.landing, .tile tile.toNat ((List.range (tcRows tc + 1)).map fun i => (128 * i, List.replicate (tcBpr tc + 1) 0)))] ea.toNat
        arr.toNat ac.toNat 0 false).bump pi a m.toNat)
      ∧ s.plan (.ldt sp ac tile a arr pi off) = some (if ea.toNat % 128 ≠ 0 then alignFault sp.toNat .read ea.toNat
        else s.placeParts sp.toNat .read 1 ((List.range (tcRows tc + 1)).map fun i =>
          ((ea + BitVec.ofNat 64 (128 * i)).toNat, tcBpr tc + 1))) := by
  have hmoved := vecMoved_eq (s.aArg 0 a) off
  have hea : effective 0 pi.toNat (s.aArg 0 a).toNat (vecMoved (s.aArg 0 a).toNat off) =
      (if pi = 0 then s.aArg 0 a + off.signExtend 64 <<< 7 else s.aArg 0 a).toNat := by
    have h := effective_eq (s.aArg 0 a) _ 0 pi _ hmoved
    simp only [true_and] at h
    exact h
  dsimp only
  constructor
  · show execLdt sp ac tile a arr pi off s = _
    unfold execLdt
    dsimp only
    rw [State.opA_eq, hea, hmoved]
  · unfold State.plan
    dsimp only
    rw [State.opA_eq, hea, tileRows_eq]

end

/-- Settles O31: each form is a load (`loadLands`) at its own addresses and with its own destinations. -/
theorem loadsLandLater : Obligations.LoadsLandLater := by
  intro s sp esz ac d r v x a arr addr ord pi nr tile hlog hlive
  refine ⟨?ld, ?ldv, ?ldvs, ?ldvg, ?ldt⟩
  case ld =>
    obtain ⟨hexec, hplan⟩ := exec_ld s sp ac a arr d ord pi addr
    exact loadLands hlog hlive (.bump ..) hexec hplan rfl fun bytes srcs => by rw [List.map_singleton, loadValue_scalar]
  case ldv =>
    obtain ⟨hexec, hplan⟩ := exec_ldv s sp ac a arr v nr ord pi addr
    exact loadLands hlog hlive (.bump ..) hexec hplan rfl fun bytes srcs => (loadValue_vector ..).symm
  case ldvs =>
    obtain ⟨hexec, hplan⟩ := exec_ldvs s sp ac a arr v r esz
    exact loadLands hlog hlive (.id a) hexec hplan rfl fun bytes srcs => rfl
  case ldvg =>
    obtain ⟨hexec, hplan⟩ := exec_ldvg s sp ac a arr v x esz
    exact loadLands hlog hlive (.id a) hexec hplan rfl fun bytes srcs => rfl
  case ldt =>
    obtain ⟨hexec, hplan⟩ := exec_ldt s sp ac a arr tile pi addr
    exact loadLands hlog hlive (.bump ..) hexec hplan rfl fun bytes srcs => by rw [List.map_singleton, loadValue_tile]

end Sys2Proof.Machine
end

section
/-! PROOFS. Atomics and reductions of the MEM slots (R74, R116, R117, R265; log entry 22). -/

namespace Sys2Proof.Machine

/-! ### Draining and filling draw no number of an access -/

section
variable (s : State)

theorem portId_foldl {α : Type} {f : State → α → State} (hf : ∀ s a, (f s a).portId = s.portId) (l : List α) :
    (l.foldl f s).portId = s.portId := by
  induction l generalizing s with
  | nil => rfl
  | cons a l ih => exact (ih _).trans (hf s a)

theorem portId_pokes (cells : List (Nat × Byte)) : (s.pokes cells).portId = s.portId := by
  obtain ⟨l, h⟩ := State.pokes_frame cells s
  rw [h]

theorem portId_countSubst (node n : Nat) : (s.countSubst node n).portId = s.portId := by
  unfold State.countSubst
  split <;> rfl

theorem portId_unpoison (keys : List Nat) : (s.unpoison keys).portId = s.portId := by
  unfold State.unpoison
  split <;> rfl

theorem portId_sendHost (relaxed : Bool) (cells : List (Nat × Byte)) : (s.sendHost relaxed cells).portId = s.portId := by
  unfold State.sendHost
  dsimp only
  split <;> rfl

theorem portId_refreshCopies (core : Nat) (keys : List Nat) : (s.refreshCopies core keys).portId = s.portId := by
  unfold State.refreshCopies
  refine portId_foldl _ (fun s o => ?_) _
  dsimp only
  split <;> rfl

theorem portId_putIn (e : RedEntry) (x : Nat) : (e.putIn x s).portId = s.portId := by
  unfold RedEntry.putIn
  rw [portId_sendHost, portId_foldl _ (fun s k => portId_refreshCopies s k _), portId_pokes]

theorem portId_drainEntry (e : RedEntry) : (drainEntry s e).portId = s.portId := by
  unfold drainEntry
  dsimp only
  split
  · exact portId_putIn ..
  · rw [portId_unpoison, portId_putIn, portId_countSubst]
  · rfl

theorem portId_touch (keys : List Nat) : (s.touch keys).portId = s.portId := by
  unfold State.touch State.drainRed
  split
  · rfl
  · exact portId_foldl _ portId_drainEntry _

theorem portId_hold (t : Trans) (n : Nat) (p : Trans → Bool) : (s.hold t n p).portId = s.portId := by
  obtain ⟨_, _, _, _, _, h⟩ := hold_caches s t n p
  rw [h]

theorem portId_fill (t : Trans) : (s.fill t).portId = s.portId := by
  have hhost : (s.cacheHost t).portId = s.portId := by
    obtain ⟨_, _, _, _, _, h⟩ := cacheHost_caches s t
    rw [h]
  have hpath : ∀ (u : State) d l, (u.keepPath d l).portId = u.portId := fun u d l => by
    obtain ⟨_, _, _, _, _, h⟩ := keepPath_caches u d l
    rw [h]
  unfold State.fill
  dsimp only
  split
  · rw [portId_touch, hhost]
  · rw [hpath, portId_hold, portId_hold, portId_touch, hhost]

theorem portId_taken (i : Instr) (ts : List Trans) : (s.taken i ts).portId = s.portId := by
  have hfills : (s.fills ts).portId = s.portId := portId_foldl s portId_fill ts
  unfold State.taken State.countTiles
  split
  · rw [portId_countSubst, hfills]
  · exact hfills

/-- Taking translations leaves every context. -/
theorem ctx_taken (i : Instr) (ts : List Trans) (c : Nat) : (s.taken i ts).ctx c = s.ctx c := by
  unfold State.taken State.countTiles
  exact Aside.ctx ((Aside.fills s ts).trans (.ite (.countSubst ..) .refl)) c

theorem me_taken (i : Instr) (ts : List Trans) : (s.taken i ts).me = s.me := by
  rw [State.me, (Performs.taken s i ts).fl, ctx_taken]
  rfl

/-- Taking translations leaves the operands of the slot in flight. -/
theorem opS_taken (i : Instr) (ts : List Trans) (off n : Nat) : (s.taken i ts).opS off n = s.opS off n := by
  unfold State.opS
  rw [me_taken, (Performs.taken s i ts).fl]

theorem opA_taken (i : Instr) (ts : List Trans) (off n : Nat) : (s.taken i ts).opA off n = s.opA off n := by
  unfold State.opA
  rw [me_taken, (Performs.taken s i ts).fl]

end

/-! ### The two forms -/

section
variable {s : State} {sp : BitVec 2} {ac scope : BitVec 3} {d sr : BitVec 6} {a : BitVec 5} {aop : BitVec 4} {w64 acq rel ord : BitVec 1}

/-- Bytes of an atomic's word. -/
def wordBytes (w64 : BitVec 1) : Nat := if w64 = 1 then 8 else 4

/-- The place of an atomic's word. -/
def State.atomicPlace (s : State) (sp : BitVec 2) (a : BitVec 5) (w64 : BitVec 1) : Placed :=
  s.placeAligned sp.toNat .write false (wordBytes w64) (s.aArg 0 a).toNat (wordBytes w64)

/-- The value that AMO's compare form compares with. -/
def State.casArg (s : State) (d : BitVec 6) (aop : BitVec 4) : Nat := if aop = 11 then (s.sArg 16 d).toNat else 0

/-- AMO's destination on its way, with its data (`got`) or without. -/
def State.oldValuePend (s : State) (sp : BitVec 2) (d : BitVec 6) (keys : List Nat) (got : Bool) (w : Word64) : Pend :=
  { due := s.fl.t + amoArrival sp, kind := .load, id := s.portId, got := got, ready := got, freeze := keys.any fun k => k % 8 == 5
    w := .s d.toNat w }

def State.awaiting (s : State) (sp : BitVec 2) (d : BitVec 6) (keys : List Nat) (got : Bool) (w : Word64) : Ctx :=
  { s.me with pend := pendInsert (s.oldValuePend sp d keys got w) s.me.pend }

theorem exec_amo_fault {e : AFault} (hplace : s.atomicPlace sp a w64 = .error e) :
    exec (.amo sp ac d sr a scope aop w64 acq rel) s = .next ((s.accessFault e).closed s) := by
  have hplan : s.plan (.amo sp ac d sr a scope aop w64 acq rel) = some (.error e) := by
    rw [← hplace, State.atomicPlace, ← State.opA_eq]
    rfl
  show execAmo sp ac d sr a scope aop w64 acq rel s = _
  unfold execAmo
  rw [hplan]
  exact done_closed ..

theorem exec_red_fault {e : AFault} (hplace : s.atomicPlace sp a w64 = .error e) :
    exec (.red sp ac sr a scope aop w64 rel ord) s = .next ((s.accessFault e).closed s) := by
  have hplan : s.plan (.red sp ac sr a scope aop w64 rel ord) = some (.error e) := by
    rw [← hplace, State.atomicPlace, ← State.opA_eq]
    rfl
  show execRed sp ac sr a scope aop w64 rel ord s = _
  unfold execRed
  rw [hplan]
  exact done_closed ..

variable {srcs : List ByteSrc} {ts : List Trans} (hplace : s.atomicPlace sp a w64 = .ok (srcs, ts))
include hplace

omit hplace in
theorem expect_taken (i : Instr) (w : Word64) :
    let u := s.taken i ts
    u.expect (u.fl.t + amoArrival sp) u.portId .load false (freezesFor 1 (placedKeys srcs)) (.s d.toNat w) =
      u.setMe (s.awaiting sp d (placedKeys srcs) false w) := by
  dsimp only [State.awaiting, State.oldValuePend]
  rw [← me_taken s i ts, ← portId_taken s i ts, ← (Performs.taken s i ts).fl]
  rfl

theorem exec_amo : exec (.amo sp ac d sr a scope aop w64 acq rel) s =
    .next (((((s.taken (.amo sp ac d sr a scope aop w64 acq rel) ts).setMe
      (s.awaiting sp d (placedKeys srcs) false (BitVec.ofNat 64 (wordBytes w64)))).access (if rel = 1 then 3 else if acq = 1 then 0 else 2)
      ac.toNat scope.toNat (acq == 1 || ts.any fun t => t.dup) (rel == 1) (s.aArg 0 a).toNat ts
      (.amo aop.toNat (wordBytes w64) srcs (s.sArg 8 sr).toNat (s.casArg d aop))).closed s)) := by
  have hplan : s.plan (.amo sp ac d sr a scope aop w64 acq rel) = some (.ok (srcs, ts)) := by
    rw [← hplace, State.atomicPlace, ← State.opA_eq]
    rfl
  show execAmo sp ac d sr a scope aop w64 acq rel s = _
  unfold execAmo
  rw [hplan]
  dsimp only
  rw [expect_taken, opA_taken, opS_taken, opS_taken, State.opA_eq, State.opS_eq, State.opS_eq]
  exact done_closed ..

theorem exec_red : exec (.red sp ac sr a scope aop w64 rel ord) s =
    .next (((s.taken (.red sp ac sr a scope aop w64 rel ord) ts).access (if rel = 1 then 3 else 2) ac.toNat scope.toNat
      (ts.any fun t => t.dup) (rel == 1) (s.aArg 0 a).toNat ts (.red aop.toNat (wordBytes w64) (ord == 1) srcs (s.sArg 8 sr).toNat)).closed s) := by
  have hplan : s.plan (.red sp ac sr a scope aop w64 rel ord) = some (.ok (srcs, ts)) := by
    rw [← hplace, State.atomicPlace, ← State.opA_eq]
    rfl
  show execRed sp ac sr a scope aop w64 rel ord s = _
  unfold execRed
  rw [hplan]
  dsimp only
  rw [opA_taken, opS_taken, State.opA_eq, State.opS_eq]
  exact done_closed ..

end

end Sys2Proof.Machine
end

section
/-! PROOFS. Atomics and reductions of own memory act at once (R116, R117; log entry 22). -/

namespace Sys2Proof.Machine

/-! ### Numbers and their bytes -/

theorem leBytes_length (n x : Nat) : (leBytes n x).length = n := by
  induction n generalizing x with
  | zero => rfl
  | succ n ih => exact congrArg (· + 1) (ih _)

theorem leBytes_getElem? (n x j : Nat) : (leBytes n x)[j]? = if j < n then some (BitVec.ofNat 8 (x / 256 ^ j)) else none := by
  induction n generalizing x j with
  | zero => simp [leBytes]
  | succ n ih =>
    cases j with
    | zero => simp [leBytes]
    | succ j => simp [leBytes, ih, Nat.div_div_eq_div_mul, Nat.pow_succ, Nat.mul_comm]

theorem leNat_leBytes (n x : Nat) : leNat (leBytes n x) = x % 256 ^ n := by
  induction n generalizing x with
  | zero => simp [leBytes, leNat, Nat.mod_one]
  | succ n ih =>
    have hsplit := Nat.mod_mul (x := x) (a := 256) (b := 256 ^ n)
    rw [← Nat.pow_succ'] at hsplit
    simp [leBytes, leNat, ih, hsplit]

theorem map_fst_cellsAt (keys : List Nat) (x : Nat) : (cellsAt keys x).map (·.1) = keys := by
  unfold cellsAt
  exact List.map_fst_zip (leBytes_length ..).ge

theorem mem_cellsAt {keys : List Nat} {j k : Nat} (h : keys[j]? = some k) (x : Nat) : (k, BitVec.ofNat 8 (x / 256 ^ j)) ∈ cellsAt keys x := by
  obtain ⟨hj, -⟩ := List.getElem?_eq_some_iff.1 h
  refine List.mem_of_getElem? (i := j) ?_
  rw [cellsAt, List.getElem?_zip_eq_some]
  exact ⟨h, by rw [leBytes_getElem?, if_pos hj]⟩

/-- A word's value is all its bytes. -/
theorem loadValue_word (d : Nat) (w64 : BitVec 1) (m : Nat) (srcs : List ByteSrc) :
    loadValue (.s d (BitVec.ofNat 64 (wordBytes w64))) (leBytes (wordBytes w64) m) srcs = .s d (BitVec.ofNat 64 (m % 2 ^ (8 * wordBytes w64))) := by
  have hn : wordBytes w64 = 8 ∨ wordBytes w64 = 4 := ite_eq_or_eq ..
  have htake : (leBytes (wordBytes w64) m).take (wordBytes w64) = leBytes (wordBytes w64) m :=
    List.take_of_length_le (leBytes_length ..).le
  have hnum : (BitVec.ofNat 64 (wordBytes w64)).toNat = wordBytes w64 := by rcases hn with h | h <;> rw [h] <;> rfl
  have hplain : wordBytes w64 / 16 ≠ 1 ∧ wordBytes w64 % 16 = wordBytes w64 := by rcases hn with h | h <;> rw [h] <;> decide
  unfold loadValue
  dsimp only
  rw [hnum, if_neg hplain.1, hplain.2, htake, leNat_leBytes, Nat.pow_mul]

/-! ### Own memory -/

theorem placedKeys_key (keys : List Nat) : placedKeys (keys.map .key) = keys := by
  unfold placedKeys
  rw [List.filterMap_map]
  exact List.filterMap_some

section
variable {s : State}

theorem not_host_of_own {core : Nat} {keys : List Nat} (h : allOwn core keys = true) : ∀ k ∈ keys, k % 8 ≠ 5 := by
  intro k hk hhost
  unfold allOwn at h
  have hown := List.all_eq_true.1 (Bool.and_eq_true_iff.1 h).2 k hk
  rw [beq_iff_eq, ownCoreOf, if_neg (by omega), if_neg (by omega)] at hown
  cases hown

/-- Nothing that reaches own memory stands before an access of the bundle in flight, so no load has to read before it. -/
theorem settleOwn_of_ownNow (h : s.ownNow = true) : s.settleOwn s.myCore = s := by
  have hports : ∀ j ∈ List.range 4, ((s.ctx (4 * s.myCore + j)).port.filter (·.own)) = [] := by
    intro j hj
    unfold State.ownNow at h
    simp only [Bool.and_eq_true, Bool.not_eq_true', List.any_eq_false] at h
    obtain ⟨⟨-, hnone⟩, -⟩ := h
    refine List.filter_eq_nil_iff.2 fun i hi => ?_
    have := hnone j hj
    rw [Bool.not_eq_true, List.any_eq_false, Nat.mul_comm] at this
    exact this i hi
  have hitems : s.ownItems s.myCore = [] := by
    unfold State.ownItems
    rw [List.flatMap_eq_nil_iff.2 fun j hj => by rw [hports j hj]; rfl]
    rfl
  rw [State.settleOwn, hitems]
  rfl

theorem wlog_refreshCopies (core : Nat) (keys : List Nat) : (s.refreshCopies core keys).wlog = s.wlog := by
  unfold State.refreshCopies
  induction s.l1Cores core generalizing s with
  | nil => rfl
  | cons o l ih =>
    refine ih.trans ?_
    dsimp only
    split <;> rfl

theorem byte_refreshCopies (core : Nat) (keys : List Nat) (k : Nat) : (s.refreshCopies core keys).byte k = s.byte k := by
  rw [State.byte, State.byte, wlog_refreshCopies, (Performs.refreshCopies s core keys).mem]

/-- The caches of translations hold no error. -/
theorem Caches.anyBad {t : State} (h : Caches s t) : t.anyBad = s.anyBad := by
  obtain ⟨_, _, _, _, _, rfl⟩ := h
  rfl

/-- Taking translations changes their caches alone, where no reduction is pending and no data is bad. -/
theorem Caches.taken (hred : s.red = []) (hgood : s.anyBad = false) (i : Instr) (ts : List Trans) : Caches s (s.taken i ts) := by
  have hfills := fills_caches hred ts
  unfold State.taken State.countTiles
  rw [hfills.anyBad, hgood, if_neg (by rintro ⟨-, h⟩; cases h)]
  exact hfills

theorem dropsKey_eq (k : Nat) : s.dropsKey k = s.drops k := by
  unfold State.dropsKey State.drops
  cases pmCoreOf k <;> rfl

/-- A word's contribution of a context as an entry of its own. -/
def State.contribution (s : State) (c op n : Nat) (ordered : Bool) (keys : List Nat) (arg id : Nat) : RedEntry where
  key := keys.headD 0
  keys := keys
  op := op
  bytes := n
  ordered := ordered
  acc := arg
  lanes := 2 ^ (n / 2) - 1
  parts := [(coreOf c, id, arg)]
  ctxs := [c]
  soft := none
  relaxed := true
  born := s.now

theorem redEntry_eq {n : Nat} (hn : n ≠ 2) (c op : Nat) (ordered : Bool) (keys : List Nat) (arg id : Nat) :
    s.redEntry c op n ordered keys arg id none true = s.contribution c op n ordered keys arg id := by
  unfold State.redEntry State.contribution
  dsimp only
  simp only [if_neg hn]

/-- Cells stored and a context written, as the next step finds them. -/
theorem stored {r : State} (hmem : s.mem = r.mem) (cells : List (Nat × Byte)) (core : Nat) (keys : List Nat) (c : Nat) (x : Ctx) :
    let t := (((s.pokes cells).refreshCopies core keys).setCtx c x).closed r
    (∀ k, t.byte k = (s.pokes cells).byte k) ∧ t.fl = s.fl ∧ t.ctx c = x := by
  have hcopies := (Performs.pokes s cells).trans (.refreshCopies _ core keys)
  refine ⟨fun k => ?_, hcopies.fl, State.ctx_setCtx ..⟩
  exact (State.closed_byte (hcopies.mem.trans hmem) k).trans (byte_refreshCopies core keys k)

/-- The state whose next access number has been drawn. -/
def State.drawn (s : State) : State := { s with portId := s.portId + 1 }

/-- An access of the slot in flight to its own memory that neither acquires nor releases. -/
def State.itemNow (s : State) (rank cls scope addr : Nat) (via : List Trans) (op : PortOp) : PortItem where
  id := s.portId
  bundle := s.me.seq
  rank := rank
  cls := cls
  scope := scope
  acq := false
  rel := false
  own := true
  since := s.dev.clock
  addr := addr
  via := via
  op := op

/-- An access of the slot in flight to its own memory acts at once: nothing stands before it, no reduction is pending, and no data is bad. -/
structure ActsNow (s : State) (keys : List Nat) : Prop where
  own : allOwn s.myCore keys = true
  now : s.ownNow = true
  red : s.red = []
  good : s.anyBad = false

namespace ActsNow

variable {keys : List Nat}

theorem taken (h : ActsNow s keys) (i : Instr) (ts : List Trans) : ActsNow (s.taken i ts) keys := by
  have hcaches := Caches.taken h.red h.good i ts
  refine ⟨?own, ?now, hcaches.red.trans h.red, hcaches.anyBad.trans h.good⟩
  all_goals obtain ⟨_, _, _, _, _, he⟩ := hcaches; rw [he]
  case own => exact h.own
  case now => exact h.now

theorem ownNow_setMe {x : Ctx} (hport : x.port = s.me.port) : (s.setMe x).ownNow = s.ownNow := by
  have hports : ∀ c, ((s.setMe x).ctx c).port = (s.ctx c).port := by
    intro c
    by_cases hc : c = s.fl.ctx
    · rw [hc, State.setMe, State.ctx_setCtx, hport]
      rfl
    · rw [State.setMe, State.ctx_setCtx_ne _ _ _ hc]
  unfold State.ownNow State.me
  simp only [hports]
  rfl

theorem setMe (h : ActsNow s keys) {x : Ctx} (hport : x.port = s.me.port) : ActsNow (s.setMe x) keys :=
  ⟨h.own, (ownNow_setMe hport).trans h.now, h.red, h.good⟩

theorem clean (h : ActsNow s keys) : s.dev.poison = [] ∧ s.dev.stacksGone = 0 ∧ s.dev.channelsGone = 0 := by
  have hgood := h.good
  unfold State.anyBad at hgood
  simpa [and_assoc] using hgood

/-- An access that acts at once performs with nothing before it. -/
theorem access_eq {op : PortOp} (h : ActsNow s (opKeys op)) (rank cls scope addr : Nat) (via : List Trans) :
    s.access rank cls scope false false addr via op = s.drawn.perform s.fl.ctx (s.itemNow rank cls scope addr via op) := by
  unfold State.access
  dsimp only
  rw [if_pos h.own, settleOwn_of_ownNow h.now, h.own, h.now]
  rfl

theorem drawn (h : ActsNow s keys) : ActsNow s.drawn keys := ⟨h.own, h.now, h.red, h.good⟩

theorem demote_eq {via : List Trans} (hdup : (via.any fun t => t.dup) = false) : s.demote via keys = s := by
  unfold State.demote
  rw [List.filter_eq_nil_iff.2 fun t ht => ?_]
  · rfl
  · have := List.any_eq_false.1 hdup t ht
    simp [this]

/-- A word of own memory is stored, and the copies of its line follow. -/
theorem landStore_eq (h : ActsNow s keys) {i : PortItem} (hdup : (i.via.any fun t => t.dup) = false) (c x : Nat) :
    s.landStore c i (cellsAt keys x) = (s.pokes (cellsAt keys x)).refreshCopies (coreOf c) keys := by
  obtain ⟨hpoison, -, -⟩ := h.clean
  have hlocal : (cellsAt keys x).filter (fun p => p.1 % 8 == 5) = [] := by
    refine List.filter_eq_nil_iff.2 fun p hp => ?_
    have hkey : p.1 ∈ keys := map_fst_cellsAt keys x ▸ List.mem_map_of_mem hp
    simpa using not_host_of_own h.own p.1 hkey
  unfold State.landStore State.storeVia State.storeCells State.unpoison State.sendHost
  dsimp only
  rw [map_fst_cellsAt, demote_eq hdup, touch_still h.red, if_pos hpoison, hlocal, if_pos rfl]

/-- No data of an access that acts at once fails or is substituted, and it asks the host for nothing. -/
theorem meet_eq {i : PortItem} (h : ActsNow s (opKeys i.op)) (hacq : i.acq = false) (c : Nat) (srcs : List ByteSrc) :
    s.firstHard srcs = none ∧ s.meet c i srcs = s := by
  have hgood : ∀ {α : Type} (x y : α), (if s.anyBad then x else y) = y := fun x y => if_neg (by rw [h.good]; exact Bool.false_ne_true)
  have hsoft : s.softGranules srcs = [] := hgood ..
  have hlocal : (opKeys i.op).filter (fun k => k % 8 == 5) = [] :=
    List.filter_eq_nil_iff.2 fun k hk => by simpa using not_host_of_own h.own k hk
  refine ⟨hgood .., ?_⟩
  unfold State.meet State.askHost State.countSubst
  dsimp only
  rw [hlocal, hsoft, hacq, if_pos rfl]
  rfl

/-- An atomic on own memory stores its new word, and its old one is its data. -/
theorem perform_amo_eq {i : PortItem} {op n arg cmp : Nat} (hop : i.op = .amo op n (keys.map .key) arg cmp) (h : ActsNow s keys)
    (hacq : i.acq = false) (hrel : i.rel = false) (hdup : (i.via.any fun t => t.dup) = false) (c : Nat) :
    let old := leNat (keys.map s.byte)
    s.perform c i = ((s.pokes (cellsAt keys (atomicNew op n old arg cmp))).refreshCopies (coreOf c) keys).setCtx c
      ((s.ctx c).deliver i.id (leBytes n old) (keys.map .key)) := by
  have hkeys : opKeys i.op = keys := by rw [hop]; exact placedKeys_key keys
  obtain ⟨hhard, hmeet⟩ := meet_eq (hkeys ▸ h) hacq c (keys.map .key)
  have hbytes : s.goodBytes s.byte (keys.map .key) = keys.map s.byte := by
    unfold State.goodBytes
    rw [List.map_map]
    rfl
  unfold State.perform
  rw [hrel, if_neg Bool.false_ne_true, hop]
  dsimp only
  rw [← hop, hkeys, touch_still h.red, hhard]
  dsimp only
  rw [hmeet, hbytes, landStore_eq h hdup, (Aside.refreshCopies ..).ctx, State.pokes_ctx]

theorem perform_amo {r : State} (hmem : s.mem = r.mem) {i : PortItem} {op n arg cmp : Nat}
    (hop : i.op = .amo op n (keys.map .key) arg cmp) (h : ActsNow s keys) (hacq : i.acq = false) (hrel : i.rel = false)
    (hdup : (i.via.any fun t => t.dup) = false) (hdistinct : keys.Nodup) (hdrops : ∀ k ∈ keys, s.drops k = false) (c : Nat) :
    let t := (s.perform c i).closed r
    let old := leNat (keys.map s.byte)
    t.fl = s.fl ∧ t.ctx c = (s.ctx c).deliver i.id (leBytes n old) (keys.map .key) ∧ SameBytesBut keys s t
      ∧ ∀ j k, keys[j]? = some k → t.byte k = BitVec.ofNat 8 (atomicNew op n old arg cmp / 256 ^ j) := by
  dsimp only
  rw [perform_amo_eq hop h hacq hrel hdup]
  generalize leNat (keys.map s.byte) = old
  obtain ⟨hbyte, hfl, hctx⟩ := stored hmem (cellsAt keys (atomicNew op n old arg cmp)) (coreOf c) keys c
    ((s.ctx c).deliver i.id (leBytes n old) (keys.map .key))
  refine ⟨hfl, hctx, fun k hk => ?other, fun j k hj => ?written⟩
  case other => exact (hbyte k).trans (State.byte_pokes_other _ _ _ (by rwa [map_fst_cellsAt]))
  case written =>
    refine (hbyte k).trans (State.byte_pokes_mem _ _ (by rwa [map_fst_cellsAt]) (mem_cellsAt hj _) ?_)
    exact hdrops k (List.mem_of_getElem? hj)

/-- A contribution to own memory stands at its port alone. -/
theorem perform_red {i : PortItem} {op n arg : Nat} {ordered : Bool} (hop : i.op = .red op n ordered (keys.map .key) arg) (h : ActsNow s keys)
    (hn : n ≠ 2) (hdrops : ∀ k ∈ keys, s.drops k = false) (hrel : i.rel = false) (hdup : (i.via.any fun t => t.dup) = false) (c : Nat) :
    s.perform c i = { s with red := [s.contribution c op n ordered keys arg i.id] } := by
  have hkeys : opKeys i.op = keys := by rw [hop]; exact placedKeys_key keys
  obtain ⟨-, hstacks, hchannels⟩ := h.clean
  have hgone : s.firstGone keys = none := if_pos ⟨hstacks, hchannels⟩
  unfold State.perform
  rw [hrel, if_neg Bool.false_ne_true, hop]
  dsimp only
  rw [← hop, hkeys, hgone]
  dsimp only
  rw [demote_eq hdup, if_neg]
  case hnc =>
    rw [List.any_map, Bool.not_eq_true]
    exact List.any_eq_false.2 fun k _ => Bool.false_ne_true
  show s.addRed c op n ordered keys arg i.id none true = _
  unfold State.addRed State.joinRed
  dsimp only
  rw [redEntry_eq hn, if_neg, h.red]
  case hnc =>
    show ¬ keys.any s.dropsKey = true
    simpa using fun k hk => dropsKey_eq (s := s) k ▸ hdrops k hk
  rfl

/-- An atomic of own memory: its old word has come, and its new one stands in memory. -/
theorem access_amo {r : State} (h : ActsNow s keys) (hmem : s.mem = r.mem) {ts : List Trans} (hdup : (ts.any fun t => t.dup) = false)
    (hdistinct : keys.Nodup) (hdrops : ∀ k ∈ keys, s.drops k = false) (rank cls scope addr op n arg cmp : Nat) :
    let t := (s.access rank cls scope false false addr ts (.amo op n (keys.map .key) arg cmp)).closed r
    let old := leNat (keys.map s.byte)
    t.me = s.me.deliver s.portId (leBytes n old) (keys.map .key) ∧ SameBytesBut keys s t
      ∧ ∀ j k, keys[j]? = some k → t.byte k = BitVec.ofNat 8 (atomicNew op n old arg cmp / 256 ^ j) := by
  have hkeys : opKeys (.amo op n (keys.map .key) arg cmp) = keys := placedKeys_key keys
  dsimp only
  rw [(hkeys.symm ▸ h : ActsNow s (opKeys (.amo op n (keys.map .key) arg cmp))).access_eq]
  obtain ⟨hfl, hctx, hother, hwritten⟩ := perform_amo (s := s.drawn) (i := s.itemNow rank cls scope addr ts (.amo op n (keys.map .key) arg cmp))
    hmem rfl h.drawn rfl rfl hdup hdistinct hdrops s.fl.ctx
  exact ⟨(congrArg (fun f : Flight => State.ctx _ f.ctx) hfl).trans hctx, hother, hwritten⟩

/-- A reduction of own memory: it stands at its port alone. -/
theorem access_red {r : State} (h : ActsNow s keys) (hmem : s.mem = r.mem) {ts : List Trans} (hdup : (ts.any fun t => t.dup) = false)
    (hdrops : ∀ k ∈ keys, s.drops k = false) {n : Nat} (hn : n ≠ 2) (rank cls scope addr op arg : Nat) (ordered : Bool) :
    let t := (s.access rank cls scope false false addr ts (.red op n ordered (keys.map .key) arg)).closed r
    t.me = s.me ∧ SameBytes s t ∧ t.red = [s.contribution s.fl.ctx op n ordered keys arg s.portId] := by
  have hkeys : opKeys (.red op n ordered (keys.map .key) arg) = keys := placedKeys_key keys
  dsimp only
  rw [(hkeys.symm ▸ h : ActsNow s (opKeys (.red op n ordered (keys.map .key) arg))).access_eq, h.drawn.perform_red rfl hn hdrops rfl hdup]
  exact ⟨rfl, State.closed_byte hmem, rfl⟩

end ActsNow

end

/-! ### The two forms on own memory -/

/-- What an access finds once its translations are taken, where it acts at once. -/
structure TakenNow (s u : State) (keys : List Nat) : Prop where
  acts : ActsNow u keys
  performs : Performs s u
  portId : u.portId = s.portId
  me : u.me = s.me
  now : u.now = s.now
  byte : ∀ k, u.byte k = s.byte k
  drops : ∀ k, u.drops k = s.drops k

theorem ActsNow.takenNow {s : State} {keys : List Nat} (h : ActsNow s keys) (i : Instr) (ts : List Trans) :
    TakenNow s (s.taken i ts) keys := by
  obtain ⟨_, _, _, _, _, he⟩ := Caches.taken h.red h.good i ts
  exact ⟨h.taken i ts, .taken s i ts, portId_taken s i ts, me_taken s i ts, (congrArg State.now he :),
    fun k => (congrArg (State.byte · k) he :), fun k => (congrArg (State.drops · k) he :)⟩

theorem pendInsert_map {f : Pend → Pend} {p : Pend} {l : List Pend} (hdue : (f p).due = p.due) (hother : ∀ q ∈ l, f q = q) :
    (pendInsert p l).map f = pendInsert (f p) l := by
  induction l with
  | nil => rfl
  | cons q l ih =>
    have hq : f q = q := hother q List.mem_cons_self
    have hl : l.map f = l := (List.map_congr_left fun x hx => hother x (List.mem_cons_of_mem q hx)).trans (List.map_id l)
    unfold pendInsert
    rw [hdue]
    split
    · rw [List.map_cons, List.map_cons, hq, hl]
    · rw [List.map_cons, hq, ih fun x hx => hother x (List.mem_cons_of_mem q hx)]

section
variable {s : State} {sp : BitVec 2} {ac scope : BitVec 3} {d sr : BitVec 6} {a : BitVec 5} {aop : BitVec 4} {w64 ord : BitVec 1}
  {keys : List Nat} {ts : List Trans}

/-- The old word stands in the destination that waits for it. -/
theorem deliver_awaiting (hids : ∀ p ∈ s.me.pend, p.id ≠ s.portId) (hlocal : ∀ k ∈ keys, k % 8 ≠ 5) (m : Nat) (srcs : List ByteSrc) :
    (s.awaiting sp d keys false (BitVec.ofNat 64 (wordBytes w64))).deliver s.portId (leBytes (wordBytes w64) m) srcs =
      s.awaiting sp d keys true (BitVec.ofNat 64 (m % 2 ^ (8 * wordBytes w64))) := by
  have hfreeze : (keys.any fun k => k % 8 == 5) = false := List.any_eq_false.2 fun k hk => by simpa using hlocal k hk
  unfold State.awaiting Ctx.deliver
  dsimp only
  rw [pendInsert_map]
  case hother => exact fun q hq => if_neg fun hid => hids q hq hid.1
  case hdue => rw [if_pos ⟨rfl, rfl⟩]
  rw [if_pos ⟨rfl, rfl⟩]
  unfold State.oldValuePend
  dsimp only
  rw [hfreeze, loadValue_word]
  rfl

variable (hacts : ActsNow s keys) (hplace : s.atomicPlace sp a w64 = .ok (keys.map .key, ts)) (hdup : (ts.any fun t => t.dup) = false)

include hacts hplace hdup

/-- AMO of own memory stores its new word, and its old one has come. -/
theorem exec_amo_now (hids : ∀ p ∈ s.me.pend, p.id ≠ s.portId) (hdistinct : keys.Nodup) (hdrops : ∀ k ∈ keys, s.drops k = false) :
    let old := leNat (keys.map s.byte)
    ∃ t, exec (.amo sp ac d sr a scope aop w64 0 0) s = .next t
      ∧ t.me = s.awaiting sp d keys true (BitVec.ofNat 64 (old % 2 ^ (8 * wordBytes w64))) ∧ SameBytesBut keys s t
      ∧ ∀ j k, keys[j]? = some k → t.byte k =
          BitVec.ofNat 8 (atomicNew aop.toNat (wordBytes w64) old (s.sArg 8 sr).toNat (s.casArg d aop) / 256 ^ j) := by
  have htaken := hacts.takenNow (.amo sp ac d sr a scope aop w64 0 0) ts
  have hexec := exec_amo (ac := ac) (scope := scope) (d := d) (sr := sr) (aop := aop) (acq := 0) (rel := 0) hplace
  generalize s.taken (.amo sp ac d sr a scope aop w64 0 0) ts = u at htaken hexec
  rw [placedKeys_key, hdup] at hexec
  have hwaits := htaken.acts.setMe (x := s.awaiting sp d keys false (BitVec.ofNat 64 (wordBytes w64))) (congrArg Ctx.port htaken.me.symm :)
  obtain ⟨hdelivered, hother, hwritten⟩ := hwaits.access_amo (r := s) htaken.performs.mem hdup hdistinct
    (fun k hk => (htaken.drops k).trans (hdrops k hk)) 2 ac.toNat scope.toNat (s.aArg 0 a).toNat aop.toNat (wordBytes w64)
    (s.sArg 8 sr).toNat (s.casArg d aop)
  have hold : keys.map (u.setMe (s.awaiting sp d keys false (BitVec.ofNat 64 (wordBytes w64)))).byte = keys.map s.byte :=
    List.map_congr_left fun k _ => htaken.byte k
  rw [hold] at hdelivered hwritten
  refine ⟨_, hexec, ?awaits, fun k hk => (hother k hk).trans (htaken.byte k), hwritten⟩
  case awaits =>
    refine hdelivered.trans ?_
    rw [← deliver_awaiting hids (not_host_of_own hacts.own), State.setMe_portId, htaken.portId]
    exact congrArg (Ctx.deliver · _ _ _) (State.ctx_setCtx ..)

/-- RED of own memory leaves its contribution at the port, and nothing else changes. -/
theorem exec_red_now (hdrops : ∀ k ∈ keys, s.drops k = false) :
    ∃ t, exec (.red sp ac sr a scope aop w64 0 ord) s = .next t ∧ SameBytes s t ∧ t.me = s.me
      ∧ t.red = [s.contribution s.fl.ctx aop.toNat (wordBytes w64) (ord == 1) keys (s.sArg 8 sr).toNat s.portId] := by
  have htaken := hacts.takenNow (.red sp ac sr a scope aop w64 0 ord) ts
  have hexec := exec_red (ac := ac) (scope := scope) (sr := sr) (aop := aop) (rel := 0) (ord := ord) hplace
  generalize s.taken (.red sp ac sr a scope aop w64 0 ord) ts = u at htaken hexec
  rw [hdup] at hexec
  have hn : wordBytes w64 ≠ 2 := by unfold wordBytes; split <;> decide
  obtain ⟨hstill, hsame, hred⟩ := htaken.acts.access_red (r := s) htaken.performs.mem hdup (fun k hk => (htaken.drops k).trans (hdrops k hk)) hn 2
    ac.toNat scope.toNat (s.aArg 0 a).toNat aop.toNat (s.sArg 8 sr).toNat (ord == 1)
  refine ⟨_, hexec, fun k => (hsame k).trans (htaken.byte k), hstill.trans htaken.me, hred.trans ?_⟩
  unfold State.contribution
  rw [htaken.portId, htaken.performs.fl, htaken.now]

end

end Sys2Proof.Machine
end

section
/-! PROOFS. The operations of atomics on words (R74), and AMO and RED complete. -/

namespace Sys2Proof.Machine

/-! ### The operations -/

/-- The BF16 halves of a word added are the sums of its places. -/
theorem addHalves_eq_sum (n a b : Nat) : addHalves n a b = ((List.range n).map fun i => 65536 ^ i *
    (narrow (addVal (decodeFloat (a / 65536 ^ i % 65536) 1) (decodeFloat (b / 65536 ^ i % 65536) 1)).val 1 false).val).sum := by
  induction n generalizing a b with
  | zero => rfl
  | succ n ih =>
    have hshift : ∀ y i : Nat, y / 65536 / 65536 ^ i = y / 65536 ^ (i + 1) := fun y i => by
      rw [Nat.div_div_eq_div_mul, Nat.pow_succ']
    rw [List.range_succ_eq_map, List.map_cons, List.sum_cons, List.map_map]
    unfold addHalves
    rw [ih, ← List.sum_map_mul_left]
    simp only [hshift, Function.comp_def, Nat.pow_succ', Nat.mul_assoc, Nat.pow_zero, Nat.div_one, Nat.one_mul, Nat.succ_eq_add_one]

/-- The half of a word at place `i`. -/
theorem half_eq {w : Nat} (y : BitVec w) (i : Nat) : (y.extractLsb' (16 * i) 16).toNat = y.toNat / 65536 ^ i % 65536 := by
  rw [BitVec.extractLsb'_toNat, Nat.shiftRight_eq_div_pow, Nat.pow_mul]

section
variable {w n : Nat} (hn : 8 * n = w) (m x c : BitVec w)
include hn

/-- A word of its width is below the width's bound. -/
theorem toNat_mod_bytes (y : BitVec w) : y.toNat % 2 ^ (8 * n) = y.toNat := by
  rw [hn, Nat.mod_eq_of_lt y.isLt]

theorem atomicNew_add (cmp : Nat) : atomicNew 0 n m.toNat x.toNat cmp = (m + x).toNat := by
  simp only [atomicNew, toNat_mod_bytes hn]
  rw [hn, BitVec.toNat_add]

theorem atomicNew_and (cmp : Nat) : atomicNew 1 n m.toNat x.toNat cmp = (m &&& x).toNat := by
  simp only [atomicNew, toNat_mod_bytes hn]
  rw [BitVec.toNat_and]

theorem atomicNew_or (cmp : Nat) : atomicNew 2 n m.toNat x.toNat cmp = (m ||| x).toNat := by
  simp only [atomicNew, toNat_mod_bytes hn]
  rw [BitVec.toNat_or]

theorem atomicNew_xor (cmp : Nat) : atomicNew 3 n m.toNat x.toNat cmp = (m ^^^ x).toNat := by
  simp only [atomicNew, toNat_mod_bytes hn]
  rw [BitVec.toNat_xor]

theorem signedOf_lt_iff (hw : 0 < w) (y z : BitVec w) : signedOf n y.toNat < signedOf n z.toNat ↔ y.slt z = true := by
  unfold signedOf
  rw [hn, signExt_eq hw, signExt_eq hw, BitVec.slt_iff_toInt_lt]

theorem atomicNew_smin (hw : 0 < w) (cmp : Nat) : atomicNew 4 n m.toNat x.toNat cmp = (if x.slt m then x else m).toNat := by
  simp only [atomicNew, toNat_mod_bytes hn]
  rw [apply_ite BitVec.toNat]
  exact if_congr (signedOf_lt_iff hn hw x m) rfl rfl

theorem atomicNew_smax (hw : 0 < w) (cmp : Nat) : atomicNew 5 n m.toNat x.toNat cmp = (if m.slt x then x else m).toNat := by
  simp only [atomicNew, toNat_mod_bytes hn]
  rw [apply_ite BitVec.toNat]
  exact if_congr (signedOf_lt_iff hn hw m x) rfl rfl

theorem atomicNew_umin (cmp : Nat) : atomicNew 6 n m.toNat x.toNat cmp = (if x.ult m then x else m).toNat := by
  simp only [atomicNew, toNat_mod_bytes hn]
  rw [apply_ite BitVec.toNat, if_congr (BitVec.ult_iff_toNat_lt ..) rfl rfl]
  split <;> omega

theorem atomicNew_umax (cmp : Nat) : atomicNew 7 n m.toNat x.toNat cmp = (if m.ult x then x else m).toNat := by
  simp only [atomicNew, toNat_mod_bytes hn]
  rw [apply_ite BitVec.toNat, if_congr (BitVec.ult_iff_toNat_lt ..) rfl rfl]
  split <;> omega

theorem atomicNew_fadd (cmp : Nat) : atomicNew 8 n m.toNat x.toNat cmp =
    (narrow (addVal (decodeFloat m.toNat 0) (decodeFloat x.toNat 0)).val 0 false).val := by
  simp only [atomicNew, toNat_mod_bytes hn]

theorem atomicNew_halves (cmp : Nat) : atomicNew 9 n m.toNat x.toNat cmp = ((List.range (w / 16)).map fun i => 65536 ^ i *
    (narrow (addVal (decodeFloat (m.extractLsb' (16 * i) 16).toNat 1) (decodeFloat (x.extractLsb' (16 * i) 16).toNat 1)).val 1 false).val).sum := by
  have hhalves : n / 2 = w / 16 := by omega
  simp only [atomicNew, toNat_mod_bytes hn]
  rw [addHalves_eq_sum, hhalves]
  simp only [half_eq]

theorem atomicNew_exchange (cmp : Nat) : atomicNew 10 n m.toNat x.toNat cmp = x.toNat := by
  simp only [atomicNew, toNat_mod_bytes hn]

theorem atomicNew_compare : atomicNew 11 n m.toNat x.toNat c.toNat = (if m = c then x else m).toNat := by
  simp only [atomicNew, toNat_mod_bytes hn]
  rw [apply_ite BitVec.toNat]
  exact if_congr BitVec.toNat_inj rfl rfl

end

/-- Settles O33: `exec_amo` and `exec_red` say what the two forms leave in the port, `exec_amo_now` and `exec_red_now` what they do at once
in own memory, and the lemmas on `atomicNew` each operation of R74. -/
theorem atomicsAndReductions : Obligations.AtomicsAndReductions := by
  refine ⟨fun s sp ac scope d sr a aop w64 acq rel ord _ hids => ⟨fun e hplace => ?fault, fun srcs ts hplace => ?placed⟩,
    fun w hw m x c => ?operations⟩
  case fault => exact ⟨exec_amo_fault hplace, exec_red_fault hplace⟩
  case placed =>
    refine ⟨exec_amo hplace, exec_red hplace, fun hown hdup hrel hnow hred hgood hsrcs hdistinct hdrops => ?now⟩
    subst hrel
    rw [hsrcs] at hplace
    have hacts : ActsNow s (placedKeys srcs) := ⟨hown, hnow, hred, hgood⟩
    refine ⟨fun hacq => ?_, ?_⟩
    · subst hacq
      exact exec_amo_now hacts hplace hdup hids hdistinct hdrops
    · exact exec_red_now hacts hplace hdup hdrops
  case operations =>
    have hn : 8 * (w / 8) = w ∧ 0 < w := by
      rcases List.mem_pair.1 hw with h | h <;> rw [h] <;> decide
    obtain ⟨hn, hpos⟩ := hn
    exact ⟨atomicNew_add hn m x _, atomicNew_and hn m x _, atomicNew_or hn m x _, atomicNew_xor hn m x _, atomicNew_smin hn m x hpos _,
      atomicNew_smax hn m x hpos _, atomicNew_umin hn m x _, atomicNew_umax hn m x _, atomicNew_exchange hn m x _,
      atomicNew_compare hn m x c, fun _ => atomicNew_fadd hn m x _, atomicNew_halves hn m x _⟩

end Sys2Proof.Machine
end

section
/-! PROOFS. Statements on engine commands that fail, each at a state that stands here (R117, R122, R129, R262, R265, R330). -/

namespace Sys2Proof.Machine

/-! ### The enqueuing of a command -/

/-- A state in which a QFENCE of queue 0 stands in its block at address 0 of core 0's PM, a reduction that adds 0 is pending on the block's
first byte, and the core's L1 holds an older copy of the block's line. -/
def blockWithCopy : State :=
  { State.reset with
    mem := [(keyOf (.pm 0 8), 1)]
    cores := [(0, { Core.init with l1 := [(lineOf (keyOf (.pm 0 0)), [1])] })]
    red := [State.reset.redEntry 0 0 1 false [keyOf (.pm 0 0)] 0 0 none true] }

/-- The reduction drains as the block is read, and the copy follows (R262). -/
theorem l1_enqueue_blockWithCopy : (blockWithCopy.enqueueEng 10 0 0).mine.l1 = [(lineOf (keyOf (.pm 0 0)), [0])] := by
  decide +kernel

theorem mine_closed (r s : State) : (r.closed s).mine = r.mine := rfl

/-- Refutes O50: the statement has the core as it was but for its queues, where the reductions that drain from the block's lines change the
copies in its L1 too. The machine itself fills no line of PM into an L1; the statement speaks of every state. -/
theorem not_engineCommandsAreEnqueued : ¬ Obligations.EngineCommandsAreEnqueued := by
  intro h
  obtain ⟨-, -, hread⟩ := h blockWithCopy 0 0 rfl (10, .qfence 0 0) (by simp)
  obtain ⟨-, -, hqueued⟩ := hread (by decide +kernel) (by decide +kernel)
  obtain ⟨queues, hexec, -⟩ := hqueued (by decide +kernel) (by decide +kernel)
  have hdone : exec (.qfence 0 0) blockWithCopy = .next ((blockWithCopy.enqueueEng 10 0 0).closed blockWithCopy) := rfl
  have hl1 := congrArg (fun t : State => t.mine.l1) (Host.Outcome.next.inj (hdone.symm.trans hexec))
  simp only [mine_closed, State.mine_setMine, l1_enqueue_blockWithCopy] at hl1
  exact absurd hl1 (by decide +kernel)

/-! ### The begin of a command -/

/-- A TLD of the invalid handle 0 that an earlier fault has halted: it keeps the descriptor that it read before. -/
def restartedLoad : Cmd :=
  { op := 4, ctx := 0, node := 0, launch := 0, stage := 0, inst := 0, flag := 0, fcore := 0, baddr := 0, block := [0, 0, 0, 1, 0, 0], pos := 0
    mark := 0, org := State.reset.origin, begun := false, since := 0, void := false, retry := none, moved := 0, pointer := 0, data := [1] }

/-- A state in which that TLD heads queue 6 of core 0. -/
def loadToBegin : State :=
  { State.reset with cores := [(0, { Core.init with queues := [(6, { Queue.init with cmds := [restartedLoad] })] })] }

/-- What the commands of that queue keep. -/
def keptAtQueue (s : State) : List (List Nat) := (s.queue 0 6).cmds.map (·.data)

/-- Refutes O51: where the descriptor that a command reads as it begins faults, the command halts with what it kept of an earlier begin, and
the statement has it keep nothing. -/
theorem not_engineCommandsBeginAndComplete : ¬ Obligations.EngineCommandsBeginAndComplete := by
  intro h
  obtain ⟨-, -, hwork, -⟩ := h loadToBegin 0 6 restartedLoad rfl
  obtain ⟨-, -, hkeep⟩ := hwork (by decide +kernel) (by decide) (by decide) (by decide +kernel)
  obtain ⟨-, hfault, -⟩ := hkeep (by decide)
  have hexec := hfault (engFault 0 0) (by decide +kernel) (by decide)
  have hkept := congrArg keptAtQueue (Host.Outcome.next.inj hexec)
  exact absurd hkept (by decide +kernel)

/-! ### The bytes of an engine -/

/-- A translation of the first page of HBM, held by core 0, whose page-table entry stands at address 2^20. -/
def heldPage : Trans :=
  { holder := 0, space := 1, base := 0, size := 65536, loc := 0, pa := 0, w := true, dup := false, tol := false, pa2 := 0
    entry := keyOf (.hbm (2 ^ 20)), path := [] }

/-- A state in which a reduction is pending on that entry. -/
def entryReduced : State :=
  { State.reset with tlb := [heldPage], red := [State.reset.redEntry 0 0 4 false (keysFrom heldPage.entry 4) 1 0 none true] }

/-- Its first byte has its place in HBM, on whose line nothing is pending. -/
theorem place_entryReduced : placeEngine entryReduced entryReduced.seen (entryReduced.spaceOf 0 0) 0 .read (3 * 2 ^ 62) 0 1 =
    .ok ([.key 0], [heldPage]) := by
  decide +kernel

/-- An engine of core 0 reads that byte, and what is pending on the page-table entry drains as the translation is taken (R265, R330). -/
theorem engRead_entryReduced : (entryReduced.engRead 0 0 (3 * 2 ^ 62) 0 1).map (fun r => (r.1, r.2.red)) = .ok ([0], []) := by
  decide +kernel

/-- Refutes O19, at its first clause: a read of an engine leaves the reductions that are pending as they are only where none is pending on the
page-table entries of its translations either; the statement asks it of the lines of the bytes alone. -/
theorem not_engineCommandsMoveTheirBytes : ¬ Obligations.EngineCommandsMoveTheirBytes := by
  intro h
  obtain ⟨hreads, -⟩ := h State.reset 0 0 restartedLoad rfl
  have hdrained := engRead_entryReduced
  match hread : entryReduced.engRead 0 0 (3 * 2 ^ 62) 0 1 with
  | .error e =>
    rw [hread] at hdrained
    cases hdrained
  | .ok (bs, b) =>
    rw [hread] at hdrained
    obtain ⟨srcs, ts, hplace, -, hstill⟩ := hreads _ _ _ _ _ _ hread
    obtain ⟨rfl, -⟩ := Prod.mk.inj (Except.ok.inj (place_entryReduced.symm.trans hplace))
    obtain ⟨-, -, hred, -⟩ := hstill (by decide +kernel) (by decide +kernel)
    have hnone : b.red = [] := congrArg Prod.snd (Except.ok.inj hdrained)
    rw [hnone] at hred
    exact absurd hred (by decide)

end Sys2Proof.Machine
end

section
/-! PROOFS. What draining reductions, and copies of lines in L1, leave alone (R117, R120, R121, R262), and the instructions that order
accesses: DRAIN, FENCE and CVTWAYS. -/

namespace Sys2Proof.Machine

/-! ### Bytes -/

section
variable (s : State) (k : Nat)

theorem byte_of_log {s t : State} (hmem : t.mem = s.mem) (hlog : t.wlog = s.wlog) (k : Nat) : t.byte k = s.byte k := by
  rw [State.byte, State.byte, hmem, hlog]

theorem byte_countSubst (node n : Nat) : (s.countSubst node n).byte k = s.byte k := by
  unfold State.countSubst
  split <;> rfl

theorem byte_unpoison (keys : List Nat) : (s.unpoison keys).byte k = s.byte k := by
  unfold State.unpoison
  split <;> rfl

theorem byte_sendHost (relaxed : Bool) (cells : List (Nat × Byte)) : (s.sendHost relaxed cells).byte k = s.byte k := by
  unfold State.sendHost
  dsimp only
  split <;> rfl

variable {k}

/-- A reduction put into the array writes the bytes of its word and no other. -/
theorem byte_putIn {e : RedEntry} (h : k ∉ e.keys) (x : Nat) : (e.putIn x s).byte k = s.byte k := by
  have hcopies : ∀ (l : List Nat) (t : State), (l.foldl (fun s o => s.refreshCopies o e.keys) t).byte k = t.byte k := fun l t =>
    List.foldlRecOn l _ (motive := fun u => u.byte k = t.byte k) rfl fun u hu o _ =>
      (byte_refreshCopies (s := u) o e.keys k).trans hu
  unfold RedEntry.putIn
  dsimp only
  rw [byte_sendHost, hcopies, State.byte_pokes_other _ _ _ (by rwa [map_fst_cellsAt])]

theorem byte_drainEntry {e : RedEntry} (h : k ∉ e.keys) : (drainEntry s e).byte k = s.byte k := by
  unfold drainEntry
  dsimp only
  split
  · exact byte_putIn s h _
  · rw [byte_unpoison, byte_putIn _ h, byte_countSubst]
  · rfl

/-- Reductions that drain write the bytes of their words and no other. -/
theorem byte_drainRed {p : RedEntry → Bool} (h : ∀ e ∈ s.red, p e = true → k ∉ e.keys) : (s.drainRed p).byte k = s.byte k := by
  unfold State.drainRed
  split
  · rfl
  · refine List.foldlRecOn (s.red.filter p) drainEntry (motive := fun t => t.byte k = s.byte k) rfl fun t ht e he => ?_
    obtain ⟨hmem, hp⟩ := List.mem_filter.1 he
    exact (byte_drainEntry t (h e hmem hp)).trans ht

/-- Those that do not drain stay. -/
theorem red_drainRed (p : RedEntry → Bool) : (s.drainRed p).red = s.red.filter fun e => !p e := by
  unfold State.drainRed
  split
  next h => rw [h]; rfl
  next => rfl

theorem drainRed_still {s : State} (h : s.red = []) (p : RedEntry → Bool) : s.drainRed p = s := if_pos h

/-- Zeros written at keys, one of which is a given one that drops nothing. -/
theorem byte_pokes_zeros (keys : List Nat) (hk : k ∈ keys) (hd : s.drops k = false) : (s.pokes (keys.map fun j => (j, 0))).byte k = 0 := by
  induction keys generalizing s with
  | nil => cases hk
  | cons j keys ih =>
    rw [List.map_cons, State.pokes_cons]
    by_cases hin : k ∈ keys
    · exact ih _ hin (by rw [State.poke_drops]; exact hd)
    · obtain rfl : k = j := by simpa [hin] using hk
      rw [State.byte_pokes_other _ _ _ (by simpa [Function.comp_def] using hin), State.byte_poke, if_pos ⟨rfl, hd⟩]

/-- A byte that neither memory nor the log of the step lists reads 0. -/
theorem byte_unlisted (h : k ∉ s.mem.map (·.1) ++ s.wlog.map (·.1)) : s.byte k = 0 := by
  rw [List.mem_append, not_or] at h
  obtain ⟨hmem, hlog⟩ := h
  have hget : logGet s.wlog k = none := by
    generalize s.wlog = l at hlog
    induction l with
    | nil => rfl
    | cons p l ih =>
      simp only [List.map_cons, List.mem_cons, not_or] at hlog
      rw [logGet, if_neg (Ne.symm hlog.1), ih hlog.2]
  have hunlisted : ∀ p ∈ s.mem, p.1 ≠ k := fun p hp e => hmem (e ▸ List.mem_map_of_mem (f := (·.1)) hp)
  rw [State.byte, hget, tabGet_none hunlisted]
  rfl

end

/-! ### Cores but for their L1s -/

/-- Cores but for the copies in their L1s, and clusters, stay. -/
structure Copies (s t : State) : Prop where
  core : ∀ o, { t.core o with l1 := (s.core o).l1 } = s.core o
  clusters : t.clusters = s.clusters

namespace Copies

variable {s t u : State}

theorem refl : Copies s s := ⟨fun _ => rfl, rfl⟩
theorem trans (a : Copies s t) (b : Copies t u) : Copies s u where
  core o := by
    have h := congrArg (fun k : Core => { k with l1 := (s.core o).l1 }) (b.core o)
    exact h.trans (a.core o)
  clusters := b.clusters.trans a.clusters
theorem of (h : t.cores = s.cores) (hc : t.clusters = s.clusters) : Copies s t := ⟨fun o => by rw [State.core, h]; rfl, hc⟩
theorem ite {c : Prop} [Decidable c] (a : Copies s t) (b : Copies s u) : Copies s (if c then t else u) := by split <;> assumption
theorem foldl {α : Type} {f : State → α → State} (h : ∀ s a, Copies s (f s a)) (l : List α) (s : State) : Copies s (l.foldl f s) :=
  List.foldlRecOn l f (motive := Copies s) refl fun t ht a _ => ht.trans (h t a)
theorem setL1 (s : State) (o : Nat) (l1 : Tab (List Byte)) : Copies s (s.setCore o { s.core o with l1 := l1 }) where
  core j := by
    by_cases h : j = o
    · rw [h, State.core_setCore]
    · rw [State.core_setCore_ne _ _ _ h]
  clusters := rfl

theorem countSubst (s : State) (c n) : Copies s (s.countSubst c n) := by
  unfold State.countSubst
  exact ite refl (.of rfl rfl)
theorem unpoison (s : State) (k) : Copies s (s.unpoison k) := by
  unfold State.unpoison
  exact ite refl (.of rfl rfl)
theorem sendHost (s : State) (r k) : Copies s (s.sendHost r k) := by
  unfold State.sendHost
  exact ite refl (.of rfl rfl)
theorem pokes (s : State) (l) : Copies s (s.pokes l) := by
  obtain ⟨w, h⟩ := State.pokes_frame l s
  exact h ▸ .of rfl rfl
theorem refreshCopies (s : State) (c k) : Copies s (s.refreshCopies c k) := by
  unfold State.refreshCopies
  exact foldl (fun s o => ite refl (setL1 _ _ _)) _ s
theorem putIn (s : State) (e : RedEntry) (x) : Copies s (e.putIn x s) := by
  unfold RedEntry.putIn
  exact (pokes _ _).trans ((foldl (fun s k => refreshCopies s k _) _ _).trans (sendHost _ _ _))
theorem drainEntry (s : State) (e) : Copies s (drainEntry s e) := by
  unfold Sys2Proof.Machine.drainEntry
  dsimp only
  split
  · exact putIn _ _ _
  · exact ((countSubst _ _ _).trans (putIn _ _ _)).trans (unpoison _ _)
  · exact refl
theorem drainRed (s : State) (p) : Copies s (s.drainRed p) := by
  unfold State.drainRed
  exact ite refl ((foldl drainEntry _ s).trans (.of rfl rfl))
theorem touch (s : State) (k) : Copies s (s.touch k) := by
  unfold State.touch
  exact ite refl (drainRed _ _)
theorem dropCopies (s : State) (c p) : Copies s (s.dropCopies c p) := by
  unfold State.dropCopies
  exact foldl (fun s o => ite refl (setL1 _ _ _)) _ s
theorem fillLine (s : State) (c l) : Copies s (s.fillLine c l) := by
  unfold State.fillLine
  exact ite refl (ite (setL1 _ _ _) ((of rfl rfl : Copies s { s with fresh := s.fresh + 1 }).trans (setL1 _ _ _)))
theorem fill (s : State) (t) : Copies s (s.fill t) := by
  have hcaches {s t : State} (h : Caches s t) : Copies s t := by
    obtain ⟨_, _, _, _, _, rfl⟩ := h
    exact .of rfl rfl
  have htouched := (hcaches (cacheHost_caches s t)).trans (touch _ (t.entry :: t.path.map (·.1)))
  unfold State.fill
  dsimp only
  split
  · exact htouched
  · exact ((htouched.trans (hcaches (hold_caches ..))).trans (hcaches (hold_caches ..))).trans (hcaches (keepPath_caches ..))
theorem fills (s : State) (l) : Copies s (s.fills l) := foldl fill l s

theorem l1Cores (h : Copies s t) (core : Nat) : t.l1Cores core = s.l1Cores core := by
  unfold State.l1Cores State.fusedAt State.cluster
  rw [h.clusters]

end Copies

/-- A core is among those whose L1s its accesses use. -/
theorem mem_l1Cores (s : State) (core : Nat) : core ∈ s.l1Cores core := by
  unfold State.l1Cores
  split
  · refine List.mem_map.2 ⟨core % 8, List.mem_range.2 (Nat.mod_lt _ (by decide)), ?_⟩
    unfold clusterOf
    omega
  · exact List.mem_singleton_self core

/-- Copies that a test names leave the L1s that a core uses, and no other. -/
theorem l1_dropCopies (s : State) (core : Nat) (p : Nat → Bool) (o : Nat) :
    ((s.dropCopies core p).core o).l1 = if o ∈ s.l1Cores core then (s.core o).l1.filter fun l => !p l.1 else (s.core o).l1 := by
  unfold State.dropCopies
  induction s.l1Cores core generalizing s with
  | nil => rfl
  | cons j l ih =>
    rw [List.foldl_cons, ih]
    dsimp only
    have hhead : ∀ i, ((if (s.core j).l1 = [] then s else s.setCore j { s.core j with l1 := (s.core j).l1.filter fun l => !p l.1 }).core i).l1
        = if i = j then (s.core i).l1.filter fun l => !p l.1 else (s.core i).l1 := by
      intro i
      by_cases hi : i = j
      · subst hi
        rw [if_pos rfl]
        split
        next h => rw [h]; rfl
        next => rw [State.core_setCore]
      · rw [if_neg hi]
        split
        · rfl
        · rw [State.core_setCore_ne _ _ _ hi]
    rw [hhead]
    by_cases hj : o = j
    · subst hj
      simp
    · simp [hj]

section
variable {s : State} {o : Nat} (h : (s.core o).l1 = [])
include h

theorem l1_refreshCopies_nil (c : Nat) (keys : List Nat) : ((s.refreshCopies c keys).core o).l1 = [] := by
  unfold State.refreshCopies
  refine List.foldlRecOn (s.l1Cores c) _ (motive := fun u : State => (u.core o).l1 = []) h fun u hu j _ => ?_
  dsimp only
  split
  · exact hu
  next hj =>
    rw [State.core_setCore_ne]
    · exact hu
    · rintro rfl
      exact hj hu

theorem l1_putIn_nil (e : RedEntry) (x : Nat) : ((e.putIn x s).core o).l1 = [] := by
  have hpoked : ((s.pokes (cellsAt e.keys x)).core o).l1 = [] := by rwa [State.pokes_core]
  have hfold := List.foldlRecOn (e.ctxs.map coreOf).eraseDups (fun s k => s.refreshCopies k e.keys)
    (motive := fun u : State => (u.core o).l1 = []) hpoked fun u hu j _ => l1_refreshCopies_nil hu j _
  unfold RedEntry.putIn State.sendHost
  dsimp only
  split <;> exact hfold

theorem l1_drainEntry_nil (e : RedEntry) : ((drainEntry s e).core o).l1 = [] := by
  have hcounted (node : Nat) : ((s.countSubst node 1).core o).l1 = [] := h
  unfold drainEntry State.unpoison
  dsimp only
  split
  · exact l1_putIn_nil h e _
  · split <;> exact l1_putIn_nil (hcounted _) e _
  · exact h

/-- An L1 without copies has none once reductions have drained. -/
theorem l1_drainRed_nil (p : RedEntry → Bool) : ((s.drainRed p).core o).l1 = [] := by
  unfold State.drainRed
  split
  · exact h
  · exact List.foldlRecOn (s.red.filter p) drainEntry (motive := fun u : State => (u.core o).l1 = []) h fun u hu e _ => l1_drainEntry_nil hu e

end

/-! ### DRAIN and FENCE -/

section
variable {s : State} (hlog : s.wlog = [])

/-- A DRAIN drains the reductions that its scope covers and those of its context. -/
def State.drains (s : State) (scope : BitVec 3) (e : RedEntry) : Bool := covers scope.toNat s.myCore e.key || e.ctxs.contains s.fl.ctx

theorem drains_iff (scope : BitVec 3) (e : RedEntry) :
    s.drains scope e = true ↔ covers scope.toNat s.myCore e.key = true ∨ s.fl.ctx ∈ e.ctxs := by
  unfold State.drains
  rw [Bool.or_eq_true, List.contains_iff_mem]

theorem exec_drain (scope : BitVec 3) : exec (.drain scope) s = .next (((s.drainRed (s.drains scope)).setMe
    { s.me with drain := some scope.toNat }).closed s) := by
  have hme : (s.drainRed (s.drains scope)).me = s.me := by
    rw [State.me, (Performs.drainRed ..).fl, (Aside.drainRed ..).ctx]
    rfl
  rw [← hme]
  rfl

include hlog

theorem exec_fence (scope : BitVec 3) (acls : BitVec 8) :
    exec (.fence scope acls) s = .next (s.enqueue 5 0 scope.toNat false false false 0 [] (.fence acls.toNat)) := done_eq hlog rfl

end

/-! ### CVTWAYS -/

theorem Performs.dropCopies (s : State) (c p) : Performs s (s.dropCopies c p) := by
  unfold State.dropCopies
  refine foldl (fun s o => ?_) _ s
  dsimp only
  split
  · exact refl
  · exact setCore _ _ _ rfl

theorem Performs.writeBackLines (s : State) (core : Nat) (dirty : Nat → Bool) : Performs s (s.writeBackLines core dirty) := by
  unfold State.writeBackLines
  refine foldl (fun s c => foldl (fun s id => ?_) _ s) _ s
  split
  · exact refl
  split
  · split
    · exact ite (performAt _ _ _) refl
    · exact refl
  · exact refl

/-- A reduction stands on a byte of a core's scratchpad from one offset to another. -/
def onScratch (core lo hi : Nat) (e : RedEntry) : Bool :=
  e.key % 8 == 4 && e.key / 8 / 2 ^ 18 == core && lo ≤ e.key / 8 % 2 ^ 18 && e.key / 8 % 2 ^ 18 < hi

/-- Ways that change mode lose their contents (R120). -/
def State.clearWays (s : State) (lo hi : Nat) : State :=
  let u := s.drainRed (onScratch s.myCore lo hi)
  u.pokes ((u.scratchKeys u.myCore lo hi).map fun k => (k, 0))

/-- The state in which the lines of ways that leave cache mode are written back and dropped. -/
def State.leavingWays (s : State) (n : Nat) : State :=
  if s.mine.nw < n then (s.writeBackLines s.myCore fun _ => true).dropLines s.myCore else s

theorem mem_scratchKeys {s : State} {core lo hi k : Nat} : k ∈ s.scratchKeys core lo hi ↔
    k ∈ s.mem.map (·.1) ++ s.wlog.map (·.1) ∧ k % 8 = 4 ∧ k / 8 / 2 ^ 18 = core ∧ lo ≤ k / 8 % 2 ^ 18 ∧ k / 8 % 2 ^ 18 < hi := by
  unfold State.scratchKeys
  simp only [List.mem_filter, Bool.and_eq_true, beq_iff_eq, decide_eq_true_eq, and_assoc]

theorem pmCoreOf_scratch {k : Nat} (h : k % 8 = 4) : pmCoreOf k = none := if_neg (by omega)

section
variable (s : State) (lo hi : Nat)

theorem Performs.clearWays : Performs s (s.clearWays lo hi) := (drainRed _ _).trans (pokes _ _)
theorem Copies.clearWays : Copies s (s.clearWays lo hi) := (drainRed _ _).trans (pokes _ _)

theorem ctx_clearWays (c : Nat) : (s.clearWays lo hi).ctx c = s.ctx c := Aside.ctx ((Aside.drainRed _ _).trans (.pokes _ _)) c

/-- A byte of a way that changes mode reads 0. -/
theorem byte_clearWays {off : Nat} (hoff : off < 2 ^ 18) (hlo : lo ≤ off) (hhi : off < hi) :
    (s.clearWays lo hi).byte (keyOf (.scratch s.myCore off)) = 0 := by
  have hcore := (Performs.drainRed s (onScratch s.myCore lo hi)).myCore
  unfold State.clearWays
  generalize s.drainRed (onScratch s.myCore lo hi) = u at hcore ⊢
  have hkey : keyOf (.scratch s.myCore off) % 8 = 4 ∧ keyOf (.scratch s.myCore off) / 8 / 2 ^ 18 = s.myCore
      ∧ keyOf (.scratch s.myCore off) / 8 % 2 ^ 18 = off := by
    simp only [keyOf]
    omega
  obtain ⟨hspace, hown, hat⟩ := hkey
  generalize keyOf (.scratch s.myCore off) = k at hspace hown hat ⊢
  have hdrops : u.drops k = false := by rw [State.drops, pmCoreOf_scratch hspace]; rfl
  by_cases hlisted : k ∈ u.scratchKeys u.myCore lo hi
  · exact byte_pokes_zeros u _ hlisted hdrops
  · dsimp only
    rw [State.byte_pokes_other _ _ _ (by simpa [Function.comp_def] using hlisted)]
    refine byte_unlisted u fun hin => hlisted ?_
    rw [mem_scratchKeys, hcore, hat]
    exact ⟨hin, hspace, hown, hlo, hhi⟩

/-- No other byte changes, where no reduction is pending. -/
theorem byte_clearWays_other (hred : s.red = []) {k : Nat}
    (hk : k % 8 ≠ 4 ∨ k / 8 / 2 ^ 18 ≠ s.myCore ∨ k / 8 % 2 ^ 18 < lo ∨ hi ≤ k / 8 % 2 ^ 18) : (s.clearWays lo hi).byte k = s.byte k := by
  unfold State.clearWays
  rw [drainRed_still hred]
  refine State.byte_pokes_other _ _ _ ?_
  rw [List.map_map]
  simp only [Function.comp_def, List.map_id']
  rw [mem_scratchKeys]
  omega

end

section
variable {s : State} (nw : BitVec 5)

theorem exec_cvtways_fused (h : (s.cluster (clusterOf s.myCore)).fused = true) :
    exec (.cvtways nw) s = .next ((s.slotFault 0x30 0 0).closed s) := by
  show execCvtways nw s = _
  unfold execCvtways
  dsimp only
  rw [if_pos h]
  exact done_closed ..

theorem Performs.leavingWays (s : State) (n : Nat) : Performs s (s.leavingWays n) := by
  unfold State.leavingWays
  exact ite ((writeBackLines _ _ _).trans (dropCopies _ _ _)) refl

theorem exec_cvtways (h : (s.cluster (clusterOf s.myCore)).fused = false) :
    let w := s.leavingWays nw.toNat
    let u := w.clearWays (16384 * min nw.toNat s.mine.nw) (16384 * max nw.toNat s.mine.nw)
    exec (.cvtways nw) s = .next ((u.setMine { u.mine with nw := nw.toNat }).closed s) := by
  show execCvtways nw s = _
  unfold execCvtways
  dsimp only
  rw [h, if_neg Bool.false_ne_true]
  exact done_closed ..

/-- Ways that leave cache mode leave no copy in the L1. -/
theorem l1_leavingWays {n : Nat} (h : s.mine.nw < n) : (s.leavingWays n).mine.l1 = [] := by
  unfold State.leavingWays
  rw [if_pos h]
  have hcore := (Performs.writeBackLines s s.myCore fun _ => true).myCore
  generalize s.writeBackLines s.myCore (fun _ => true) = u at hcore ⊢
  have hstill : (u.dropLines s.myCore).myCore = s.myCore := ((Performs.dropLines u s.myCore).myCore).trans hcore
  rw [State.mine, hstill, State.dropLines, l1_dropCopies, if_pos (mem_l1Cores ..)]
  exact List.filter_eq_nil_iff.2 fun _ _ => Bool.false_ne_true

/-- What CVTWAYS leaves, `w` being the state in which the lines of ways that leave cache mode are dropped. -/
theorem exec_cvtways_leaves (h : (s.cluster (clusterOf s.myCore)).fused = false) :
    let w := s.leavingWays nw.toNat
    let lo := 16384 * min nw.toNat s.mine.nw
    let hi := 16384 * max nw.toNat s.mine.nw
    ∃ t, exec (.cvtways nw) s = .next t
      ∧ { t.mine with l1 := w.mine.l1 } = { w.mine with nw := nw.toNat } ∧ (w.red = [] → t.mine.l1 = w.mine.l1)
      ∧ (s.mine.nw < nw.toNat → t.mine.l1 = [])
      ∧ (∀ off, off < 2 ^ 18 → lo ≤ off → off < hi → t.byte (keyOf (.scratch s.myCore off)) = 0)
      ∧ (w.red = [] → ∀ k, (k % 8 ≠ 4 ∨ k / 8 / 2 ^ 18 ≠ s.myCore ∨ k / 8 % 2 ^ 18 < lo ∨ hi ≤ k / 8 % 2 ^ 18) → t.byte k = w.byte k)
      ∧ ∀ c, t.ctx c = w.ctx c := by
  have hexec := exec_cvtways nw h
  have hperf := Performs.leavingWays s nw.toNat
  have hleft : s.mine.nw < nw.toNat → (s.leavingWays nw.toNat).mine.l1 = [] := l1_leavingWays
  dsimp only at hexec ⊢
  generalize s.leavingWays nw.toNat = w at hexec hperf hleft ⊢
  generalize 16384 * min nw.toNat s.mine.nw = lo at hexec ⊢
  generalize 16384 * max nw.toNat s.mine.nw = hi at hexec ⊢
  have hclear := Performs.clearWays w lo hi
  have hbyte : ∀ k, (((w.clearWays lo hi).setMine { (w.clearWays lo hi).mine with nw := nw.toNat }).closed s).byte k = (w.clearWays lo hi).byte k :=
    fun k => State.closed_byte (hclear.mem.trans hperf.mem) k
  have hmine : (((w.clearWays lo hi).setMine { (w.clearWays lo hi).mine with nw := nw.toNat }).closed s).mine
      = { (w.clearWays lo hi).mine with nw := nw.toNat } := State.mine_setMine ..
  have hcore : ((w.clearWays lo hi).core w.myCore) = (w.clearWays lo hi).mine := by rw [State.mine, hclear.myCore]
  have hl1 : (((w.clearWays lo hi).setMine { (w.clearWays lo hi).mine with nw := nw.toNat }).closed s).mine.l1
      = ((w.clearWays lo hi).core w.myCore).l1 := by rw [hmine, hcore]
  refine ⟨_, hexec, ?core, fun hred => ?copies, fun hn => ?emptied, fun off hoff hlo hhi => ?cleared, fun hred k hk => ?other, fun c => ?ctx⟩
  case core =>
    rw [hmine, ← hcore]
    exact congrArg (fun k : Core => { k with nw := nw.toNat }) ((Copies.clearWays w lo hi).core w.myCore)
  case copies =>
    rw [hl1, State.clearWays, drainRed_still hred]
    exact congrArg Core.l1 (State.pokes_core ..)
  case emptied =>
    rw [hl1, State.clearWays]
    exact (congrArg Core.l1 (State.pokes_core ..)).trans (l1_drainRed_nil (hleft hn) _)
  case cleared =>
    rw [hbyte, ← hperf.myCore]
    exact byte_clearWays w lo hi hoff hlo hhi
  case other =>
    rw [hbyte]
    exact byte_clearWays_other w lo hi hred (by rwa [hperf.myCore])
  case ctx => exact ctx_clearWays w lo hi c

end

end Sys2Proof.Machine
end

section
/-! PROOFS. CINV, CWB and PREF act on the lines that they name (R121; log entries 18 and 95). -/

namespace Sys2Proof.Machine

/-! ### The lines that a form names -/

/-- The ranges of the lines that a cache form names. -/
def State.namedLines (s : State) (a : BitVec 5) (nl : BitVec 10) : List (Nat × Nat) :=
  (List.range (nl.toNat + 1)).map fun i => ((s.aArg 0 a &&& ~~~0x7F#64) + BitVec.ofNat 64 (128 * i) |>.toNat, 128)

theorem toNat_lineStart (x : Word64) : (x &&& ~~~0x7F#64).toNat = x.toNat / 128 * 128 := by
  have hshift : x &&& ~~~0x7F#64 = (x >>> 7) <<< 7 := by
    refine BitVec.eq_of_getLsbD_eq fun i hi => ?_
    have hmask : (0x7F#64).getLsbD i = decide (i < 7) := by
      have h127 : (127 : Nat) = 2 ^ 7 - 1 := rfl
      rw [BitVec.getLsbD_ofNat, h127, Nat.testBit_two_pow_sub_one]
      simp [hi]
    simp only [BitVec.getLsbD_and, BitVec.getLsbD_not, hmask, hi, BitVec.getLsbD_shiftLeft, BitVec.getLsbD_ushiftRight]
    by_cases h : i < 7
    · simp [h]
    · simp [h, show 7 + (i - 7) = i by omega]
  rw [hshift, BitVec.toNat_shiftLeft, BitVec.toNat_ushiftRight, Nat.shiftRight_eq_div_pow, Nat.shiftLeft_eq]
  have := x.isLt
  omega

theorem formLines_eq (s : State) (a : BitVec 5) (nl : BitVec 10) : formLines (s.opA 0 a.toNat) nl.toNat = s.namedLines a nl := by
  rw [State.opA_eq]
  unfold formLines State.namedLines
  refine List.map_congr_left fun i _ => ?_
  rw [BitVec.toNat_add, BitVec.toNat_ofNat, Nat.add_mod_mod, toNat_lineStart]

theorem exec_cinv (s : State) (sp : BitVec 2) (ac : BitVec 3) (a : BitVec 5) (nl : BitVec 10) :
    exec (.cinv sp ac a nl) s = .next ((match s.placeParts sp.toNat .write 1 (s.namedLines a nl) with
      | .error e => s.accessFault e
      | .ok (srcs, ts) => ((s.fills ts).countTiles sp.toNat (s.namedLines a nl)).invalidate s.myCore
          (cachedLines (placedKeys srcs))).closed s) := by
  rw [← formLines_eq]
  rfl

theorem exec_cwb (s : State) (sp : BitVec 2) (ac : BitVec 3) (a : BitVec 5) (nl : BitVec 10) :
    exec (.cwb sp ac a nl) s = .next ((match s.placeParts sp.toNat .write 1 (s.namedLines a nl) with
      | .error e => s.accessFault e
      | .ok (srcs, ts) =>
        let u := (s.fills ts).countTiles sp.toNat (s.namedLines a nl)
        (u.l1Cores u.myCore).foldl (fun u o => u.writeBackLines o (cachedLines (placedKeys srcs)).contains) u).closed s) := by
  rw [← formLines_eq]
  rfl

/-! ### The state whose translations are taken -/

section
variable (s : State) (ts : List Trans) (sp : Nat) (ranges : List (Nat × Nat))

theorem byte_countTiles (k : Nat) : (s.countTiles sp ranges).byte k = s.byte k := by
  unfold State.countTiles
  split
  · exact byte_countSubst ..
  · rfl

theorem Performs.filled : Performs s ((s.fills ts).countTiles sp ranges) := by
  unfold State.countTiles
  exact (fills _ _).trans (ite (countSubst _ _ _) refl)

theorem Copies.filled : Copies s ((s.fills ts).countTiles sp ranges) := by
  unfold State.countTiles
  exact (fills _ _).trans (ite (countSubst _ _ _) refl)

theorem Aside.filled : Aside s ((s.fills ts).countTiles sp ranges) := by
  unfold State.countTiles
  exact (fills _ _).trans (ite (countSubst _ _ _) refl)

variable {s}

/-- With no reduction pending, taking translations changes no byte and no core. -/
theorem filled_still (hred : s.red = []) : ((s.fills ts).countTiles sp ranges).red = [] ∧ ((s.fills ts).countTiles sp ranges).wlog = s.wlog
    ∧ (∀ o, ((s.fills ts).countTiles sp ranges).core o = s.core o) := by
  have hfills := fills_caches hred ts
  have hcounted : ∀ u : State, (u.countTiles sp ranges).red = u.red ∧ (u.countTiles sp ranges).wlog = u.wlog
      ∧ ∀ o, (u.countTiles sp ranges).core o = u.core o := fun u => by
    unfold State.countTiles State.countSubst
    split
    · split <;> exact ⟨rfl, rfl, fun _ => rfl⟩
    · exact ⟨rfl, rfl, fun _ => rfl⟩
  obtain ⟨hr, hw, hc⟩ := hcounted (s.fills ts)
  obtain ⟨_, _, _, _, _, he⟩ := hfills
  rw [he] at hr hw hc
  rw [he]
  exact ⟨hr.trans hred, hw, hc⟩

theorem countTiles_good (h : s.anyBad = false) : s.countTiles sp ranges = s := if_neg (by rw [h]; exact fun h => Bool.false_ne_true h.2)

end

/-! ### The contexts that use the L1s of a core -/

/-- The contexts of the cores whose L1s a core's accesses use. -/
def State.l1Ctxs (s : State) (core : Nat) : List Nat := (s.l1Cores core).flatMap fun o => (List.range 4).map (4 * o + ·)

theorem mem_l1Ctxs {s : State} {core c : Nat} : c ∈ s.l1Ctxs core ↔ coreOf c ∈ s.l1Cores core := by
  unfold State.l1Ctxs coreOf
  simp only [List.mem_flatMap, List.mem_map, List.mem_range]
  constructor
  · rintro ⟨o, ho, j, hj, rfl⟩
    rwa [show (4 * o + j) / 4 = o by omega]
  · exact fun h => ⟨c / 4, h, c % 4, by omega, by omega⟩

/-! ### CINV -/

/-- No store that is no release holds bytes of some lines. -/
def Undirtied (lines : List Nat) (port : List PortItem) : Prop :=
  ∀ i ∈ port, ∀ cells, i.op = .store cells → i.rel = false → ∀ p ∈ cells, lineOf p.1 ∉ lines

/-- A port without the undelivered bytes of some lines. -/
def undirty (lines : List Nat) (port : List PortItem) : List PortItem := (port.map (dropCells lines)).filter fun i => !emptyStore i

theorem undirtied_undirty (lines : List Nat) (port : List PortItem) : Undirtied lines (undirty lines port) := by
  intro i hi cells hop hrel p hp
  unfold undirty at hi
  obtain ⟨i, -, rfl⟩ := List.mem_map.1 (List.mem_of_mem_filter hi)
  unfold dropCells at hop hrel
  split at hop
  next h =>
    rw [if_pos h, h] at hrel
    cases hrel
  next =>
    split at hop
    next =>
      cases hop
      simpa using (List.mem_filter.1 hp).2
    next hno => exact absurd hop (hno cells)

section
variable (s : State) (lines : List Nat)

/-- A context's undelivered bytes of some lines are dropped. -/
def State.dropStores (s : State) (lines : List Nat) (c : Nat) : State :=
  let x := s.ctx c
  if x.port = [] then s else s.setCtx c { x with port := undirty lines x.port }

theorem ctx_dropStores (c d : Nat) : (s.dropStores lines c).ctx d =
    if d = c then { s.ctx d with port := undirty lines (s.ctx d).port } else s.ctx d := by
  unfold State.dropStores
  dsimp only
  by_cases hd : d = c
  · subst hd
    rw [if_pos rfl]
    split
    next h =>
      rw [h]
      exact congrArg (fun l : List PortItem => { s.ctx d with port := l }) h
    next => rw [State.ctx_setCtx]
  · rw [if_neg hd]
    split
    · rfl
    · rw [State.ctx_setCtx_ne _ _ _ hd]

theorem invalidate_eq (core : Nat) : s.invalidate core lines =
    (s.l1Ctxs core).foldl (fun u c => u.dropStores lines c) (s.dropCopies core lines.contains) := by
  unfold State.l1Ctxs
  rw [List.foldl_flatMap]
  simp only [List.foldl_map]
  rfl

/-- Contexts that lose undelivered bytes of lines: nothing but their ports changes. -/
theorem dropStores_frame (cs : List Nat) : ∃ xs, cs.foldl (fun u c => u.dropStores lines c) s = { s with ctxs := xs } := by
  refine List.foldlRecOn cs _ (motive := fun t : State => ∃ xs, t = { s with ctxs := xs }) ⟨s.ctxs, rfl⟩ fun t ht c _ => ?_
  obtain ⟨xs, rfl⟩ := ht
  unfold State.dropStores
  dsimp only
  split
  · exact ⟨xs, rfl⟩
  · exact ⟨_, rfl⟩

theorem ctx_dropStores_foldl (cs : List Nat) (c : Nat) :
    let t := cs.foldl (fun u c => u.dropStores lines c) s
    { t.ctx c with port := (s.ctx c).port } = s.ctx c ∧ (c ∉ cs → t.ctx c = s.ctx c)
      ∧ (c ∈ cs ∨ Undirtied lines (s.ctx c).port → Undirtied lines (t.ctx c).port) := by
  induction cs generalizing s with
  | nil => exact ⟨rfl, fun _ => rfl, fun h => h.resolve_left List.not_mem_nil⟩
  | cons d cs ih =>
    obtain ⟨hstill, hother, hdropped⟩ := ih (s.dropStores lines d)
    rw [ctx_dropStores] at hstill hother hdropped
    rw [List.foldl_cons]
    by_cases hd : c = d
    · rw [if_pos hd] at hstill hother hdropped
      refine ⟨congrArg (fun x : Ctx => { x with port := (s.ctx c).port }) hstill, fun h => absurd (hd ▸ List.mem_cons_self) h, fun _ => ?_⟩
      exact hdropped (.inr (undirtied_undirty lines _))
    · rw [if_neg hd] at hstill hother hdropped
      refine ⟨hstill, fun h => hother fun hin => h (List.mem_cons_of_mem d hin), fun h => hdropped ?_⟩
      exact h.imp_left fun hin => (List.mem_cons.1 hin).resolve_left hd

theorem Aside.dropCopies (core : Nat) (p : Nat → Bool) : Aside s (s.dropCopies core p) := by
  unfold State.dropCopies
  exact foldl (fun s o => ite refl (setCore _ _ _)) _ s

theorem dropCopies_log (core : Nat) (p : Nat → Bool) : (s.dropCopies core p).wlog = s.wlog := by
  unfold State.dropCopies
  refine List.foldlRecOn (s.l1Cores core) _ (motive := fun t : State => t.wlog = s.wlog) rfl fun t ht o _ => ?_
  dsimp only
  split <;> exact ht

/-- Lines invalidated: their copies go, and of contexts undelivered bytes of them. -/
theorem invalidate_leaves (core : Nat) :
    let t := s.invalidate core lines
    Copies s t ∧ t.mem = s.mem ∧ SameBytes s t
      ∧ (∀ o ∈ s.l1Cores core, ∀ p, p ∈ (t.core o).l1 ↔ p ∈ (s.core o).l1 ∧ p.1 ∉ lines)
      ∧ ∀ c, { t.ctx c with port := (s.ctx c).port } = s.ctx c
        ∧ (coreOf c ∉ s.l1Cores core → t.ctx c = s.ctx c) ∧ (coreOf c ∈ s.l1Cores core → Undirtied lines (t.ctx c).port) := by
  dsimp only
  rw [invalidate_eq]
  have hcopies := Copies.dropCopies s core lines.contains
  have hmem := (Performs.dropCopies s core lines.contains).mem
  have hlog := dropCopies_log s core lines.contains
  have hl1 := l1_dropCopies s core lines.contains
  have hctx := (Aside.dropCopies s core lines.contains).ctx
  have hports := ctx_dropStores_foldl (s.dropCopies core lines.contains) lines (s.l1Ctxs core)
  obtain ⟨xs, hframe⟩ := dropStores_frame (s.dropCopies core lines.contains) lines (s.l1Ctxs core)
  dsimp only at hports
  rw [hframe] at hports ⊢
  refine ⟨hcopies.trans (.of rfl rfl), hmem, byte_of_log hmem hlog, fun o ho p => ?copies, fun c => ?ctx⟩
  case copies =>
    show p ∈ ((s.dropCopies core lines.contains).core o).l1 ↔ _
    rw [hl1, if_pos ho]
    simp
  case ctx =>
    obtain ⟨hstill, hother, hdropped⟩ := hports c
    rw [hctx] at hstill hother
    rw [← mem_l1Ctxs]
    exact ⟨hstill, hother, fun h => hdropped (.inl h)⟩

end

/-- CINV of lines that translate. -/
theorem exec_cinv_ok {s : State} {sp : BitVec 2} {a : BitVec 5} {nl : BitVec 10} {srcs : List ByteSrc} {ts : List Trans}
    (hplace : s.placeParts sp.toNat .write 1 (s.namedLines a nl) = .ok (srcs, ts)) (ac : BitVec 3) :
    let lines := cachedLines (placedKeys srcs)
    ∃ t, exec (.cinv sp ac a nl) s = .next t ∧ (s.red = [] → SameBytes s t
        ∧ (∀ o ∈ s.l1Cores s.myCore, ∀ p, p ∈ (t.core o).l1 ↔ p ∈ (s.core o).l1 ∧ p.1 ∉ lines)
        ∧ ∀ o, { t.core o with l1 := (s.core o).l1 } = s.core o)
      ∧ ∀ c, { t.ctx c with port := (s.ctx c).port } = s.ctx c ∧ (coreOf c ∉ s.l1Cores s.myCore → t.ctx c = s.ctx c)
        ∧ (coreOf c ∈ s.l1Cores s.myCore → Undirtied lines (t.ctx c).port) := by
  have hexec := exec_cinv s sp ac a nl
  rw [hplace] at hexec
  have hmem := (Performs.filled s ts sp.toNat (s.namedLines a nl)).mem
  have hcopies := Copies.filled s ts sp.toNat (s.namedLines a nl)
  have hctx := (Aside.filled s ts sp.toNat (s.namedLines a nl)).ctx
  have hstill := filled_still (s := s) ts sp.toNat (s.namedLines a nl)
  dsimp only at hexec
  generalize (s.fills ts).countTiles sp.toNat (s.namedLines a nl) = u at hexec hmem hcopies hctx hstill
  obtain ⟨hdropped, hsame, hbytes, hlines, hports⟩ := invalidate_leaves u (cachedLines (placedKeys srcs)) s.myCore
  simp only [hcopies.l1Cores, hctx] at hlines hports
  refine ⟨_, hexec, fun hred => ?_, hports⟩
  obtain ⟨-, hlog, hcore⟩ := hstill hred
  simp only [hcore] at hlines
  exact ⟨fun k => (State.closed_byte (hsame.trans hmem) k).trans ((hbytes k).trans (byte_of_log hmem hlog k)), hlines,
    (hcopies.trans hdropped).core⟩

end Sys2Proof.Machine
end

section
/-! PROOFS. What a store that performs writes (R117, R262, R336), and CWB: what stands pending in named lines is stored (R121). -/

namespace Sys2Proof.Machine

/-! ### A store performs -/

theorem Performs.drops {s t : State} (h : Performs s t) (k : Nat) : t.drops k = s.drops k := by
  have hsealed : ∀ c, (t.core c).sealed = (s.core c).sealed := fun c => (congrArg Core.sealed (h.core c) :)
  unfold State.drops
  simp only [hsealed]

/-- What cells write depends on memory and on what drops alone. -/
theorem byte_pokes_congr {s t : State} (hb : ∀ k, t.byte k = s.byte k) (hd : ∀ k, t.drops k = s.drops k) (cells : List (Nat × Byte)) (k : Nat) :
    (t.pokes cells).byte k = (s.pokes cells).byte k := by
  induction cells generalizing s t with
  | nil => exact hb k
  | cons p cells ih =>
    refine ih (fun j => ?_) fun j => by rw [State.poke_drops, State.poke_drops, hd]
    rw [State.byte_poke, State.byte_poke, hb, hd]

section
variable {s : State}

theorem demote_red (via : List Trans) (keys : List Nat) : (s.demote via keys).red = s.red := by
  unfold State.demote
  refine List.foldlRecOn _ _ (motive := fun t : State => t.red = s.red) rfl fun t ht tr _ => ?_
  split
  · obtain ⟨l, hl⟩ := t.poke_frame tr.entry (t.byte tr.entry &&& ~~~(0x40 : Byte))
    exact (congrArg State.red hl).trans ht
  · exact ht

/-- What holds of every port and of its loads read anew holds after pages are demoted (R268). -/
theorem demote_port {P : List PortItem → Prop} (hP : ∀ t port, P port → P (port.map (PortItem.home t))) (via : List Trans) (keys : List Nat)
    {c : Nat} (h : P (s.ctx c).port) : P ((s.demote via keys).ctx c).port := by
  unfold State.demote
  refine List.foldlRecOn _ _ (motive := fun t : State => P (t.ctx c).port) h fun t ht tr _ => ?_
  split
  · have hctx : (t.demotePage tr).ctx c = (t.ctx c).home tr := by
      rw [← (Aside.poke t tr.entry (t.byte tr.entry &&& ~~~(0x40 : Byte))).ctx c]
      exact tabGet_map Ctx.init (Ctx.home tr) rfl _ c
    rw [hctx]
    exact hP tr _ ht
  · exact ht

/-- A page's loads read anew; stores stay as they are. -/
theorem home_store {t : Trans} {i : PortItem} {cells : List (Nat × Byte)} (h : (i.home t).op = .store cells) : i.op = .store cells := by
  unfold PortItem.home at h
  split at h
  next hop =>
    split at h
    · cases h
    · exact h
  next => exact h

section
variable (c : Nat) (i : PortItem) {cells : List (Nat × Byte)}

/-- Cells stored are written over what demoting pages left. -/
theorem byte_landStore (hred : s.red = []) (cells : List (Nat × Byte)) (k : Nat) :
    (s.landStore c i cells).byte k = ((s.demote i.via (cells.map (·.1))).pokes cells).byte k := by
  have hstill := touch_still ((demote_red i.via (cells.map (·.1))).trans hred) (cells.map (·.1))
  unfold State.landStore State.storeVia State.storeCells
  dsimp only
  rw [byte_refreshCopies, byte_sendHost, hstill]
  exact byte_pokes_congr (fun j => byte_unpoison _ j _) (fun j => (Performs.unpoison ..).drops j) cells k

theorem perform_store (hop : i.op = .store cells) (hred : s.red = []) (hgone : s.firstGone (cells.map (·.1)) = none) :
    s.perform c i = s.landStore c i cells := by
  have hdrain : (if i.rel then s.drainOf c else s) = s := by rw [State.drainOf, drainRed_still hred, ite_self]
  unfold State.perform
  rw [hdrain, hop]
  dsimp only
  rw [show opKeys (.store cells) = cells.map (·.1) from rfl, hgone]

theorem byte_landStore_mem (hred : s.red = []) (hdistinct : (cells.map (·.1)).Nodup) {k : Nat} {b : Byte} (hk : (k, b) ∈ cells)
    (hd : s.drops k = false) : (s.landStore c i cells).byte k = b := by
  rw [byte_landStore c i hred]
  exact State.byte_pokes_mem _ _ hdistinct hk (((Performs.demote ..).drops k).trans hd)

theorem byte_landStore_other (hred : s.red = []) (hdup : ∀ t ∈ i.via, t.dup = false) {k : Nat} (hk : k ∉ cells.map (·.1)) :
    (s.landStore c i cells).byte k = s.byte k := by
  have hany : (i.via.any fun t => t.dup) = false := List.any_eq_false.2 fun t ht => by rw [hdup t ht]; exact Bool.false_ne_true
  rw [byte_landStore c i hred, ActsNow.demote_eq hany, State.byte_pokes_other _ _ _ hk]

end
end

/-! ### Pending stores reach L2 -/

/-- No store holds bytes of some lines. -/
def Clear (lines : List Nat) (port : List PortItem) : Prop :=
  ∀ i ∈ port, ∀ cells, i.op = .store cells → ∀ p ∈ cells, lineOf p.1 ∉ lines

theorem Clear.home {lines : List Nat} (t : Trans) (port : List PortItem) (h : Clear lines port) : Clear lines (port.map (PortItem.home t)) := by
  intro i hi cells hop
  obtain ⟨j, hj, rfl⟩ := List.mem_map.1 hi
  exact h j hj cells (home_store hop)

/-- A context's access with a number performs where it is a store of some lines. -/
def State.writeBackItem (lines : List Nat) (c : Nat) (s : State) (id : Nat) : State :=
  match (s.ctx c).port.findIdx? fun i => i.id == id with
  | none => s
  | some n => match (s.ctx c).port[n]? with
    | some i => (match i.op with
      | .store cells => if cells.any fun p => cacheable p.1 && lines.contains (lineOf p.1) then s.performAt c n else s
      | _ => s)
    | none => s

/-- A context's stores of some lines perform, as far as their order lets them. -/
def State.writeBack (lines : List Nat) (s : State) (c : Nat) : State :=
  ((s.ctx c).port.map (·.id)).foldl (State.writeBackItem lines c) s

theorem writeBackLines_eq (s : State) (core : Nat) (lines : List Nat) :
    s.writeBackLines core lines.contains = ((List.range 4).map (4 * core + ·)).foldl (State.writeBack lines) s := rfl

theorem exec_cwb_ok {s : State} {sp : BitVec 2} {a : BitVec 5} {nl : BitVec 10} {srcs : List ByteSrc} {ts : List Trans}
    (hplace : s.placeParts sp.toNat .write 1 (s.namedLines a nl) = .ok (srcs, ts)) (ac : BitVec 3) :
    let u := (s.fills ts).countTiles sp.toNat (s.namedLines a nl)
    exec (.cwb sp ac a nl) s = .next (((s.l1Ctxs s.myCore).foldl (State.writeBack (cachedLines (placedKeys srcs))) u).closed s) := by
  have hexec := exec_cwb s sp ac a nl
  rw [hplace] at hexec
  have hcore := (Performs.filled s ts sp.toNat (s.namedLines a nl)).myCore
  have hl1 := (Copies.filled s ts sp.toNat (s.namedLines a nl)).l1Cores s.myCore
  dsimp only at hexec ⊢
  rw [hexec, hcore, hl1]
  unfold State.l1Ctxs
  rw [List.foldl_flatMap]
  simp only [writeBackLines_eq]

section
variable {s : State} {lines : List Nat} {c : Nat}

theorem writeBackItem_clear (h : Clear lines (s.ctx c).port) (id : Nat) : s.writeBackItem lines c id = s := by
  unfold State.writeBackItem
  split
  · rfl
  split
  next i hi =>
    split
    next cells hop =>
      have hno := h i (List.mem_of_getElem? hi) cells hop
      rw [if_neg]
      simp only [List.any_eq_true, Bool.and_eq_true, List.contains_iff_mem, not_exists, not_and]
      exact fun p hp _ => hno p hp
    next => rfl
  next => rfl

theorem writeBack_clear (h : Clear lines (s.ctx c).port) : s.writeBack lines c = s := by
  unfold State.writeBack
  exact List.foldlRecOn _ _ (motive := fun t : State => t = s) rfl fun t ht id _ => by
    subst ht
    exact writeBackItem_clear h id

/-- Contexts that hold no store of the lines write nothing back. -/
theorem writeBack_foldl_clear {cs : List Nat} (h : ∀ c ∈ cs, Clear lines (s.ctx c).port) : cs.foldl (State.writeBack lines) s = s :=
  List.foldlRecOn _ _ (motive := fun t : State => t = s) rfl fun t ht c hc => by
    subst ht
    exact writeBack_clear (h c hc)

/-- The lines of cached locations among keys hold cached locations. -/
theorem cacheable_of_cachedLines {keys : List Nat} {k : Nat} (h : lineOf k ∈ cachedLines keys) : cacheable k = true := by
  unfold cachedLines at h
  rw [List.mem_eraseDups, List.mem_map] at h
  obtain ⟨j, hj, hline⟩ := h
  have hspace : k % 8 = j % 8 := by
    unfold lineOf at hline
    omega
  unfold cacheable
  rw [hspace]
  exact (List.mem_filter.1 hj).2

/-- The only access of a context is a store of named lines: it performs if it may. -/
theorem writeBack_single {keys : List Nat} {i : PortItem} {cells : List (Nat × Byte)} (hport : (s.ctx c).port = [i]) (hop : i.op = .store cells)
    (hnamed : ∃ p ∈ cells, lineOf p.1 ∈ cachedLines keys) : s.writeBack (cachedLines keys) c = s.performAt c 0 := by
  obtain ⟨p, hp, hline⟩ := hnamed
  have hfound : ([i].findIdx? fun j => j.id == i.id) = some 0 := by simp
  have hdirty : (cells.any fun p => cacheable p.1 && (cachedLines keys).contains (lineOf p.1)) = true := by
    rw [List.any_eq_true]
    exact ⟨p, hp, by rw [cacheable_of_cachedLines hline, List.contains_iff_mem.2 hline]; rfl⟩
  show ((s.ctx c).port.map (·.id)).foldl (State.writeBackItem (cachedLines keys) c) s = _
  rw [hport, List.map_singleton, List.foldl_cons, List.foldl_nil]
  unfold State.writeBackItem
  rw [hport, hfound]
  dsimp only [List.getElem?_cons_zero]
  rw [hop]
  exact if_pos hdirty

/-- Accesses that cross links change the links and choices alone. -/
theorem cross_frame (s : State) (die : Nat) (keys : List Nat) (write : Bool) :
    ∃ n l, s.cross die keys write = { s with fresh := n, dev := { s.dev with links := l } } := by
  unfold State.cross
  refine List.foldlRecOn _ _ (motive := fun t : State => ∃ n l, t = { s with fresh := n, dev := { s.dev with links := l } })
    ⟨s.fresh, s.dev.links, rfl⟩ fun t ht l _ => ?_
  obtain ⟨n, x, rfl⟩ := ht
  exact ⟨_, _, rfl⟩

/-- The state in which the access of a context's port leaves the core. -/
def State.leaving (s : State) (c : Nat) (i : PortItem) : State :=
  (s.setCtx c { s.ctx c with port := [] }).cross (dieOf (coreOf c)) (opKeys i.op) i.op.writes

theorem firstGone_good (h : s.anyBad = false) (keys : List Nat) : s.firstGone keys = none := by
  unfold State.anyBad at h
  simp only [Bool.or_eq_false_iff, bne_eq_false_iff_eq] at h
  obtain ⟨⟨-, hstacks⟩, hchannels⟩ := h
  exact if_pos ⟨hstacks, hchannels⟩

/-- What a store that is a context's only access leaves where it performs. -/
theorem performAt_single {i : PortItem} {cells : List (Nat × Byte)} (hport : (s.ctx c).port = [i]) (hop : i.op = .store cells)
    (hready : s.portReady c 0 = true) (hred : s.red = []) (hgood : s.anyBad = false) :
    let t := s.performAt c 0
    (t.ctx c).port = [] ∧ (∀ d, d ≠ c → Clear lines (s.ctx d).port → Clear lines (t.ctx d).port)
      ∧ ((cells.map (·.1)).Nodup → ∀ k b, (k, b) ∈ cells → s.drops k = false → t.byte k = b)
      ∧ ((∀ tr ∈ i.via, tr.dup = false) → SameBytesBut (cells.map (·.1)) s t) := by
  have hleaves : s.performAt c 0 = (s.leaving c i).perform c i := by
    unfold State.performAt
    dsimp only
    rw [hport]
    dsimp only [List.getElem?_cons_zero]
    rw [if_pos hready]
    rfl
  obtain ⟨n, l, hcross⟩ := cross_frame (s.setCtx c { s.ctx c with port := [] }) (dieOf (coreOf c)) (opKeys i.op) i.op.writes
  have hempty : ((s.leaving c i).ctx c).port = [] := by
    unfold State.leaving
    rw [hcross]
    exact congrArg Ctx.port (State.ctx_setCtx ..)
  have hother : ∀ d, d ≠ c → (s.leaving c i).ctx d = s.ctx d := fun d hd => by
    unfold State.leaving
    rw [hcross]
    exact State.ctx_setCtx_ne _ _ _ hd
  have hstill : (s.leaving c i).red = [] ∧ (s.leaving c i).anyBad = false ∧ (∀ k, (s.leaving c i).byte k = s.byte k)
      ∧ ∀ k, (s.leaving c i).drops k = s.drops k := by
    unfold State.leaving
    rw [hcross]
    exact ⟨hred, hgood, fun _ => rfl, fun _ => rfl⟩
  dsimp only
  rw [hleaves]
  generalize s.leaving c i = u at hempty hother hstill
  obtain ⟨hured, hugood, hbyte, hdrops⟩ := hstill
  rw [perform_store c i hop hured (firstGone_good hugood _)]
  have hctx : ∀ d, (u.landStore c i cells).ctx d = ((u.demote i.via (cells.map (·.1))).ctx d) :=
    (((Aside.touch _ _).trans (.unpoison _ _)).trans ((Aside.pokes _ _).trans ((Aside.sendHost _ _ _).trans (.refreshCopies _ _ _)))).ctx
  refine ⟨?port, fun d hd hclear => ?clear, fun hdistinct k b hk hd => ?stored, fun hdup k hk => ?other⟩
  case port =>
    rw [hctx]
    exact demote_port (P := fun l => l = []) (fun t port h => by rw [h]; rfl) _ _ hempty
  case clear =>
    rw [hctx]
    exact demote_port (P := Clear lines) Clear.home _ _ (by rwa [hother d hd])
  case stored => exact byte_landStore_mem c i hured hdistinct hk ((hdrops k).trans hd)
  case other => exact (byte_landStore_other c i hured hdup hk).trans (hbyte k)

/-- Of the contexts that write lines back one holds a store of them, its only access: what they leave is what that one leaves. -/
theorem writeBack_foldl_single {keys cs : List Nat} {i : PortItem} {cells : List (Nat × Byte)} (hc : c ∈ cs) (hport : (s.ctx c).port = [i])
    (hop : i.op = .store cells) (hnamed : ∃ p ∈ cells, lineOf p.1 ∈ cachedLines keys) (hready : s.portReady c 0 = true) (hred : s.red = [])
    (hgood : s.anyBad = false) (hclear : ∀ d ∈ cs, d ≠ c → Clear (cachedLines keys) (s.ctx d).port) :
    cs.foldl (State.writeBack (cachedLines keys)) s = s.performAt c 0 := by
  obtain ⟨before, after, rfl, hbefore⟩ := List.eq_append_cons_of_mem hc
  obtain ⟨hempty, hkept, -, -⟩ := performAt_single (lines := cachedLines keys) hport hop hready hred hgood
  have hahead : before.foldl (State.writeBack (cachedLines keys)) s = s :=
    writeBack_foldl_clear fun d hd => hclear d (List.mem_append_left _ hd) fun e => hbefore (e ▸ hd)
  rw [List.foldl_append, hahead, List.foldl_cons, writeBack_single hport hop hnamed]
  refine writeBack_foldl_clear fun d hd => ?_
  by_cases hdc : d = c
  · rw [hdc, hempty]
    exact fun i hi => absurd hi List.not_mem_nil
  · exact hkept d hdc (hclear d (List.mem_append_right _ (List.mem_cons_of_mem c hd)) hdc)

end
end Sys2Proof.Machine
end

section
/-! PROOFS. PREF fetches the absent lines of those that translate (R121), and the instructions that order accesses complete. -/

namespace Sys2Proof.Machine

/-! ### PREF -/

/-- A line fetched into the L1 that a core uses, if it is absent. -/
def State.fetch (core : Nat) (u : State) (line : Nat) : State :=
  if u.copyOf core line = [] then (u.touch (lineKeys line)).fillLine core line else u

/-- PREF's work on one of its lines, for a core. -/
def State.prefLine (core sp : Nat) (u : State) (l : Nat × Nat) : State :=
  match u.placeMine sp .read false l.1 l.2 with
  | .error _ => u
  | .ok (srcs, ts) => (cachedLines (placedKeys srcs)).foldl (State.fetch core) ((u.fills ts).countTiles sp [l])

/-- What fetching lines into the L1 of a core leaves: memory, contexts and all of cores but copies in the L1s that the core uses. -/
structure LinesIn (core : Nat) (s t : State) : Prop where
  calm : Calm s t
  performs : Performs s t
  aside : Aside s t
  copies : Copies s t
  others : ∀ o, o ∉ s.l1Cores core → t.core o = s.core o

namespace LinesIn

variable {core : Nat} {s t u : State}

theorem refl (h : s.red = []) : LinesIn core s s := ⟨⟨h, rfl⟩, .refl, .refl, .refl, fun _ _ => rfl⟩

theorem trans (a : LinesIn core s t) (b : LinesIn core t u) : LinesIn core s u where
  calm := a.calm.trans b.calm
  performs := a.performs.trans b.performs
  aside := a.aside.trans b.aside
  copies := a.copies.trans b.copies
  others o ho := (b.others o (a.copies.l1Cores core ▸ ho)).trans (a.others o ho)

theorem foldl {α : Type} {f : State → α → State} (hf : ∀ s a, s.red = [] → LinesIn core s (f s a)) (l : List α) (h : s.red = []) :
    LinesIn core s (l.foldl f s) :=
  List.foldlRecOn l f (motive := fun t => LinesIn core s t) (refl h) fun _ ht a _ => ht.trans (hf _ a ht.calm.red)

theorem filled (h : s.red = []) (ts : List Trans) (sp : Nat) (ranges : List (Nat × Nat)) :
    LinesIn core s ((s.fills ts).countTiles sp ranges) := by
  obtain ⟨hred, hlog, hcore⟩ := filled_still ts sp ranges h
  exact ⟨⟨hred, hlog⟩, .filled .., .filled .., .filled .., fun o _ => hcore o⟩

end LinesIn

theorem l1Core_mem (s : State) (core line : Nat) : s.l1Core core line ∈ s.l1Cores core := by
  unfold State.l1Core State.l1Cores
  split
  · exact List.mem_map.2 ⟨line / 8 % 8, List.mem_range.2 (Nat.mod_lt _ (by decide)), rfl⟩
  · exact List.mem_singleton_self core

section
variable {s : State} (core line : Nat)

theorem fillLine_still : (s.fillLine core line).red = s.red ∧ (s.fillLine core line).wlog = s.wlog
    ∧ ∀ o, o ≠ s.l1Core core line → (s.fillLine core line).core o = s.core o := by
  unfold State.fillLine
  dsimp only
  split
  · exact ⟨rfl, rfl, fun _ _ => rfl⟩
  split
  · exact ⟨rfl, rfl, fun o ho => State.core_setCore_ne _ _ _ ho⟩
  · exact ⟨rfl, rfl, fun o ho => State.core_setCore_ne _ _ _ ho⟩

variable (hred : s.red = [])
include hred

theorem linesIn_fetch : LinesIn core s (s.fetch core line) := by
  unfold State.fetch
  split
  · obtain ⟨hstill, hlog, hother⟩ := fillLine_still (s := s) core line
    rw [touch_still hred]
    exact ⟨⟨hstill.trans hred, hlog⟩, .fillLine .., .fillLine .., .fillLine ..,
      fun o ho => hother o fun e => ho (e ▸ l1Core_mem s core line)⟩
  · exact .refl hred

/-- An absent line that is fetched stands in the L1 as memory holds it. -/
theorem copyOf_fetch (habsent : s.copyOf core line = []) (hways : 0 < s.cacheWays core) :
    (s.fetch core line).copyOf core line = (lineKeys line).map s.byte := by
  have hput : ∀ (n : Nat) (l : Tab (List Byte)), ({ s with fresh := n }.setCore (s.l1Core core line)
      { s.core (s.l1Core core line) with l1 := tabPut l line ((lineKeys line).map s.byte) }).copyOf core line = (lineKeys line).map s.byte := by
    intro n l
    refine (congrArg (fun k : Core => tabGet [] k.l1 line) (State.core_setCore ..)).trans ?_
    exact tabGet_put_self ..
  unfold State.fetch State.fillLine
  dsimp only
  rw [if_pos habsent, touch_still hred, if_neg (by omega)]
  split
  · exact hput s.fresh _
  · exact hput _ _

theorem linesIn_prefLine (sp : Nat) (l : Nat × Nat) : LinesIn core s (s.prefLine core sp l) := by
  unfold State.prefLine
  split
  · exact .refl hred
  · have hfilled := LinesIn.filled (core := core) hred ‹_› sp [l]
    exact hfilled.trans (.foldl (fun u line hu => linesIn_fetch core line hu) _ hfilled.calm.red)

end

theorem performs_prefLine (core sp : Nat) (s : State) (l : Nat × Nat) : Performs s (s.prefLine core sp l) := by
  unfold State.prefLine
  split
  · exact .refl
  · refine (Performs.filled ..).trans (.foldl (fun u line => ?_) _ _)
    unfold State.fetch
    exact .ite ((Performs.touch ..).trans (.fillLine ..)) .refl

theorem exec_pref (s : State) (sp : BitVec 2) (ac : BitVec 3) (a : BitVec 5) (nl : BitVec 10) :
    exec (.pref sp ac a nl) s = .next (((s.namedLines a nl).foldl (State.prefLine s.myCore sp.toNat) s).closed s) := by
  have hcore : ∀ (ls : List (Nat × Nat)) (u : State), u.myCore = s.myCore →
      ls.foldl (fun u l => u.prefLine u.myCore sp.toNat l) u = ls.foldl (State.prefLine s.myCore sp.toNat) u := fun ls => by
    induction ls with
    | nil => exact fun _ _ => rfl
    | cons l ls ih =>
      intro u hu
      rw [List.foldl_cons, List.foldl_cons, hu]
      exact ih _ ((performs_prefLine ..).myCore.trans hu)
  rw [← hcore _ s rfl, ← formLines_eq]
  rfl

/-! ### Each instruction -/

/-- A step that logs no write and leaves memory ends as it stands. -/
theorem closed_still {s r : State} (hlog : r.wlog = []) (hmem : r.mem = s.mem) : r.closed s = r :=
  Host.Outcome.next.inj (done_eq hlog hmem)

section
variable (s : State) (sp : BitVec 2) (ac scope : BitVec 3) (a : BitVec 5) (nl : BitVec 10)

theorem drain_leaves (hlog : s.wlog = []) : ∃ t, exec (.drain scope) s = .next t ∧ t.me = { s.me with drain := some scope.toNat }
    ∧ (s.red = [] → t = s.setMe t.me) ∧ (∀ e, e ∈ t.red ↔ e ∈ s.red ∧ ¬s.drains scope e = true)
    ∧ ∀ k, (∀ e ∈ s.red, s.drains scope e = true → k ∉ e.keys) → t.byte k = s.byte k := by
  have hexec := exec_drain (s := s) scope
  have hme : (((s.drainRed (s.drains scope)).setMe { s.me with drain := some scope.toNat }).closed s).me = { s.me with drain := some scope.toNat } :=
    State.me_setMe ..
  refine ⟨_, hexec, hme, fun hred => ?still, fun e => ?pending, fun k hk => ?bytes⟩
  case still =>
    rw [hme, drainRed_still hred]
    exact closed_still hlog rfl
  case pending =>
    show e ∈ (s.drainRed (s.drains scope)).red ↔ _
    rw [red_drainRed, List.mem_filter, Bool.not_eq_true', Bool.not_eq_true]
  case bytes => exact (State.closed_byte (Performs.drainRed ..).mem k).trans (byte_drainRed s hk)

/-- CWB where no store of its lines is pending in its L1s, and where the only access of a context is one that may perform. -/
theorem cwb_leaves {srcs : List ByteSrc} {ts : List Trans} (hplace : s.placeParts sp.toNat .write 1 (s.namedLines a nl) = .ok (srcs, ts)) :
    let lines := cachedLines (placedKeys srcs)
    ∃ t, exec (.cwb sp ac a nl) s = .next t
      ∧ ((∀ c, coreOf c ∈ s.l1Cores s.myCore → Clear lines (s.ctx c).port) →
        t = ((s.fills ts).countTiles sp.toNat (s.namedLines a nl)).closed s)
      ∧ ∀ c i cells, coreOf c ∈ s.l1Cores s.myCore → (s.ctx c).port = [i] → i.op = .store cells → (∃ p ∈ cells, lineOf p.1 ∈ lines) →
        (s.fills ts).portReady c 0 = true → s.red = [] → s.anyBad = false →
        (∀ d, coreOf d ∈ s.l1Cores s.myCore → d ≠ c → Clear lines (s.ctx d).port) →
        (t.ctx c).port = [] ∧ ((cells.map (·.1)).Nodup → ∀ k b, (k, b) ∈ cells → s.drops k = false → t.byte k = b)
          ∧ ((∀ tr ∈ i.via, tr.dup = false) → SameBytesBut (cells.map (·.1)) s t) := by
  have hctx := (Aside.filled s ts sp.toNat (s.namedLines a nl)).ctx
  refine ⟨_, exec_cwb_ok hplace ac, fun hclear => ?clear, fun c i cells hc hport hop hnamed hready hred hgood hclear => ?single⟩
  case clear => rw [writeBack_foldl_clear fun c hc => by rw [hctx]; exact hclear c (mem_l1Ctxs.1 hc)]
  case single =>
    have hcaches := fills_caches hred ts
    have hfilled : (s.fills ts).countTiles sp.toNat (s.namedLines a nl) = s.fills ts := countTiles_good _ _ (hcaches.anyBad.trans hgood)
    have hbyte : ∀ k, (s.fills ts).byte k = s.byte k := byte_of_log (Performs.fills s ts).mem (fills_wlog hred ts)
    rw [hfilled] at hctx ⊢
    rw [← hctx] at hport
    rw [writeBack_foldl_single (mem_l1Ctxs.2 hc) hport hop hnamed hready (hcaches.red.trans hred) (hcaches.anyBad.trans hgood)
      fun d hd hdc => by rw [hctx]; exact hclear d (mem_l1Ctxs.1 hd) hdc]
    obtain ⟨hempty, -, hstored, hother⟩ := performAt_single (lines := []) hport hop hready (hcaches.red.trans hred) (hcaches.anyBad.trans hgood)
    have hclosed : ∀ k, (((s.fills ts).performAt c 0).closed s).byte k = ((s.fills ts).performAt c 0).byte k :=
      State.closed_byte ((Performs.performAt ..).mem.trans (Performs.fills s ts).mem)
    exact ⟨hempty, fun hdistinct k b hk hd => (hclosed k).trans (hstored hdistinct k b hk (((Performs.fills s ts).drops k).trans hd)),
      fun hdup k hk => ((hclosed k).trans (hother hdup k hk)).trans (hbyte k)⟩

theorem pref_leaves : ∃ t, exec (.pref sp ac a nl) s = .next t
    ∧ t = ((s.namedLines a nl).foldl (State.prefLine s.myCore sp.toNat) s).closed s
    ∧ (s.red = [] → SameBytes s t ∧ (∀ c, t.ctx c = s.ctx c) ∧ (∀ o, o ∉ s.l1Cores s.myCore → t.core o = s.core o)
      ∧ ∀ o, { t.core o with l1 := (s.core o).l1 } = s.core o) := by
  refine ⟨_, exec_pref s sp ac a nl, rfl, fun hred => ?_⟩
  have hlines : LinesIn s.myCore s ((s.namedLines a nl).foldl (State.prefLine s.myCore sp.toNat) s) :=
    .foldl (fun u l hu => linesIn_prefLine s.myCore hu sp.toNat l) _ hred
  exact ⟨hlines.calm.sameBytes hlines.performs.mem, hlines.aside.ctx, hlines.others, hlines.copies.core⟩

end

/-- Settles O34: what DRAIN drains (`drain_leaves`), the item that FENCE queues, the two cases of CVTWAYS, and what CINV, CWB and PREF do with
the lines that they name. -/
theorem orderingAndCacheInstructions : Obligations.OrderingAndCacheInstructions := by
  intro s sp ac scope a nw nl acls hlog
  refine ⟨?drain, ⟨_, exec_fence hlog scope acls, enqueue_queued ..⟩, exec_cvtways_fused nw, exec_cvtways_leaves nw, fun e hplace => ?fault,
    fun srcs ts hplace => ⟨exec_cinv_ok hplace ac, ?cwb⟩, pref_leaves s sp ac a nl, fun u line hred => ⟨?same, copyOf_fetch s.myCore line hred⟩⟩
  case drain =>
    obtain ⟨t, hexec, hme, hstill, hpending, hbytes⟩ := drain_leaves s scope hlog
    simp only [drains_iff] at hpending hbytes
    exact ⟨t, hexec, hme, hstill, hpending, hbytes⟩
  case fault =>
    have hcinv := exec_cinv s sp ac a nl
    have hcwb := exec_cwb s sp ac a nl
    unfold State.namedLines at hcinv hcwb
    rw [hplace] at hcinv hcwb
    exact ⟨hcinv, hcwb⟩
  case cwb =>
    obtain ⟨t, hexec, hclear, hsingle⟩ := cwb_leaves s sp ac a nl hplace
    refine ⟨t, hexec, fun h => hclear fun c hc i hi cells hop => ?_, fun c i cells hc hport hop hnamed hready hred hgood h => ?_⟩
    · refine h (coreOf c) (c % 4) i cells hc (by omega) ?_ hop
      rwa [show 4 * coreOf c + c % 4 = c by unfold coreOf; omega]
    · exact hsingle c i cells hc hport hop hnamed hready hred hgood fun d hd hdc j hj cells' => h d j hd hdc hj cells'
  case same =>
    have hlines := linesIn_fetch s.myCore line hred
    exact byte_of_log hlines.performs.mem hlines.calm.wlog

end Sys2Proof.Machine
end

section
/-! PROOFS. A store of any form (R104, R106, R110 to R115; log entries 22 and 41). -/

namespace Sys2Proof.Machine

/-! ### An access of the bundle in flight -/

theorem access_spec (s : State) (rank cls scope addr : Nat) (acq rel : Bool) (via : List Trans) (op : PortOp) :
    let all := allOwn s.myCore (opKeys op)
    let v := if all then s.settleOwn s.myCore else s
    let item (own : Bool) : PortItem :=
      { id := v.portId, bundle := v.me.seq, rank := rank, cls := cls, scope := scope, acq := acq, rel := rel, own := own
        since := v.dev.clock, addr := addr, via := via, op := op }
    let now := all && !acq && !rel && v.ownNow
    (now = false → Queued v (s.access rank cls scope acq rel addr via op) (item (anyOwn s.myCore (opKeys op))))
      ∧ (now = true → s.access rank cls scope acq rel addr via op = v.drawn.perform s.fl.ctx (item true)) := by
  have hv : Performs s (if allOwn s.myCore (opKeys op) then s.settleOwn s.myCore else s) := .ite (.settleOwn _ _) .refl
  dsimp only
  unfold State.access
  dsimp only
  generalize (if allOwn s.myCore (opKeys op) then s.settleOwn s.myCore else s) = v at hv
  rw [hv.myCore]
  refine ⟨fun hnow => ?queued, fun hnow => ?now⟩
  case queued =>
    rw [if_neg (by rw [hnow]; exact Bool.false_ne_true)]
    exact enqueue_queued ..
  case now =>
    have hall : allOwn s.myCore (opKeys op) = true := by
      cases hown : allOwn s.myCore (opKeys op)
      · rw [hown] at hnow
        cases hnow
      · rfl
    have hctx : v.fl.ctx = s.fl.ctx := congrArg Flight.ctx hv.fl
    rw [if_pos hnow, hctx, hall]
    rfl

theorem Performs.access (s : State) (rank cls scope addr : Nat) (acq rel : Bool) (via : List Trans) (op : PortOp) :
    Performs s (s.access rank cls scope acq rel addr via op) := by
  have hv : Performs s (if allOwn s.myCore (opKeys op) then s.settleOwn s.myCore else s) := .ite (.settleOwn _ _) .refl
  unfold State.access
  dsimp only
  generalize (if allOwn s.myCore (opKeys op) then s.settleOwn s.myCore else s) = v at hv
  have hdrawn : Performs v { v with portId := v.portId + 1 } := .of rfl rfl rfl rfl
  split
  · exact hv.trans (hdrawn.trans (.perform _ _ _))
  · exact hv.trans (.enqueue ..)

/-! ### What a store writes -/

/-- The later of two cells at one place is left there. -/
theorem byte_pokes_last (s : State) (before after : List (Nat × Byte)) {k : Nat} (w : Byte) (hlast : k ∉ after.map (·.1)) (hd : s.drops k = false) :
    (s.pokes (before ++ (k, w) :: after)).byte k = w := by
  have hsplit : s.pokes (before ++ (k, w) :: after) = ((s.pokes before).poke k w).pokes after := List.foldl_append
  rw [hsplit, State.byte_pokes_other _ _ _ hlast, State.byte_poke, if_pos ⟨rfl, (State.pokes_drops ..).trans hd⟩]

section
variable {s : State}

theorem red_refreshCopies (core : Nat) (keys : List Nat) : (s.refreshCopies core keys).red = s.red := by
  unfold State.refreshCopies
  refine List.foldlRecOn (s.l1Cores core) _ (motive := fun t : State => t.red = s.red) rfl fun t ht o _ => ?_
  dsimp only
  split <;> exact ht

theorem red_unpoison (keys : List Nat) : (s.unpoison keys).red = s.red := by
  unfold State.unpoison
  split <;> rfl

theorem red_pokes (cells : List (Nat × Byte)) : (s.pokes cells).red = s.red := by
  obtain ⟨l, h⟩ := State.pokes_frame cells s
  rw [h]

theorem red_sendHost (relaxed : Bool) (cells : List (Nat × Byte)) : (s.sendHost relaxed cells).red = s.red := by
  unfold State.sendHost
  dsimp only
  split <;> rfl

theorem red_landStore (hred : s.red = []) (c : Nat) (i : PortItem) (cells : List (Nat × Byte)) : (s.landStore c i cells).red = [] := by
  have hstill := (demote_red (s := s) i.via (cells.map (·.1))).trans hred
  unfold State.landStore State.storeVia State.storeCells
  rw [red_refreshCopies, red_sendHost, red_pokes, red_unpoison, touch_still hstill, hstill]

/-- Own memory lies in the range of no removed unit. -/
theorem firstGone_own {core : Nat} {keys : List Nat} (h : ∀ k ∈ keys, ownCoreOf k = some core) : s.firstGone keys = none := by
  unfold State.firstGone
  split
  · rfl
  · refine List.find?_eq_none.2 fun k hk => ?_
    have hspace : k % 8 = 2 ∨ k % 8 = 4 := by
      have := h k hk
      unfold ownCoreOf at this
      split at this
      · exact .inl ‹_›
      split at this
      · exact .inr ‹_›
      · cases this
    unfold State.rangeGone
    rcases hspace with h | h <;> simp [h]

/-- What a store to own memory through no read-duplicated page leaves where it performs. -/
theorem perform_own {c : Nat} {i : PortItem} {cells : List (Nat × Byte)} (hop : i.op = .store cells) (hred : s.red = [])
    (hown : ∀ k ∈ cells.map (·.1), ownCoreOf k = some s.myCore) (hdup : (i.via.any fun t => t.dup) = false) :
    let t := s.perform c i
    t.red = [] ∧ (∀ d, t.ctx d = s.ctx d) ∧ ∀ k, t.byte k = (s.pokes cells).byte k := by
  have hstore := perform_store c i hop hred (firstGone_own hown)
  have hstill : s.demote i.via (cells.map (·.1)) = s := ActsNow.demote_eq hdup
  dsimp only
  rw [hstore]
  refine ⟨red_landStore hred c i cells, fun d => ?_, fun k => by rw [byte_landStore c i hred, hstill]⟩
  unfold State.landStore State.storeVia State.storeCells
  rw [hstill]
  exact Aside.ctx (((Aside.touch _ _).trans (.unpoison _ _)).trans ((Aside.pokes _ _).trans ((Aside.sendHost _ _ _).trans (.refreshCopies _ _ _)))) d

end

/-! ### A store of any form -/

/-- A reader of tile bytes that race with landings has drawn choices (R114). -/
def State.racing (s : State) (races : Bool) : State := { s with fresh := if races then s.fresh + 4096 else s.fresh }

/-- Cells of a store put in the port, or performed at once. -/
def State.putStore (t : State) (ac : BitVec 3) (scope : Nat) (rel : Bool) (ea : Word64) (ts : List Trans) (acq : Bool)
    (cells : List (Nat × Byte)) : State :=
  t.access (if rel then 3 else 2) ac.toNat scope acq rel ea.toNat ts (.store cells)

/-- What a store of the slot in flight does: `place` is where its bytes lie and `bytes` are those it stores. It is the outcome that
`StoresReachTheirBytes` states of each form. -/
def StoreLands (s : State) (ac : BitVec 3) (a : BitVec 5) (i : Instr) (place : Placed) (bytes : List Byte) (scope : Nat) (rel : Bool) (ea : Word64)
    (moved : Option Word64) (races : Bool) : Prop :=
  let after (t : State) : State := (t.racing races).moving a moved
  (∀ e, place = .error e → exec i s = .next (((s.accessFault e).racing races).closed s))
    ∧ ∀ srcs ts, place = .ok (srcs, ts) →
      let cells := cellsOf srcs bytes
      let mine := cells.filter fun p => ownCoreOf p.1 == some s.myCore
      let rest := cells.filter fun p => ownCoreOf p.1 != some s.myCore
      let dup := ts.any fun t => t.dup
      let u := s.taken i ts
      let put (t : State) (acq : Bool) (cs : List (Nat × Byte)) : State := t.putStore ac scope rel ea ts acq cs
      exec i s = .next ((after (if rel = true ∨ mine = [] ∨ rest = [] then put u dup cells else put (put u false mine) dup rest)).closed s)
      ∧ (mine = [] → (s.red = [] → SameBytes s ((after (put u dup cells)).closed s)) ∧ Queued u (put u dup cells)
          { id := s.portId, bundle := s.me.seq, rank := if rel then 3 else 2, cls := ac.toNat, scope := scope, acq := dup, rel := rel
            own := false, since := s.dev.clock, addr := ea.toNat, via := ts, op := .store cells })
      ∧ (mine ≠ [] → rest = [] → rel = false → dup = false → s.ownNow = true → s.red = [] →
        ∃ t, exec i s = .next t ∧ SameBytesBut (cells.map (·.1)) s t
          ∧ (∀ b c k w, cells = b ++ (k, w) :: c → k ∉ c.map (·.1) → s.drops k = false → t.byte k = w)
          ∧ t.fl = s.fl ∧ t.me = (after s).me ∧ t.red = [] ∧ ∀ c, c ≠ s.fl.ctx → t.ctx c = s.ctx c)

section
variable {s : State} {ac : BitVec 3} {a : BitVec 5} {i : Instr} {place : Placed} {bytes : List Byte} {scope : Nat} {rel : Bool} {ea : Word64}
  {moved : Option Word64} {races : Bool} {f : State → State} {srcs : List ByteSrc} {ts : List Trans}

/-- A store that has taken its translations puts its cells, those in own memory and the others apart. -/
theorem store_placed (hplan : s.plan i = some (.ok (srcs, ts))) :
    let cells := cellsOf srcs bytes
    let mine := cells.filter fun p => ownCoreOf p.1 == some s.myCore
    let rest := cells.filter fun p => ownCoreOf p.1 != some s.myCore
    let dup := ts.any fun t => t.dup
    let u := s.taken i ts
    s.store i bytes ea.toNat ac.toNat scope rel = if rel = true ∨ mine = [] ∨ rest = [] then u.putStore ac scope rel ea ts dup cells
      else (u.putStore ac scope rel ea ts false mine).putStore ac scope rel ea ts dup rest := by
  dsimp only
  unfold State.store
  rw [hplan]
  dsimp only
  rw [(Performs.taken s i ts).myCore]
  generalize (cellsOf srcs bytes).filter (fun p => ownCoreOf p.1 == some s.myCore) = mine
  generalize (cellsOf srcs bytes).filter (fun p => ownCoreOf p.1 != some s.myCore) = rest
  have hone : (rel || mine == [] || rest == []) = true ↔ rel = true ∨ mine = [] ∨ rest = [] := by
    rw [Bool.or_eq_true, Bool.or_eq_true, beq_iff_eq, beq_iff_eq, or_assoc]
  by_cases h : rel = true ∨ mine = [] ∨ rest = []
  · rw [if_pos h, if_pos (hone.2 h)]
    rfl
  · rw [if_neg h, if_neg (mt hone.1 h)]
    obtain rfl : rel = false := by simpa using fun e => h (.inl e)
    rfl

theorem allOwn_false_of_mine_nil {core : Nat} {cells : List (Nat × Byte)} (h : cells.filter (fun p => ownCoreOf p.1 == some core) = []) :
    allOwn core (cells.map (·.1)) = false ∧ anyOwn core (cells.map (·.1)) = false := by
  have hnone : ∀ k ∈ cells.map (·.1), (ownCoreOf k == some core) = false := by
    intro k hk
    obtain ⟨p, hp, rfl⟩ := List.mem_map.1 hk
    simpa using List.filter_eq_nil_iff.1 h p hp
  refine ⟨?_, List.any_eq_false.2 fun k hk => by rw [hnone k hk]; exact Bool.false_ne_true⟩
  unfold allOwn
  cases hkeys : cells.map (·.1) with
  | nil => rfl
  | cons k l =>
    have := hnone k (hkeys ▸ List.mem_cons_self)
    simp [this]

/-- A store none of whose bytes lie in own memory stands in the port. -/
theorem putStore_queued {cells : List (Nat × Byte)} (u : State) (hmine : cells.filter (fun p => ownCoreOf p.1 == some u.myCore) = []) (acq : Bool) :
    Queued u (u.putStore ac scope rel ea ts acq cells)
      { id := u.portId, bundle := u.me.seq, rank := if rel then 3 else 2, cls := ac.toNat, scope := scope, acq := acq, rel := rel
        own := false, since := u.dev.clock, addr := ea.toNat, via := ts, op := .store cells }
    ∧ (u.putStore ac scope rel ea ts acq cells).mem = u.mem ∧ (u.red = [] → Calm u (u.putStore ac scope rel ea ts acq cells)) := by
  obtain ⟨hall, hany⟩ := allOwn_false_of_mine_nil hmine
  have hqueued := (access_spec u (if rel then 3 else 2) ac.toNat scope ea.toNat acq rel ts (.store cells)).1
  simp only [opKeys, hall, hany, Bool.false_eq_true, if_false, Bool.false_and, forall_const] at hqueued
  have hq : Queued u (u.putStore ac scope rel ea ts acq cells) _ := hqueued
  obtain ⟨-, hstate⟩ := id hq
  exact ⟨hq, (congrArg State.mem hstate :), fun hred => ⟨(congrArg State.red hstate :).trans hred, (congrArg State.wlog hstate :)⟩⟩

theorem ownNow_taken (i : Instr) (ts : List Trans) : (s.taken i ts).ownNow = s.ownNow := by
  unfold State.ownNow
  simp only [ctx_taken, me_taken, (Performs.taken s i ts).fl]

theorem clock_taken (i : Instr) (ts : List Trans) : (s.taken i ts).dev.clock = s.dev.clock := by
  unfold State.taken
  exact (Aside.filled ..).clock

/-- A plain store of own memory with nothing before it performs at once. -/
theorem putStore_now {cells : List (Nat × Byte)} (hnonempty : cells ≠ []) (hown : ∀ k ∈ cells.map (·.1), ownCoreOf k = some s.myCore)
    (hnow : s.ownNow = true) (hred : s.red = []) (hdup : (ts.any fun t => t.dup) = false) :
    let t := s.putStore ac scope false ea ts false cells
    t.red = [] ∧ (∀ d, t.ctx d = s.ctx d) ∧ t.fl = s.fl ∧ t.mem = s.mem ∧ ∀ k, t.byte k = (s.pokes cells).byte k := by
  have hall : allOwn s.myCore (cells.map (·.1)) = true := by
    unfold allOwn
    rw [Bool.and_eq_true, List.all_eq_true]
    refine ⟨by simpa using hnonempty, fun k hk => by rw [hown k hk]; exact beq_self_eq_true _⟩
  have hput : s.putStore ac scope false ea ts false cells =
      s.drawn.perform s.fl.ctx (s.itemNow 2 ac.toNat scope ea.toNat ts (.store cells)) := by
    unfold State.putStore State.access
    dsimp only [opKeys]
    rw [hall, if_pos rfl, settleOwn_of_ownNow hnow, hnow]
    rfl
  dsimp only
  rw [hput]
  obtain ⟨hstill, hctx, hbyte⟩ := perform_own (s := s.drawn) (c := s.fl.ctx) (i := s.itemNow 2 ac.toNat scope ea.toNat ts (.store cells)) rfl hred
    hown hdup
  exact ⟨hstill, hctx, (Performs.perform ..).fl, (Performs.perform ..).mem,
    fun k => (hbyte k).trans (byte_pokes_congr (s := s) (t := s.drawn) (fun _ => rfl) (fun _ => rfl) cells k)⟩

/-- A base that moves, and choices drawn, change no byte. -/
theorem byte_after {s t : State} (hmem : t.mem = s.mem) (races : Bool) (a : BitVec 5) (moved : Option Word64) (k : Nat) :
    (((t.racing races).moving a moved).closed s).byte k = t.byte k := by
  have hstill : ((t.racing races).moving a moved).mem = s.mem := (moving_mem ..).trans hmem
  exact (State.closed_byte hstill k).trans (byte_of_log (moving_mem ..) (moving_wlog ..) k)

theorem fl_moving (s : State) (a : BitVec 5) (moved : Option Word64) : (s.moving a moved).fl = s.fl := by
  cases moved <;> rfl

theorem ctx_moving (s : State) (a : BitVec 5) (moved : Option Word64) {c : Nat} (hc : c ≠ s.fl.ctx) : (s.moving a moved).ctx c = s.ctx c := by
  cases moved with
  | none => rfl
  | some m => exact State.ctx_setMe_ne _ _ hc

theorem me_moving_congr {s t : State} (hme : t.me = s.me) (hfl : t.fl = s.fl) (a : BitVec 5) (moved : Option Word64) :
    (t.moving a moved).me = (s.moving a moved).me := by
  cases moved with
  | none => exact hme
  | some m => exact me_write_congr hme hfl _ _

section
variable {cells : List (Nat × Byte)} (hred : s.red = [])
include hred

theorem byte_taken (i : Instr) (ts : List Trans) (k : Nat) : (s.taken i ts).byte k = s.byte k :=
  byte_of_log (Performs.taken s i ts).mem (Calm.taken hred i ts).wlog k

/-- A store that stands in the port leaves all of memory. -/
theorem sameBytes_queued (hmine : cells.filter (fun p => ownCoreOf p.1 == some s.myCore) = []) (acq : Bool) :
    SameBytes s (((((s.taken i ts).putStore ac scope rel ea ts acq cells).racing races).moving a moved).closed s) := by
  have htaken := Performs.taken s i ts
  rw [← htaken.myCore] at hmine
  obtain ⟨-, hmem, hcalm⟩ := putStore_queued (ac := ac) (scope := scope) (rel := rel) (ea := ea) (ts := ts) _ hmine acq
  intro k
  calc _ = ((s.taken i ts).putStore ac scope rel ea ts acq cells).byte k := byte_after (hmem.trans htaken.mem) races a moved k
    _ = (s.taken i ts).byte k := byte_of_log hmem (hcalm (Calm.taken hred i ts).red).wlog k
    _ = s.byte k := byte_taken hred i ts k

/-- A store to own memory with nothing before it writes its cells, the later of two at one place, and moves its base. -/
theorem putStore_taken_now (hmine : cells.filter (fun p => ownCoreOf p.1 == some s.myCore) ≠ [])
    (hrest : cells.filter (fun p => ownCoreOf p.1 != some s.myCore) = []) (hdup : (ts.any fun t => t.dup) = false) (hnow : s.ownNow = true) :
    let t := ((((s.taken i ts).putStore ac scope false ea ts false cells).racing races).moving a moved).closed s
    SameBytesBut (cells.map (·.1)) s t
      ∧ (∀ b c k w, cells = b ++ (k, w) :: c → k ∉ c.map (·.1) → s.drops k = false → t.byte k = w)
      ∧ t.fl = s.fl ∧ t.me = ((s.racing races).moving a moved).me ∧ t.red = [] ∧ ∀ c, c ≠ s.fl.ctx → t.ctx c = s.ctx c := by
  have htaken := Performs.taken s i ts
  have hown : ∀ k ∈ cells.map (·.1), ownCoreOf k = some (s.taken i ts).myCore := fun k hk => by
    obtain ⟨p, hp, rfl⟩ := List.mem_map.1 hk
    rw [htaken.myCore]
    simpa using List.filter_eq_nil_iff.1 hrest p hp
  have hnonempty : cells ≠ [] := fun h => hmine (by rw [h]; rfl)
  obtain ⟨hstill, hports, hfl, hmem, hbyte⟩ := putStore_now (ac := ac) (scope := scope) (ea := ea) hnonempty hown
    ((ownNow_taken i ts).trans hnow) (Calm.taken hred i ts).red hdup
  dsimp only
  generalize (s.taken i ts).putStore ac scope false ea ts false cells = t at hstill hports hfl hmem hbyte ⊢
  have hread : ∀ k, (((t.racing races).moving a moved).closed s).byte k = ((s.taken i ts).pokes cells).byte k := fun k =>
    (byte_after (hmem.trans htaken.mem) races a moved k).trans (hbyte k)
  have htfl : (t.racing races).fl = s.fl := hfl.trans htaken.fl
  have htme : (t.racing races).me = s.me := by
    refine Eq.trans ?_ (me_taken s i ts)
    rw [State.me, State.me, ← hports, ← hfl]
    rfl
  refine ⟨fun k hk => ?other, fun b c k w hsplit hlast hd => ?last, (fl_moving ..).trans htfl, ?me, (moving_red ..).trans hstill, fun c hc => ?ctx⟩
  case other => exact (hread k).trans ((State.byte_pokes_other _ _ _ hk).trans (byte_taken hred i ts k))
  case last =>
    refine (hread k).trans ?_
    rw [hsplit]
    exact byte_pokes_last _ b c w hlast ((htaken.drops k).trans hd)
  case me => exact me_moving_congr (s := s.racing races) htme htfl a moved
  case ctx => exact ((ctx_moving (t.racing races) a moved (htfl.symm ▸ hc)).trans (hports c)).trans (ctx_taken s i ts c)

end

theorem Performs.putStore {t : State} (h : Performs s t) (ac : BitVec 3) (scope : Nat) (rel : Bool) (ea : Word64) (ts : List Trans) (acq : Bool)
    (cells : List (Nat × Byte)) : Performs s (t.putStore ac scope rel ea ts acq cells) := h.trans (.access ..)

theorem performs_store (hplan : s.plan i = some (.ok (srcs, ts))) : Performs s (s.store i bytes ea.toNat ac.toNat scope rel) := by
  have htaken := Performs.taken s i ts
  rw [store_placed hplan]
  exact .ite (htaken.putStore ..) ((htaken.putStore ..).putStore ..)

/-- A store of any form whose base moves as `f` says. -/
theorem storeLands (hlive : s.fl.live = true) (hf : Moves f a moved)
    (hexec : exec i s = done s (f ((s.store i bytes ea.toNat ac.toNat scope rel).racing races))) (hplan : s.plan i = some place) :
    StoreLands s ac a i place bytes scope rel ea moved races := by
  refine ⟨fun e hplace => ?fault, fun srcs ts hplace => ?placed⟩
  case fault =>
    have hstore : s.store i bytes ea.toNat ac.toNat scope rel = s.accessFault e := by
      unfold State.store
      rw [hplan, hplace]
    have hended : ((s.accessFault e).racing races).fl.live = false := slotFault_live ..
    rw [hexec, hstore, hf.ended _ hended]
    exact done_closed ..
  case placed =>
    have hplaced := hplan.trans (congrArg some hplace)
    have hfl := (performs_store (bytes := bytes) (ac := ac) (scope := scope) (rel := rel) (ea := ea) hplaced).fl
    rw [hf.live (State.racing _ races) ((congrArg Flight.live hfl).trans hlive), store_placed hplaced] at hexec
    refine ⟨hexec, fun hmine => ⟨fun hred => sameBytes_queued hred hmine _, ?queued⟩, fun hmine hrest hrel hdup hnow hred => ⟨_, hexec, ?now⟩⟩
    case queued =>
      rw [← (Performs.taken s i ts).myCore] at hmine
      obtain ⟨hq, -, -⟩ := putStore_queued (ac := ac) (scope := scope) (rel := rel) (ea := ea) (ts := ts) _ hmine (ts.any fun t => t.dup)
      rwa [portId_taken, me_taken, clock_taken] at hq
    case now =>
      subst hrel
      rw [if_pos (.inr (.inr hrest)), hdup]
      exact putStore_taken_now hred hmine hrest hdup hnow

end
end Sys2Proof.Machine
end

section
/-! PROOFS. The stores of the MEM slots complete, each form at its own addresses with its own bytes (R104, R110, R113 to R115). -/

namespace Sys2Proof.Machine

/-! ### Operands as bytes -/

theorem leBytes_toNat {w : Nat} (x : BitVec w) (n : Nat) : leBytes n x.toNat = (List.range n).map fun i => x.extractLsb' (8 * i) 8 := by
  refine List.ext_getElem? fun i => ?_
  rw [leBytes_getElem?, List.getElem?_map]
  by_cases hi : i < n
  · rw [if_pos hi, List.getElem?_range hi]
    refine congrArg some (BitVec.eq_of_toNat_eq ?_)
    rw [BitVec.toNat_ofNat, BitVec.extractLsb'_toNat, Nat.shiftRight_eq_div_pow, Nat.pow_mul]
  · rw [if_neg hi, List.getElem?_eq_none (by simpa using hi)]
    rfl

theorem turnedRows_eq (ea : Word64) (tc : BitVec 32) : turnedRows ea.toNat tc = (List.range ((tcBpr tc + 1) / stt2Width (tcFmt tc))).map fun j =>
    ((ea + BitVec.ofNat 64 (16384 + 128 * j)).toNat, (tcRows tc + 1) * stt2Width (tcFmt tc)) := by
  unfold turnedRows
  refine List.map_congr_left fun j _ => ?_
  rw [BitVec.toNat_add, BitVec.toNat_ofNat, Nat.add_mod_mod, Nat.add_assoc]

theorem raced_eq (s : State) (news : List (Nat × List Byte)) : s.raced news = s.racing (!news.isEmpty) := by
  cases news <;> rfl

/-! ### Each form -/

section
variable (s : State) (sp : BitVec 2) (ac : BitVec 3) (a : BitVec 5)

theorem exec_st (sr : BitVec 6) (ord pi : BitVec 1) (addr : BitVec 10) :
    let base := s.aArg 0 a
    let n := szBytes (addr.extractLsb' 7 3).toNat
    let m := base + (addr.extractLsb' 0 7).signExtend 64 * BitVec.ofNat 64 n
    let ea := if ord = 0 ∧ pi = 0 then m else base
    exec (.st sp ac sr a ord pi addr) s = done s (((s.store (.st sp ac sr a ord pi addr)
        ((List.range n).map fun i => (s.sArg 8 sr).extractLsb' (8 * i) 8) ea.toNat ac.toNat (addr.extractLsb' 4 3).toNat (ord == 1)).racing
        false).bump pi a m.toNat)
      ∧ s.plan (.st sp ac sr a ord pi addr) = some (s.placeAligned sp.toNat .write false n ea.toNat n) := by
  have hscope : bits addr.toNat 4 3 = (addr.extractLsb' 4 3).toNat := by
    rw [BitVec.extractLsb'_toNat, Nat.shiftRight_eq_div_pow]
    rfl
  have hmoved := ldMoved_eq (s.aArg 0 a) addr
  have hea := effective_eq (s.aArg 0 a) _ ord pi _ hmoved
  dsimp only
  constructor
  · rw [← leBytes_toNat, ← State.opS_eq, ← hscope]
    show execSt sp ac sr a ord pi addr s = _
    unfold execSt
    dsimp only
    rw [State.opA_eq, hea, hmoved, div128_eq_extract]
    rfl
  · unfold State.plan
    dsimp only
    rw [State.opA_eq, hea, div128_eq_extract]

theorem exec_stv (v : BitVec 9) (ord pi : BitVec 1) (addr : BitVec 10) :
    let base := s.aArg 0 a
    let m := base + addr.signExtend 64 <<< 7
    let ea := if ord = 0 ∧ pi = 0 then m else base
    exec (.stv sp ac v a ord pi addr) s = done s (((s.store (.stv sp ac v a ord pi addr)
        ((List.range 128).map fun i => (s.vArg 0x80 v).extractLsb' (8 * i) 8) ea.toNat ac.toNat (addr.extractLsb' 7 3).toNat (ord == 1)).racing
        false).bump pi a m.toNat)
      ∧ s.plan (.stv sp ac v a ord pi addr) = some (s.placeAligned sp.toNat .write false 32 ea.toNat 128) := by
  have hmoved := vecMoved_eq (s.aArg 0 a) addr
  have hea := effective_eq (s.aArg 0 a) _ ord pi _ hmoved
  dsimp only
  constructor
  · rw [← leBytes_toNat, ← State.opV_eq, ← div128_eq_extract]
    show execStv sp ac v a ord pi addr s = _
    unfold execStv
    dsimp only
    rw [State.opA_eq, hea, hmoved]
    rfl
  · unfold State.plan
    dsimp only
    rw [State.opA_eq, hea]

theorem exec_stvs (v : BitVec 9) (r : BitVec 6) (esz : BitVec 2) :
    let base := s.aArg 0 a
    exec (.stvs sp ac v a r esz) s = done s ((s.store (.stvs sp ac v a r esz)
        ((List.range 128).map fun i => (s.vArg 0x80 v).extractLsb' (8 * i) 8) base.toNat ac.toNat 0 false).racing false)
      ∧ s.plan (.stvs sp ac v a r esz) = some (if base.toNat % 32 ≠ 0 then alignFault sp.toNat .write base.toNat
        else s.placeParts sp.toNat .write (2 ^ esz.toNat) ((List.range (128 / 2 ^ esz.toNat)).map fun j =>
          ((base + BitVec.ofNat 64 j * s.sArg 8 r).toNat, 2 ^ esz.toNat))) := by
  dsimp only
  constructor
  · rw [← leBytes_toNat, ← State.opV_eq, ← State.opA_eq]
    rfl
  · rw [← strided_eq, ← State.opA_eq]
    rfl

theorem exec_stvg (v x : BitVec 9) (esz : BitVec 2) :
    let base := s.aArg 0 a
    exec (.stvg sp ac v a x esz) s = done s ((s.store (.stvg sp ac v a x esz)
        ((List.range 128).map fun i => (s.vArg 0x80 v).extractLsb' (8 * i) 8) base.toNat ac.toNat 0 false).racing false)
      ∧ s.plan (.stvg sp ac v a x esz) = some (s.placeParts sp.toNat .write (2 ^ esz.toNat)
        ((List.range (min 32 (128 / 2 ^ esz.toNat))).map fun j =>
          ((base + ((s.vArg 0x100 x).extractLsb' (32 * j) 32).signExtend 64).toNat, 2 ^ esz.toNat))) := by
  dsimp only
  constructor
  · rw [← leBytes_toNat, ← State.opV_eq, ← State.opA_eq]
    rfl
  · rw [← gathered_eq]
    rfl

/-- The address of a tile form. -/
def State.tileAddr (s : State) (a : BitVec 5) (pi : BitVec 1) (off : BitVec 10) : Word64 :=
  if pi = 0 then s.aArg 0 a + off.signExtend 64 <<< 7 else s.aArg 0 a

theorem tileAddr_eq (pi : BitVec 1) (off : BitVec 10) :
    effective 0 pi.toNat (s.aArg 0 a).toNat (vecMoved (s.aArg 0 a).toNat off) = (s.tileAddr a pi off).toNat := by
  have h := effective_eq (s.aArg 0 a) _ 0 pi _ (vecMoved_eq (s.aArg 0 a) off)
  simp only [true_and] at h
  exact h

/-- The rows of a tile as memory holds them. -/
def plainRows (ea : Word64) (tc : BitVec 32) : List (Nat × Nat) :=
  (List.range (tcRows tc + 1)).map fun i => ((ea + BitVec.ofNat 64 (128 * i)).toNat, tcBpr tc + 1)

theorem exec_stt (tile : BitVec 4) (pi : BitVec 1) (off : BitVec 10) :
    let ea := s.tileAddr a pi off
    exec (.stt sp ac tile a pi off) s = done s (((s.store (.stt sp ac tile a pi off) (s.tileRowBytes tile.toNat) ea.toNat ac.toNat 0 false).racing
        (!(s.tileNews s.myCore tile.toNat).isEmpty)).bump pi a (s.aArg 0 a + off.signExtend 64 <<< 7).toNat)
      ∧ s.plan (.stt sp ac tile a pi off) = some (if ea.toNat % 128 ≠ 0 then alignFault sp.toNat .write ea.toNat
        else s.placeParts sp.toNat .write 1 (plainRows ea (s.mine.tctlOf tile.toNat))) := by
  have hmoved := vecMoved_eq (s.aArg 0 a) off
  dsimp only
  constructor
  · rw [← raced_eq]
    show execStt sp ac tile a pi off s = _
    unfold execStt
    dsimp only
    rw [State.opA_eq, tileAddr_eq, hmoved]
  · unfold State.plan plainRows
    dsimp only
    rw [State.opA_eq, tileAddr_eq, tileRows_eq]

theorem exec_stt2 (tile : BitVec 4) (pi : BitVec 1) (off : BitVec 10) :
    let ea := s.tileAddr a pi off
    let tc := s.mine.tctlOf tile.toNat
    exec (.stt2 sp ac tile a pi off) s = done s (((s.store (.stt2 sp ac tile a pi off) (s.tileRowBytes tile.toNat ++ s.tileColumnBytes tile.toNat)
        ea.toNat ac.toNat 0 false).racing (!(s.tileNews s.myCore tile.toNat).isEmpty)).bump pi a (s.aArg 0 a + off.signExtend 64 <<< 7).toNat)
      ∧ s.plan (.stt2 sp ac tile a pi off) = some (if ea.toNat % 128 ≠ 0 then alignFault sp.toNat .write ea.toNat
        else if stt2Bad tc then .error { code := 0x27, detail := tile.toNat, faddr := 0, line := 0, mig := false }
        else s.placeParts sp.toNat .write 1 (plainRows ea tc ++ (List.range ((tcBpr tc + 1) / stt2Width (tcFmt tc))).map fun j =>
          ((ea + BitVec.ofNat 64 (16384 + 128 * j)).toNat, (tcRows tc + 1) * stt2Width (tcFmt tc)))) := by
  have hmoved := vecMoved_eq (s.aArg 0 a) off
  dsimp only
  constructor
  · rw [← raced_eq]
    show execStt2 sp ac tile a pi off s = _
    unfold execStt2
    dsimp only
    rw [State.opA_eq, tileAddr_eq, hmoved]
  · unfold State.plan plainRows
    dsimp only
    rw [State.opA_eq, tileAddr_eq, tileRows_eq, turnedRows_eq]
    rfl

end

/-- Settles O32: an access is put in the port or performs at once (`access_spec`), and each form is a store (`storeLands`) at its own addresses
and with its own bytes. -/
theorem storesReachTheirBytes : Obligations.StoresReachTheirBytes := by
  refine ⟨access_spec, ?_⟩
  intro s sp esz ac sr v x a addr ord pi tile _ hlive
  refine ⟨?st, ?stv, ?stvs, ?stvg, ?stt, ?stt2, fun hnews o => ?read⟩
  case st =>
    obtain ⟨hexec, hplan⟩ := exec_st s sp ac a sr ord pi addr
    exact storeLands hlive (.bump ..) hexec hplan
  case stv =>
    obtain ⟨hexec, hplan⟩ := exec_stv s sp ac a v ord pi addr
    exact storeLands hlive (.bump ..) hexec hplan
  case stvs =>
    obtain ⟨hexec, hplan⟩ := exec_stvs s sp ac a v sr esz
    exact storeLands hlive (.id a) hexec hplan
  case stvg =>
    obtain ⟨hexec, hplan⟩ := exec_stvg s sp ac a v x esz
    exact storeLands hlive (.id a) hexec hplan
  case stt =>
    obtain ⟨hexec, hplan⟩ := exec_stt s sp ac a tile pi addr
    exact storeLands hlive (.bump ..) hexec hplan
  case stt2 =>
    obtain ⟨hexec, hplan⟩ := exec_stt2 s sp ac a tile pi addr
    exact storeLands hlive (.bump ..) hexec hplan
  case read =>
    unfold State.tileRead
    rw [hnews]
    rfl

end Sys2Proof.Machine
end

section
/-! PROOFS. The elements of a vector result and the bits of a mask (R22, R130 to R132). -/

namespace Sys2Proof.Machine

/-! ### Widths and elements -/

theorem fmtWidth_bounds (f : Nat) : 4 ≤ fmtWidth f ∧ fmtWidth f ≤ 64 := by
  unfold fmtWidth
  split <;> decide

theorem elems_fit {k m : Nat} (h : k ≤ m) : k * (1024 / m) ≤ 1024 :=
  (Nat.mul_le_mul_right _ h).trans (Nat.mul_div_le 1024 m)

theorem lane_lt (v : Vec) (w j : Nat) : lane v w j < 2 ^ w := Nat.mod_lt _ (Nat.two_pow_pos w)

theorem packElems_lt (w : Nat) (l : List Nat) : packElems w l < 2 ^ (w * l.length) := by
  induction l with
  | nil => exact Nat.one_pos
  | cons c l ih =>
    have hc : c % 2 ^ w < 2 ^ w := Nat.mod_lt _ (Nat.two_pow_pos w)
    have hl : 2 ^ w * (packElems w l + 1) ≤ 2 ^ w * 2 ^ (w * l.length) := Nat.mul_le_mul_left _ ih
    rw [List.length_cons, Nat.mul_succ, Nat.add_comm (w * l.length), Nat.pow_add, packElems]
    rw [Nat.mul_succ] at hl
    omega

/-- Elements that fit into a vector are packed into it as they are, with zeros above. -/
theorem toNat_packed {w : Nat} {l : List Nat} (h : w * l.length ≤ 1024) : (BitVec.ofNat 1024 (packElems w l)).toNat = packElems w l := by
  rw [BitVec.toNat_ofNat, Nat.mod_eq_of_lt ((packElems_lt w l).trans_le (Nat.pow_le_pow_right Nat.two_pos h))]

theorem lane_packed {w : Nat} {l : List Nat} (h : w * l.length ≤ 1024) (j : Nat) :
    lane (BitVec.ofNat 1024 (packElems w l)) w j = l.getD j 0 % 2 ^ w := by
  rw [lane, toNat_packed h, elemAt_packElems]

theorem getLsbD_packed {w : Nat} {l : List Nat} {b : Nat} (h : w * l.length ≤ b) : (BitVec.ofNat 1024 (packElems w l)).getLsbD b = false := by
  rw [BitVec.getLsbD_ofNat, Nat.testBit_lt_two_pow ((packElems_lt w l).trans_le (Nat.pow_le_pow_right Nat.two_pos h)), Bool.and_false]

/-! ### Flags joined -/

theorem testBit_foldl_or {α : Type} (g : α → Nat) (l : List α) (a b : Nat) :
    (l.foldl (fun a x => a ||| g x) a).testBit b = (a.testBit b || l.any fun x => (g x).testBit b) := by
  induction l generalizing a with
  | nil => simp
  | cons x l ih => simp [ih, Bool.or_assoc]

/-! ### Active elements -/

section
variable (s : State) (m : BitVec 4) (men : BitVec 1)

theorem men_cases : men = 0 ∨ men = 1 := by revert men; decide

theorem active_eq : s.active m men = s.acts m men := by
  funext j
  unfold State.active State.acts
  rcases men_cases men with rfl | rfl
  · rfl
  · rw [if_pos rfl, State.opM_eq, bitOf_toNat]
    rfl

theorem active_one : s.active m 1 = fun j => (s.mArg 0x180 m).getLsbD j := active_eq s m 1

/-- Where an element is not active there is a mask, and the old destination has been read (R131). -/
theorem elemAt_oldV (vd : BitVec 9) (w : Nat) {j : Nat} (h : s.acts m men j = false) :
    elemAt (s.oldV vd men) w j = lane (s.vArg 0x100 vd) w j := by
  unfold State.oldV
  rcases men_cases men with rfl | rfl
  · simp [State.acts] at h
  · rw [if_pos rfl, State.opV_eq]
    rfl

end

/-! ### One vector result -/

section
variable {s : State} {i : Instr} {vd : BitVec 9} {lat w n : Nat} {act : Nat → Bool} {old : Vec}

/-- Results that agree in the element's bits and in the flags are one result. -/
theorem Lanes.congr {f g : Nat → Res Nat} (h : Lanes s i vd lat w n act old f)
    (e : ∀ j, j < n → act j = true → (f j).val % 2 ^ w = (g j).val % 2 ^ w ∧ (f j).flags = (g j).flags) : Lanes s i vd lat w n act old g := by
  obtain ⟨v, flags, hexec, hlane, hzero, hflags⟩ := h
  refine ⟨v, flags, hexec, fun j hj => ?_, hzero, fun b => (hflags b).trans ?_⟩
  · rw [hlane j hj]
    by_cases ha : act j = true
    · rw [if_pos ha, if_pos ha, (e j hj ha).1]
    · rw [if_neg ha, if_neg ha]
  · refine exists_congr fun j => and_congr_right fun hj => and_congr_right fun ha => ?_
    rw [(e j hj ha).2]

/-- A list of codes that a slot writes, with flags, is a vector result of its elements. -/
theorem lanes_of_packed (hw : s.wlog = []) {codes : List Nat} {flags : Nat} {f : Nat → Res Nat}
    (hexec : exec i s = done s (s.vecResult vd lat ⟨packElems w codes, flags⟩)) (hlen : codes.length = n) (hfit : w * n ≤ 1024)
    (hcodes : ∀ j, j < n → codes.getD j 0 % 2 ^ w = if act j then (f j).val % 2 ^ w else lane old w j)
    (hflags : ∀ b, flags.testBit b = true ↔ ∃ j, j < n ∧ act j = true ∧ (f j).flags.testBit b = true) : Lanes s i vd lat w n act old f := by
  subst hlen
  refine ⟨BitVec.ofNat 1024 (packElems w codes), flags, ?_, fun j hj => ?_, fun b hb => getLsbD_packed hb, hflags⟩
  · rw [hexec]
    exact done_mergeSlot (r := s.write (.v vd.toNat _) lat) hw rfl flags
  · rw [lane_packed hfit, hcodes j hj]

/-- Merged elements: an active one is computed, any other is that of the old value, and the flags are those of the active ones (R131). -/
theorem lanes_of_merge (hw : s.wlog = []) {o : Nat} {f : Nat → Res Nat}
    (hexec : exec i s = done s (s.vecResult vd lat (mergeElems w n act o f))) (hfit : w * n ≤ 1024)
    (hold : ∀ j, act j = false → elemAt o w j = lane old w j) : Lanes s i vd lat w n act old f := by
  refine lanes_of_packed hw hexec (by simp) hfit (fun j hj => ?_) fun b => ?_
  · by_cases ha : act j = true
    · simp [hj, ha, List.getD_eq_getElem?_getD]
    · have hold := hold j (by simpa using ha)
      simp [hj, ha, List.getD_eq_getElem?_getD, hold, Nat.mod_eq_of_lt (lane_lt old w j)]
  · rw [testBit_foldl_or]
    simp only [Nat.zero_testBit, Bool.false_or, List.any_map, List.any_eq_true, List.mem_range, Function.comp_apply]
    refine exists_congr fun j => and_congr_right fun _ => ?_
    by_cases ha : act j = true <;> simp [ha]

end

section
variable {s : State} {i : Instr} {vd va vb : BitVec 9} {fmt : BitVec 5} {m : BitVec 4} {men : BitVec 1} {lat : Nat}

/-- A masked instruction merges its elements into the old destination. -/
theorem lanes_of_masked (hw : s.wlog = []) {w n : Nat} {f : Nat → Res Nat}
    (hexec : exec i s = done s (s.vecResult vd lat (mergeElems w n (s.active m men) (s.oldV vd men) f))) (hfit : w * n ≤ 1024) :
    Lanes s i vd lat w n (s.acts m men) (s.vArg 0x100 vd) f := by
  rw [active_eq] at hexec
  exact lanes_of_merge hw hexec hfit fun j hj => elemAt_oldV s m men vd w hj

theorem lanes_of_lanes2 (hw : s.wlog = []) {f : Nat → Nat → Res Nat} (hexec : exec i s = lanes2 f lat vd va vb fmt m men s) :
    Lanes s i vd lat (fmtWidth fmt.toNat) (1024 / fmtWidth fmt.toNat) (s.acts m men) (s.vArg 0x100 vd)
      fun j => f (lane (s.vArg 0 va) (fmtWidth fmt.toNat) j) (lane (s.vArg 0x80 vb) (fmtWidth fmt.toNat) j) := by
  unfold lanes2 at hexec
  dsimp only at hexec
  rw [State.opV_eq, State.opV_eq] at hexec
  exact lanes_of_masked hw hexec (elems_fit le_rfl)

theorem lanes_of_lanes1 (hw : s.wlog = []) {f : Nat → Res Nat} (hexec : exec i s = lanes1 f lat vd va fmt m men s) :
    Lanes s i vd lat (fmtWidth fmt.toNat) (1024 / fmtWidth fmt.toNat) (s.acts m men) (s.vArg 0x100 vd)
      fun j => f (lane (s.vArg 0 va) (fmtWidth fmt.toNat) j) := by
  unfold lanes1 at hexec
  dsimp only at hexec
  rw [State.opV_eq] at hexec
  exact lanes_of_masked hw hexec (elems_fit le_rfl)

end

end Sys2Proof.Machine
end

section
/-! PROOFS. Element-wise arithmetic, logic, shifts and moves of the VEC slots (R133 to R135, R137), and conversion and functions (R140, R141). -/

namespace Sys2Proof.Machine

/-! ### Codes of elements -/

/-- The integer that an element's code stands for. -/
theorem intOfCode_lane (v : Vec) (f j : Nat) : intOfCode (lane v (fmtWidth f) j) f =
    if isSignedFmt f then signExt (lane v (fmtWidth f) j) (fmtWidth f) else (lane v (fmtWidth f) j : Int) := by
  unfold intOfCode
  rw [Nat.mod_eq_of_lt (lane_lt v _ j)]

theorem bitOf_eq_testBit (c i : Nat) : bitOf c i = c.testBit i := by
  rw [Nat.testBit_eq_decide_div_mod_eq]
  rfl

/-- Settles O35: each instruction merges what its function gives for the codes of each element; those of a signed operation stand in its rule
as the integers of the codes. -/
theorem vectorArithmetic : Obligations.VectorArithmetic := by
  intro s vd va vb fmt m men hw f w x y z lat is dec int pick signed
  have hx : ∀ j, intOfCode (x j) f = int (x j) := intOfCode_lane _ f
  have hy : ∀ j, intOfCode (y j) f = int (y j) := intOfCode_lane _ f
  have hz : ∀ j, intOfCode (z j) f = int (z j) := intOfCode_lane _ f
  have arith_is (i : Instr) (l : Nat) (ff : Val → Val → Res Val) (fi : Int → Int → Int)
      (hexec : exec i s = lanes2 (arith fmt ff fi) l vd va vb fmt m men s) :
      is i l (fun j => ff (dec (x j)) (dec (y j))) fun j => fi (int (x j)) (int (y j)) := by
    simp only [is, ← hx, ← hy]
    exact lanes_of_lanes2 hw hexec
  have fma_is : is (.vfma vd va vb fmt m men) 4 (fun j => fmaVal (dec (x j)) (dec (y j)) (dec (z j))) fun j => int (x j) * int (y j) + int (z j) := by
    simp only [is, ← hx, ← hy, ← hz]
    refine lanes_of_merge hw (o := s.opV 0x100 vd.toNat) ?_ (elems_fit le_rfl) fun j _ => by rw [State.opV_eq]; rfl
    rw [← active_eq]
    simp only [x, y, z, lane, ← State.opV_eq]
    rfl
  have pick_is (i : Instr) (ff : Val → Val → Bool) (fi : Int → Int → Bool) (g : Nat → Nat → Nat)
      (hg : ∀ a b, g a b = if isFloatFmt f then (if isNan (dec a) || isNan (dec b) then (fmtNan f).getD 0 else if ff (dec a) (dec b) then b else a)
        else if fi (intOfCode a f) (intOfCode b f) then b else a)
      (hexec : exec i s = lanes2 (fun a b => ⟨g a b, 0⟩) 2 vd va vb fmt m men s) : pick i ff fi := by
    simp only [pick, ← hx, ← hy, ← hg]
    exact lanes_of_lanes2 hw hexec
  have signed_is (i : Instr) (neg : Nat → Bool) (fi : Int → Int)
      (hexec : exec i s =
        lanes1 (fun a => ⟨if isFloatFmt f then withSign a f (neg a) else wrapInt (fi (intOfCode a f)) w, 0⟩) 2 vd va fmt m men s) :
      signed i neg fi := by
    simp only [signed, ← hx]
    exact lanes_of_lanes1 hw hexec
  refine ⟨?add, ?sub, ?mul, fma_is, ?min, ?max, ?abs, ?neg⟩
  case add => exact arith_is _ _ addVal (· + ·) rfl
  case sub => exact arith_is _ _ (fun a b => addVal a (negVal b)) (· - ·) rfl
  case mul => exact arith_is _ _ mulVal (· * ·) rfl
  case min =>
    refine pick_is _ (fun a b => ltSigned b a) (fun a b => b < a) (minCode · · f) (fun a b => ?_) rfl
    simp only [minCode, decide_eq_true_eq]
    rfl
  case max =>
    refine pick_is _ (fun a b => ltSigned a b) (fun a b => a < b) (maxCode · · f) (fun a b => ?_) rfl
    simp only [maxCode, decide_eq_true_eq]
    rfl
  case abs => exact signed_is _ (fun _ => false) (fun a => a.natAbs) rfl
  case neg =>
    refine signed_is _ (fun c => !c.testBit (w - 1)) (fun a => -a) ?_
    simp only [← bitOf_eq_testBit]
    rfl

/-- Settles O36: each instruction merges what its function gives for the codes of each element; a left shift is cut to the element. -/
theorem vectorLogicShiftsAndMoves : Obligations.VectorLogicShiftsAndMoves := by
  intro s vd va vb sr fmt m men hw w x y is
  refine ⟨?and, ?or, ?xor, ?not, ?shl, ?shr, ?sra, ?mov, ?bcast, ?perm, ?sel⟩
  case and => exact lanes_of_lanes2 hw (f := fun a b => ⟨a &&& b, 0⟩) rfl
  case or => exact lanes_of_lanes2 hw (f := fun a b => ⟨a ||| b, 0⟩) rfl
  case xor => exact lanes_of_lanes2 hw (f := fun a b => ⟨a ^^^ b, 0⟩) rfl
  case not => exact lanes_of_lanes1 hw (f := fun a => ⟨2 ^ w - 1 - a, 0⟩) rfl
  case shl =>
    refine (lanes_of_lanes2 hw (f := fun a c => ⟨if w ≤ c then 0 else a * 2 ^ c % 2 ^ w, 0⟩) rfl).congr fun j _ _ => ⟨?_, rfl⟩
    simp only [Nat.shiftLeft_eq]
    split
    · rfl
    · exact Nat.mod_mod ..
  case shr =>
    simp only [is, Nat.shiftRight_eq_div_pow]
    exact lanes_of_lanes2 hw (f := fun a c => ⟨if w ≤ c then 0 else a / 2 ^ c, 0⟩) rfl
  case sra => exact lanes_of_lanes2 hw (f := fun a c => ⟨wrapInt (signExt a w / 2 ^ min c w) w, 0⟩) rfl
  case mov => exact lanes_of_lanes1 hw (f := fun a => ⟨a, 0⟩) rfl
  case bcast =>
    refine (lanes_of_masked hw (f := fun _ => ⟨s.opS 0 sr.toNat % 2 ^ w, 0⟩) rfl (elems_fit le_rfl)).congr fun j _ _ => ⟨?_, rfl⟩
    rw [State.opS_eq]
    exact Nat.mod_mod ..
  case perm =>
    simp only [is, x, y, lane, ← State.opV_eq]
    exact lanes_of_masked hw rfl (elems_fit le_rfl)
  case sel =>
    rw [← active_one]
    simp only [x, lane, ← State.opV_eq]
    exact lanes_of_merge hw rfl (elems_fit le_rfl) fun j _ => by rw [State.opV_eq]; rfl

/-- Settles O39: each instruction merges what its function gives for the codes of each element. -/
theorem vectorConversionAndFunctions : Obligations.VectorConversionAndFunctions := by
  intro s vd va sfmt fmt m men sat hw f w ws each
  have each_is (i : Instr) (g : Val → Res Val) (hexec : exec i s = lanesFn g vd va fmt m men s) : each i g := lanes_of_lanes1 hw hexec
  refine ⟨?cvt, ?rcp, ?rsq, ?exp2⟩
  case cvt =>
    have hwidth : w ≤ max (max ws w) 8 := (le_max_right ws w).trans (le_max_left _ 8)
    simp only [lane, ← State.opV_eq]
    exact lanes_of_masked hw rfl (elems_fit hwidth)
  case rcp => exact each_is _ recipVal rfl
  case rsq => exact each_is _ rsqVal rfl
  case exp2 => exact each_is _ exp2OfVal rfl

end Sys2Proof.Machine
end

section
/-! PROOFS. The masks that compares and selections give, and the mask instructions (R136, R142, R143, R147). -/

namespace Sys2Proof.Machine

/-! ### Bits of a mask -/

theorem maskFrom_succ (n : Nat) (act f : Nat → Bool) :
    maskFrom (n + 1) act f = maskFrom n act f + 2 ^ n * (act n && f n).toNat := by
  unfold maskFrom
  rw [List.range_succ, List.map_append, List.sum_append, List.map_singleton, List.sum_singleton]
  cases act n && f n
  · rfl
  · rw [if_pos rfl, Bool.toNat_true, Nat.mul_one]

theorem maskFrom_lt (n : Nat) (act f : Nat → Bool) : maskFrom n act f < 2 ^ n := by
  induction n with
  | zero => exact Nat.one_pos
  | succ n ih =>
    have hb : 2 ^ n * (act n && f n).toNat ≤ 2 ^ n * 1 := Nat.mul_le_mul_left _ (Bool.toNat_le _)
    rw [maskFrom_succ, Nat.pow_succ]
    omega

/-- A bit for each element that is active and passes (R131). -/
theorem testBit_maskFrom (n : Nat) (act f : Nat → Bool) (j : Nat) :
    (maskFrom n act f).testBit j = (decide (j < n) && act j && f j) := by
  induction n with
  | zero => simp [maskFrom]
  | succ n ih =>
    rw [maskFrom_succ, Nat.add_comm, Nat.testBit_two_pow_mul_add _ (maskFrom_lt n act f)]
    rcases Nat.lt_trichotomy j n with h | rfl | h
    · simp [h, ih, Nat.lt_succ_of_lt h]
    · simp only [Nat.lt_irrefl, if_false, Nat.sub_self, Nat.lt_succ_self, decide_true, Bool.true_and]
      cases act j && f j <;> rfl
    · obtain ⟨d, rfl⟩ : ∃ d, j = n + (d + 1) := ⟨j - n - 1, by omega⟩
      have hpast : (act n && f n).toNat.testBit (d + 1) = false :=
        Nat.testBit_lt_two_pow ((Bool.toNat_lt _).trans_le (Nat.pow_le_pow_right Nat.two_pos (Nat.le_add_left 1 d)))
      simp [hpast]

theorem getLsbD_maskFrom (n : Nat) (act f : Nat → Bool) {j : Nat} (hj : j < 128) :
    (BitVec.ofNat 128 (maskFrom n act f)).getLsbD j = (decide (j < n) && act j && f j) := by
  rw [BitVec.getLsbD_ofNat, decide_eq_true hj, Bool.true_and, testBit_maskFrom]

section
variable {s : State}

theorem exec_mask (hw : s.wlog = []) {i : Instr} {md m : BitVec 4} {men : BitVec 1} {lat n : Nat} {f : Nat → Bool}
    (hexec : exec i s = done s (s.writeM md.toNat (maskFrom n (s.active m men) f) lat)) :
    MaskOf s i md lat n (s.acts m men) f := by
  rw [active_eq] at hexec
  exact ⟨_, hexec.trans (done_write hw _ lat), fun j hj => getLsbD_maskFrom n _ f hj⟩

/-- The result of a mask instruction, ANDed with the mask operand (R147). -/
theorem exec_maskResult (hw : s.wlog = []) {i : Instr} (md m : BitVec 4) (men : BitVec 1) {x : Mask}
    (hexec : exec i s = done s (s.maskResult md m men x.toNat)) :
    exec i s = .next (s.write (.m md.toNat (if men = 1 then x &&& s.mArg 0x180 m else x)) 1) := by
  have hres : (if men = 1 then x.toNat &&& s.opM 0x180 m.toNat else x.toNat) = (if men = 1 then x &&& s.mArg 0x180 m else x).toNat := by
    rw [State.opM_eq, apply_ite BitVec.toNat, BitVec.toNat_and]
  unfold State.maskResult State.writeM at hexec
  rw [hres, BitVec.ofNat_toNat, BitVec.setWidth_eq] at hexec
  exact hexec.trans (done_write hw _ 1)

/-- The bits that MPOPC counts (R147). -/
theorem countOnes_masked (ma m : BitVec 4) (men : BitVec 1) :
    countOnes (if men = 1 then s.opM 0 ma.toNat &&& s.opM 0x180 m.toNat else s.opM 0 ma.toNat) 128
      = ((List.range 128).filter fun j => s.acts m men j && (s.mArg 0 ma).getLsbD j).length := by
  unfold countOnes
  congr 2
  funext j
  rw [bitOf_eq_testBit, State.opM_eq, State.opM_eq]
  rcases men_cases men with rfl | rfl
  · simp [State.acts, BitVec.testBit_toNat]
  · simp [State.acts, BitVec.testBit_toNat, Bool.and_comm]

end

/-! ### The order of VTOPK -/

/-- Before of R143: NaNs come last, a larger value comes first, and of two equal ones that of the smaller index. -/
theorem before_iff (x : Nat → Val) (i j : Nat) : before x i j = true ↔
    if isNan (x i) then isNan (x j) = true ∧ i < j
    else isNan (x j) = true ∨ ltVal (x j) (x i) = true ∨ (eqVal (x i) (x j) = true ∧ i < j) := by
  unfold before
  cases isNan (x i) <;> cases isNan (x j) <;> simp

theorem before_congr {x y : Nat → Val} {i j : Nat} (hi : x i = y i) (hj : x j = y j) : before x i j = before y i j := by
  unfold before
  rw [hi, hj]

/-- A candidate is taken where fewer than K candidates come before it (R143). -/
theorem exec_vtopk {s : State} (hw : s.wlog = []) (md m : BitVec 4) (va : BitVec 9) (sr : BitVec 6) (fmt : BitVec 5) (men : BitVec 1) :
    let n := 1024 / fmtWidth fmt.toNat
    let x (j : Nat) := decodeElem (lane (s.vArg 0 va) (fmtWidth fmt.toNat) j) fmt.toNat
    ∃ k : Mask, exec (.vtopk md va sr fmt m men) s = .next (s.write (.m md.toNat k) 12) ∧ ∀ j, j < 128 →
      (k.getLsbD j = true ↔ j < n ∧ s.acts m men j = true
        ∧ (((List.range n).filter (s.acts m men)).filter fun i => before x i j).length < (s.sArg 0x80 sr).toNat) := by
  intro n x
  refine ⟨_, done_write hw _ 12, fun j hj => ?_⟩
  rw [getLsbD_maskFrom _ _ _ hj]
  simp only [Bool.and_eq_true, decide_eq_true_eq, and_assoc]
  refine and_congr_right fun hn => ?_
  rw [active_eq, State.opS_eq, State.opV_eq]
  refine and_congr_right fun _ => ?_
  have hx : ∀ i, i < n → ((List.range n).map x).getD i .nan = x i := fun i hi => by simp [List.getD_eq_getElem?_getD, hi]
  have hcands : ((List.range n).filter (s.acts m men)).filter (fun i => before (fun j => ((List.range n).map x).getD j .nan) i j)
      = ((List.range n).filter (s.acts m men)).filter fun i => before x i j := List.filter_congr fun i hi =>
    before_congr (hx i (List.mem_range.1 (List.mem_of_mem_filter hi))) (hx j hn)
  rw [← hcands]
  rfl

/-- Settles O37: a mask holds a bit for each element that passes (`exec_mask`), and VTOPK's rivals are those that come before. -/
theorem comparesAndMasks : Obligations.ComparesAndMasks := by
  intro s md ma mb m sd sr va vb fmt men fn hw f w n x y ra rb put sooner
  refine ⟨?cmp, ?thr, ?topk, ?and, ?or, ?xor, ?not, ?popc⟩
  case cmp =>
    obtain ⟨k, hexec, hbits⟩ := exec_mask hw (show exec (.vcmp md va vb fmt m men fn) s = _ from rfl)
    refine ⟨k, hexec, fun j hj => (hbits j hj).trans (congrArg _ ?_)⟩
    simp only [x, y, lane, ← State.opV_eq]
    obtain ⟨⟨c, hc⟩⟩ := fn
    interval_cases c <;> rfl
  case thr =>
    simp only [x, lane, ← State.opV_eq, ← State.opS_eq]
    exact exec_mask hw rfl
  case topk =>
    obtain ⟨k, hexec, hbits⟩ := exec_vtopk hw md m va sr fmt men
    refine ⟨k, hexec, fun j hj => (hbits j hj).trans (and_congr_right fun _ => and_congr_right fun _ => ?_)⟩
    have hmem : ∀ i, i ∈ ((List.range n).filter (s.acts m men)).filter (fun i => before x i j)
        ↔ i < n ∧ s.acts m men i = true ∧ sooner i j := fun i => by
      rw [List.mem_filter, List.mem_filter, List.mem_range, before_iff, and_assoc]
    refine ⟨fun h => ⟨_, (List.nodup_range.filter _).filter _, hmem, h⟩, ?_⟩
    rintro ⟨rivals, hnodup, hrivals, hlen⟩
    refine (List.Perm.length_eq ?_).trans_lt hlen
    exact (List.perm_ext_iff_of_nodup ((List.nodup_range.filter _).filter _) hnodup).2 fun i => (hmem i).trans (hrivals i).symm
  case and =>
    refine exec_maskResult hw md m men ?_
    rw [BitVec.toNat_and, ← State.opM_eq, ← State.opM_eq]
    rfl
  case or =>
    refine exec_maskResult hw md m men ?_
    rw [BitVec.toNat_or, ← State.opM_eq, ← State.opM_eq]
    rfl
  case xor =>
    refine exec_maskResult hw md m men ?_
    rw [BitVec.toNat_xor, ← State.opM_eq, ← State.opM_eq]
    rfl
  case not =>
    refine exec_maskResult hw md m men ?_
    rw [BitVec.toNat_not, ← State.opM_eq]
    rfl
  case popc =>
    refine ⟨(List.range 128).filter fun j => s.acts m men j && ra.getLsbD j, List.nodup_range.filter _, fun j => by simp, ?_⟩
    rw [← countOnes_masked]
    exact done_write hw _ 2

end Sys2Proof.Machine
end

section
/-! PROOFS. The integers that codes stand for: in the range of their format, and the code modulo its width (R21, R62). -/

namespace Sys2Proof.Machine

/-- Reading a code as two's complement is the balanced remainder. -/
theorem signExt_eq_bmod {w : Nat} (hw : 0 < w) (c : Nat) : signExt c w = (c : Int).bmod (2 ^ w) := by
  have hmod : signExt c w = signExt (BitVec.ofNat w c).toNat w := by
    unfold signExt
    rw [BitVec.toNat_ofNat, Nat.mod_mod]
  rw [hmod, signExt_eq hw, BitVec.toInt_ofNat']

theorem fmtWidth_pos (f : Nat) : 0 < fmtWidth f := (by decide : 0 < 4).trans_le (fmtWidth_bounds f).1

theorem two_pow_fmtWidth (f : Nat) : 2 ^ fmtWidth f = 2 * 2 ^ (fmtWidth f - 1) := by
  rw [← Nat.pow_succ', Nat.succ_eq_add_one, Nat.sub_add_cancel (fmtWidth_pos f)]

/-- A code stands for the one integer in the range of its format that is the code modulo the width. -/
theorem intOfCode_eq_iff (c f : Nat) (i : Int) :
    intOfCode c f = i ↔ intMin f ≤ i ∧ i ≤ intMax f ∧ i % (2 ^ fmtWidth f : Nat) = (c : Int) % (2 ^ fmtWidth f : Nat) := by
  have hp := two_pow_fmtWidth f
  have hpos : 0 < 2 ^ fmtWidth f := Nat.two_pow_pos _
  unfold intOfCode intMin intMax
  rw [signExt_eq_bmod (fmtWidth_pos f)]
  by_cases hs : isSignedFmt f = true
  · rw [if_pos hs, if_pos hs, if_pos hs, Int.bmod_eq_iff hpos, Int.emod_eq_emod_iff_emod_sub_eq_zero, ← Int.dvd_iff_emod_eq_zero, hp]
    push_cast
    omega
  · rw [if_neg hs, if_neg hs, if_neg hs]
    have hcode : ((c % 2 ^ fmtWidth f : Nat) : Int) < (2 ^ fmtWidth f : Nat) := by exact_mod_cast Nat.mod_lt c hpos
    rw [← Int.natCast_emod]
    refine ⟨?_, fun ⟨hmin, hmax, hmod⟩ => ?_⟩
    · rintro rfl
      refine ⟨Int.natCast_nonneg _, ?_, Int.emod_eq_of_lt (Int.natCast_nonneg _) hcode⟩
      push_cast at hcode ⊢
      omega
    · rw [← hmod]
      refine Int.emod_eq_of_lt hmin ?_
      push_cast
      omega

section
variable (c f : Nat)

theorem intOfCode_range : intMin f ≤ intOfCode c f ∧ intOfCode c f ≤ intMax f :=
  have ⟨hmin, hmax, _⟩ := (intOfCode_eq_iff c f _).1 rfl
  ⟨hmin, hmax⟩

theorem intOfCode_emod : intOfCode c f % (2 ^ fmtWidth f : Nat) = (c : Int) % (2 ^ fmtWidth f : Nat) :=
  ((intOfCode_eq_iff c f _).1 rfl).2.2

theorem intOfCode_mod : intOfCode (c % 2 ^ fmtWidth f) f = intOfCode c f := by
  have ⟨hmin, hmax, hmod⟩ := (intOfCode_eq_iff c f _).1 rfl
  refine (intOfCode_eq_iff _ f _).2 ⟨hmin, hmax, ?_⟩
  rw [hmod, Int.natCast_emod, Int.emod_emod]

theorem intMin_le_intMax : intMin f ≤ intMax f := (intOfCode_range 0 f).1.trans (intOfCode_range 0 f).2

end

/-- A wrapped integer is the integer modulo any smaller width. -/
theorem wrapInt_emod (i : Int) {v w : Nat} (h : w ≤ v) : ((wrapInt i v : Nat) : Int) % (2 ^ w : Nat) = i % (2 ^ w : Nat) := by
  have hv : 0 ≤ i % 2 ^ v := Int.emod_nonneg _ (by positivity)
  unfold wrapInt
  rw [Int.toNat_of_nonneg hv]
  push_cast
  exact Int.emod_emod_of_dvd _ (pow_dvd_pow 2 h)

/-- An integer of a format is read back from its wrapped form of 64 bits. -/
theorem intOfCode_wrap64 {f : Nat} {i : Int} (hmin : intMin f ≤ i) (hmax : i ≤ intMax f) : intOfCode (wrapInt i 64) f = i :=
  (intOfCode_eq_iff _ f i).2 ⟨hmin, hmax, (wrapInt_emod i (fmtWidth_bounds f).2).symm⟩

/-- A code widened to 64 bits keeps its bits. -/
theorem wrapInt_intOfCode_mod (c f : Nat) : wrapInt (intOfCode c f) 64 % 2 ^ fmtWidth f = c % 2 ^ fmtWidth f := by
  have h := (wrapInt_emod (intOfCode c f) (fmtWidth_bounds f).2).trans (intOfCode_emod c f)
  exact_mod_cast h

end Sys2Proof.Machine
end

section
/-! PROOFS. The combinations of VRED: the tree of R138 gives the elements combined in their order, since integers combine associatively. -/

namespace Sys2Proof.Machine

/-! ### Values combined in order -/

/-- A list of values combined, the last one first; none of an empty list. -/
def joined (op : Nat → Nat → Nat) (l : List Nat) : Option Nat := l.foldr (fun x r => Option.merge op (some x) r) none

theorem joined_eq_none {op : Nat → Nat → Nat} {l : List Nat} : joined op l = none ↔ l = [] := by
  cases l with
  | nil => simp [joined]
  | cons x l =>
    refine iff_of_false ?_ (List.cons_ne_nil x l)
    show ¬Option.merge op (some x) (joined op l) = none
    cases joined op l <;> simp [Option.merge]

/-- With an element that changes no value of the list a combination is a fold. -/
theorem getD_joined {op : Nat → Nat → Nat} {e : Nat} {l : List Nat} (h : ∀ x ∈ l, op x e = x) : (joined op l).getD e = l.foldr op e := by
  induction l with
  | nil => rfl
  | cons x l ih =>
    have ih := ih fun y hy => h y (List.mem_cons_of_mem x hy)
    show (Option.merge op (some x) (joined op l)).getD e = op x (l.foldr op e)
    rw [← ih]
    cases joined op l with
    | none => exact (h x List.mem_cons_self).symm
    | some y => rfl

/-- An operation that picks the operand of the smaller key picks a least one of a list. -/
theorem joined_least {op : Nat → Nat → Nat} {key : Nat → Int}
    (hop : ∀ x y, (op x y = x ∧ key x ≤ key y) ∨ (op x y = y ∧ key y ≤ key x)) {l : List Nat} {v : Nat} (h : joined op l = some v) :
    v ∈ l ∧ ∀ x ∈ l, key v ≤ key x := by
  induction l generalizing v with
  | nil => simp [joined] at h
  | cons x l ih =>
    change Option.merge op (some x) (joined op l) = some v at h
    cases hl : joined op l with
    | none =>
      rw [hl] at h
      obtain rfl : x = v := by simpa [Option.merge] using h
      simp [joined_eq_none.1 hl]
    | some y =>
      rw [hl] at h
      obtain ⟨hmem, hle⟩ := ih hl
      obtain rfl : op x y = v := by simpa [Option.merge] using h
      rcases hop x y with ⟨he, hxy⟩ | ⟨he, hyx⟩
      · rw [he]
        exact ⟨List.mem_cons_self, List.forall_mem_cons.2 ⟨le_rfl, fun z hz => hxy.trans (hle z hz)⟩⟩
      · rw [he]
        exact ⟨List.mem_cons_of_mem x hmem, List.forall_mem_cons.2 ⟨hyx, hle⟩⟩

/-- The present nodes of a level, combined in order. -/
theorem foldr_merge_map {op : Nat → Nat → Nat} (act : Nat → Bool) (g : Nat → Nat) (l : List Nat) :
    (l.map fun j => if act j then some (g j) else none).foldr (Option.merge op) none = joined op ((l.filter act).map g) := by
  induction l with
  | nil => rfl
  | cons j l ih =>
    rw [List.map_cons, List.foldr_cons, ih]
    by_cases h : act j = true
    · rw [if_pos h, List.filter_cons_of_pos h]
      rfl
    · rw [if_neg h, List.filter_cons_of_neg h, Option.merge_none_left]

/-! ### Two nodes -/

/-- The value of two nodes combined. -/
def combine (fn f l r : Nat) : Nat := (redComb fn f l r).val

/-- The format in which VRED compares integers (R138). -/
def wideFmt (f : Nat) : Nat := if isSignedFmt f then 20 else 24

section
variable {f : Nat} (hf : isFloatFmt f = false)
include hf

theorem redComb_flags (fn l r : Nat) : (redComb fn f l r).flags = 0 := by
  unfold redComb
  rw [hf]
  dsimp only
  split <;> rfl

theorem combine_sum (l r : Nat) : combine 0 f l r = (l + r) % 2 ^ 64 := by
  unfold combine redComb
  rw [hf]
  rfl

theorem combine_min (l r : Nat) : combine 1 f l r = if intOfCode r (wideFmt f) < intOfCode l (wideFmt f) then r else l := by
  unfold combine redComb wideFmt minCode
  rw [hf]
  cases isSignedFmt f <;> rfl

theorem combine_max (l r : Nat) : combine 2 f l r = if intOfCode l (wideFmt f) < intOfCode r (wideFmt f) then r else l := by
  unfold combine redComb wideFmt maxCode
  rw [hf]
  cases isSignedFmt f <;> rfl

theorem combine_assoc (fn x y z : Nat) : combine fn f (combine fn f x y) z = combine fn f x (combine fn f y z) := by
  match fn with
  | 0 =>
    simp only [combine_sum hf]
    omega
  | 1 =>
    simp only [combine_min hf]
    grind
  | 2 =>
    simp only [combine_max hf]
    grind
  | 3 => exact Nat.land_assoc ..
  | 4 => exact Nat.lor_assoc ..
  | _ + 5 => exact Nat.xor_assoc ..

/-! ### The tree -/

/-- A level halves the nodes, keeps what they combine to, and sets no flag. -/
theorem redLevel_spec (fn : Nat) (l : List (Option Nat)) : (redLevel fn f l).2 = 0
    ∧ (redLevel fn f l).1.foldr (Option.merge (combine fn f)) none = l.foldr (Option.merge (combine fn f)) none
    ∧ (redLevel fn f l).1.length = (l.length + 1) / 2 := by
  match l with
  | [] => exact ⟨rfl, rfl, rfl⟩
  | [_] => exact ⟨rfl, rfl, by simp [redLevel]⟩
  | none :: r :: t =>
    obtain ⟨hflags, hfold, hlen⟩ := redLevel_spec fn t
    refine ⟨hflags, ?_, ?_⟩
    · simp [redLevel, hfold]
    · simp only [redLevel, List.length_cons, hlen]
      omega
  | some x :: none :: t =>
    obtain ⟨hflags, hfold, hlen⟩ := redLevel_spec fn t
    refine ⟨hflags, ?_, ?_⟩
    · simp [redLevel, hfold]
    · simp only [redLevel, List.length_cons, hlen]
      omega
  | some x :: some y :: t =>
    obtain ⟨hflags, hfold, hlen⟩ := redLevel_spec fn t
    refine ⟨?_, ?_, ?_⟩
    · simp [redLevel, hflags, redComb_flags hf]
    · show Option.merge _ (some (combine fn f x y)) _ = Option.merge _ (some x) (Option.merge _ (some y) _)
      rw [hfold]
      cases t.foldr (Option.merge (combine fn f)) none with
      | none => rfl
      | some z => exact congrArg some (combine_assoc hf fn x y z)
    · simp only [redLevel, List.length_cons, hlen]
      omega

/-- Seven levels, and any number that is enough, combine all nodes in order. -/
theorem redTree_spec (fn k : Nat) (l : List (Option Nat)) (h : l.length ≤ 2 ^ k) :
    redTree fn f k l = (l.foldr (Option.merge (combine fn f)) none, 0) := by
  induction k generalizing l with
  | zero =>
    match l, h with
    | [], _ => rfl
    | [x], _ => simp [redTree]
  | succ k ih =>
    obtain ⟨hflags, hfold, hlen⟩ := redLevel_spec hf fn l
    rw [Nat.pow_succ] at h
    rw [redTree, ih _ (by omega), hflags, hfold]
    exact congrArg (Prod.mk _) (Nat.or_zero 0)

end

end Sys2Proof.Machine
end

section
/-! PROOFS. VEXT, VINS and VRED (R137, R138). -/

namespace Sys2Proof.Machine

/-! ### Integers combined -/

theorem wideFmt_range (f : Nat) : intMin (wideFmt f) ≤ intMin f ∧ intMax f ≤ intMax (wideFmt f) := by
  have hw := (fmtWidth_bounds f).2
  have hsigned : (2 : Int) ^ (fmtWidth f - 1) ≤ 2 ^ 63 := pow_le_pow_right₀ (by decide) (by omega)
  have hplain : (2 : Int) ^ fmtWidth f ≤ 2 ^ 64 := pow_le_pow_right₀ (by decide) hw
  unfold wideFmt intMin intMax
  cases isSignedFmt f
  · exact ⟨le_rfl, Int.sub_le_sub_right hplain 1⟩
  · exact ⟨Int.neg_le_neg hsigned, Int.sub_le_sub_right hsigned 1⟩

/-- A widened element is compared by its integer. -/
theorem intOfCode_wide (c f : Nat) : intOfCode (wrapInt (intOfCode c f) 64) (wideFmt f) = intOfCode c f :=
  have ⟨hmin, hmax⟩ := intOfCode_range c f
  have ⟨hlo, hhi⟩ := wideFmt_range f
  intOfCode_wrap64 (hlo.trans hmin) (hmax.trans hhi)

theorem wrapInt_lt (i : Int) (w : Nat) : wrapInt i w < 2 ^ w := by
  have hpos : (0 : Int) < 2 ^ w := by positivity
  have h := Int.emod_lt_of_pos i hpos
  rw [wrapInt, Int.toNat_lt (Int.emod_nonneg _ hpos.ne')]
  exact_mod_cast h

section
variable {f : Nat} (live : List Nat) (c : Nat → Nat)

theorem joined_sum (hf : isFloatFmt f = false) : BitVec.ofNat 64 ((joined (combine 0 f) (live.map fun i => wrapInt (intOfCode (c i) f) 64)).getD 0) =
    BitVec.ofInt 64 ((live.map fun i => intOfCode (c i) f).sum) := by
  have hzero : ∀ x ∈ live.map (fun i => wrapInt (intOfCode (c i) f) 64), combine 0 f x 0 = x := fun x hx => by
    obtain ⟨i, -, rfl⟩ := List.mem_map.1 hx
    rw [combine_sum hf, Nat.add_zero, Nat.mod_eq_of_lt (wrapInt_lt ..)]
  rw [getD_joined hzero]
  clear hzero
  induction live with
  | nil => rfl
  | cons i live ih =>
    have hmod : ∀ n, BitVec.ofNat 64 (n % 2 ^ 64) = BitVec.ofNat 64 n := fun n => BitVec.eq_of_toNat_eq (by simp)
    rw [List.map_cons, List.foldr_cons, combine_sum hf, hmod, BitVec.ofNat_add, ih, List.map_cons, List.sum_cons, BitVec.ofInt_add]
    exact congrArg (· + _) (ofNat_wrap64 _)

/-- An operation that picks the smaller integer, or with `sign` −1 the larger one, gives a bound of all that one of them reaches. -/
theorem joined_extreme {op : Nat → Nat → Nat} (sign : Int)
    (hop : ∀ x y, (op x y = x ∧ sign * intOfCode x (wideFmt f) ≤ sign * intOfCode y (wideFmt f))
      ∨ (op x y = y ∧ sign * intOfCode y (wideFmt f) ≤ sign * intOfCode x (wideFmt f))) (e : Int) :
    ∃ r : Int, BitVec.ofNat 64 ((joined op (live.map fun i => wrapInt (intOfCode (c i) f) 64)).getD (wrapInt e 64)) = BitVec.ofInt 64 r
      ∧ (∀ i ∈ live, sign * r ≤ sign * intOfCode (c i) f)
      ∧ if live = [] then r = e else ∃ i ∈ live, r = intOfCode (c i) f := by
  cases hv : joined op (live.map fun i => wrapInt (intOfCode (c i) f) 64) with
  | none =>
    have hnil : live = [] := List.map_eq_nil_iff.1 (joined_eq_none.1 hv)
    subst hnil
    exact ⟨e, ofNat_wrap64 e, by simp, rfl⟩
  | some v =>
    obtain ⟨hmem, hle⟩ := joined_least hop hv
    obtain ⟨i, hi, rfl⟩ := List.mem_map.1 hmem
    refine ⟨intOfCode (c i) f, ofNat_wrap64 _, fun j hj => ?_, ?_⟩
    · have h := hle _ (List.mem_map_of_mem hj)
      rwa [intOfCode_wide, intOfCode_wide] at h
    · rw [if_neg (List.ne_nil_of_mem hi)]
      exact ⟨i, hi, rfl⟩

end

/-! ### Bits combined -/

theorem testBit_foldr_and (w b : Nat) (l : List Nat) :
    (l.foldr (· &&& ·) (2 ^ w - 1)).testBit b = (decide (b < w) && l.all fun x => x.testBit b) := by
  induction l with
  | nil => simp [Nat.testBit_two_pow_sub_one]
  | cons x l ih => simp [ih, Bool.and_left_comm]

theorem testBit_foldr_or (b : Nat) (l : List Nat) : (l.foldr (· ||| ·) 0).testBit b = l.any fun x => x.testBit b := by
  induction l with
  | nil => simp
  | cons x l ih => simp [ih]

theorem testBit_foldr_xor (b : Nat) (l : List Nat) :
    (l.foldr (· ^^^ ·) 0).testBit b = ((l.filter fun x => x.testBit b).length % 2 == 1) := by
  induction l with
  | nil => simp
  | cons x l ih =>
    rw [List.foldr_cons, Nat.testBit_xor, ih]
    have h2 := Nat.mod_two_eq_zero_or_one (l.filter fun x => x.testBit b).length
    by_cases hx : x.testBit b = true
    · rw [List.filter_cons, if_pos hx, List.length_cons, hx, Nat.add_mod]
      rcases h2 with h | h <;> rw [h] <;> rfl
    · rw [List.filter_cons, if_neg hx, Bool.eq_false_iff.2 hx, Bool.false_xor]

/-! ### The instructions -/

section
variable {s : State} (hw : s.wlog = [])
include hw

theorem exec_vext (sd sl : BitVec 6) (va : BitVec 9) (fmt : BitVec 5) (m : BitVec 4) (men : BitVec 1) :
    let j := (s.sArg 0x80 sl).toNat % (1024 / fmtWidth fmt.toNat)
    let c := lane (s.vArg 0 va) (fmtWidth fmt.toNat) j
    exec (.vext sd va sl fmt m men) s = .next (s.write (.s sd.toNat (if s.acts m men j then
      (if isFloatFmt fmt.toNat then BitVec.ofNat 64 c else BitVec.ofInt 64 (intOfCode c fmt.toNat)) else 0)) 3) := by
  intro j c
  refine (done_write hw _ 3).trans ?_
  rw [active_eq, State.opS_eq, State.opV_eq]
  have hvalue : BitVec.ofNat 64 (if s.acts m men j then (if isFloatFmt fmt.toNat then c else wrapInt (intOfCode c fmt.toNat) 64) else 0) =
      if s.acts m men j then (if isFloatFmt fmt.toNat then BitVec.ofNat 64 c else BitVec.ofInt 64 (intOfCode c fmt.toNat)) else 0 := by
    rw [apply_ite (BitVec.ofNat 64), apply_ite (BitVec.ofNat 64), ← ofNat_wrap64]
    rfl
  rw [← hvalue]
  rfl

section
variable (sd : BitVec 6) (va : BitVec 9) (fmt : BitVec 5) (m fn : BitVec 4) (men : BitVec 1)

/-- VRED of a float format writes what its tree gives (R138). -/
theorem exec_vred_float (hf : isFloatFmt fmt.toNat = true) : ∃ r flags,
    redTree fn.toNat fmt.toNat 7 ((List.range (1024 / fmtWidth fmt.toNat)).map fun i => if s.acts m men i then
      some (narrow (decodeFloat (lane (s.vArg 0 va) (fmtWidth fmt.toNat) i) fmt.toNat) 0 false).val else none) = (r, flags)
    ∧ exec (.vred sd va fmt m men fn) s = .next ((s.write (.s sd.toNat (BitVec.ofNat 64 (r.getD (redIdentity fn.toNat fmt.toNat))))
      (if fn = 0 then 10 else 6)).mergeSlot flags) := by
  refine ⟨_, _, rfl, (done_mergeSlot (r := s.write _ _) hw rfl _).trans ?_⟩
  have hlat : (if isFloatFmt fmt.toNat ∧ fn.toNat = 0 then 10 else 6) = if fn = 0 then 10 else 6 := by
    simp only [hf, true_and]
    exact if_congr (BitVec.toNat_inj (y := 0)) rfl rfl
  rw [active_eq, State.opV_eq, hlat]
  simp only [redLeaf, hf, if_true]
  rfl

/-- VRED of an integer format writes the active elements combined (R138). -/
theorem exec_vred_int (hf : isFloatFmt fmt.toNat = false) (h8 : 8 ≤ fmtWidth fmt.toNat) :
    exec (.vred sd va fmt m men fn) s = .next (s.write (.s sd.toNat (BitVec.ofNat 64
      ((joined (combine fn.toNat fmt.toNat) (((List.range (1024 / fmtWidth fmt.toNat)).filter (s.acts m men)).map fun i =>
        redLeaf fn.toNat fmt.toNat (lane (s.vArg 0 va) (fmtWidth fmt.toNat) i))).getD (redIdentity fn.toNat fmt.toNat)))) 6) := by
  have hn : 1024 / fmtWidth fmt.toNat ≤ 2 ^ 7 := Nat.div_le_of_le_mul (Nat.mul_le_mul_right 128 h8)
  have htree := redTree_spec hf fn.toNat 7 ((List.range (1024 / fmtWidth fmt.toNat)).map fun j => if s.acts m men j then
    some (redLeaf fn.toNat fmt.toNat (lane (s.vArg 0 va) (fmtWidth fmt.toNat) j)) else none) (by simpa using hn)
  rw [foldr_merge_map] at htree
  show execVred sd va fmt m men fn s = _
  unfold execVred laneCount
  dsimp only
  unfold lane at htree ⊢
  rw [active_eq, State.opV_eq, htree, if_neg (by simp [hf])]
  exact done_write hw _ 6

end
end

end Sys2Proof.Machine
end

section
/-! PROOFS. VSCAN (R139): the running value, which the model narrows to the element at each step, agrees with the values combined at full width.
-/

namespace Sys2Proof.Machine

/-! ### One element of a scan -/

/-- An element of a scan, from the values combined so far. -/
def scanOut (f c : Nat) : Res Nat := if isFloatFmt f then narrow (decodeFloat c 0) f false else ⟨c % 2 ^ fmtWidth f, 0⟩

/-- The running value after an element: an integer is narrowed to the element's width and widened again. -/
def scanNext (fn f c : Nat) : Nat :=
  if isFloatFmt f then c else if 3 ≤ fn then c % 2 ^ fmtWidth f else wrapInt (intOfCode (c % 2 ^ fmtWidth f) f) 64

/-- The values of the active elements before `k`, combined at full width. -/
def scanRun (fn f a : Nat) (act : Nat → Bool) : Nat → Nat
  | 0 => redIdentity fn f
  | k + 1 => if act k then combine fn f (scanRun fn f a act k) (redLeaf fn f (elemAt a (fmtWidth f) k)) else scanRun fn f a act k

theorem scanGo_active {fn f a old : Nat} {act : Nat → Bool} (n : Nat) {j : Nat} (run : Nat) (h : act j = true) :
    let c := redComb fn f run (redLeaf fn f (elemAt a (fmtWidth f) j))
    let rest := scanGo fn f a old act n (j + 1) (scanNext fn f c.val)
    scanGo fn f a old act (n + 1) j run = ((scanOut f c.val).val :: rest.1, c.flags ||| (scanOut f c.val).flags ||| rest.2) := by
  unfold scanOut scanNext
  rw [scanGo, if_pos h]
  cases isFloatFmt f <;> rfl

theorem scanGo_inactive {fn f a old : Nat} {act : Nat → Bool} (n : Nat) {j : Nat} (run : Nat) (h : act j = false) :
    scanGo fn f a old act (n + 1) j run =
      (elemAt old (fmtWidth f) j :: (scanGo fn f a old act n (j + 1) run).1, (scanGo fn f a old act n (j + 1) run).2) := by
  rw [scanGo, if_neg (by simp [h])]

/-! ### Running values -/

/-- A running value of the model stands for a value combined at full width: it is that value, but for a sum of integers, which agrees in the
bits of the element. -/
def SameRun (fn f run full : Nat) : Prop :=
  if isFloatFmt f then run = full
  else if fn = 0 then run % 2 ^ fmtWidth f = full % 2 ^ fmtWidth f
  else run = full ∧ scanNext fn f full = full

section
variable {f : Nat} (hf : isFloatFmt f = false)
include hf

theorem scanNext_widened {fn : Nat} (hfn : fn < 3) {i : Int} (hmin : intMin f ≤ i) (hmax : i ≤ intMax f) :
    scanNext fn f (wrapInt i 64) = wrapInt i 64 := by
  unfold scanNext
  rw [hf, if_neg (by decide), if_neg (by omega), intOfCode_mod, intOfCode_wrap64 hmin hmax]

theorem scanNext_bits {fn c : Nat} (hfn : 3 ≤ fn) : scanNext fn f c = c ↔ c < 2 ^ fmtWidth f := by
  unfold scanNext
  rw [hf, if_neg (by decide), if_pos hfn, Nat.mod_eq_iff_lt (Nat.two_pow_pos _).ne']

theorem scanNext_leaf (fn : Nat) {c : Nat} (hc : c < 2 ^ fmtWidth f) : scanNext fn f (redLeaf fn f c) = redLeaf fn f c := by
  unfold redLeaf
  rw [hf, if_neg (by decide)]
  split
  · next h => exact (scanNext_bits hf h).2 hc
  · next h => exact scanNext_widened hf (by omega) (intOfCode_range c f).1 (intOfCode_range c f).2

theorem scanNext_identity {fn : Nat} (hfn : fn ≠ 0) : scanNext fn f (redIdentity fn f) = redIdentity fn f := by
  have hpos := Nat.two_pow_pos (fmtWidth f)
  unfold redIdentity
  rw [hf, if_neg (by decide)]
  match fn with
  | 1 => exact scanNext_widened hf (by decide) (intMin_le_intMax f) le_rfl
  | 2 => exact scanNext_widened hf (by decide) le_rfl (intMin_le_intMax f)
  | 3 => exact (scanNext_bits hf le_rfl).2 (Nat.sub_lt hpos Nat.one_pos)
  | k + 4 => exact (scanNext_bits hf (by omega)).2 hpos

/-- Minimum, maximum and the bitwise operations keep values of the element's width. -/
theorem scanNext_combine {fn x y : Nat} (hfn : fn ≠ 0) (hx : scanNext fn f x = x) (hy : scanNext fn f y = y) :
    scanNext fn f (combine fn f x y) = combine fn f x y := by
  match fn with
  | 1 =>
    rw [combine_min hf]
    split <;> assumption
  | 2 =>
    rw [combine_max hf]
    split <;> assumption
  | 3 =>
    rw [scanNext_bits hf le_rfl] at hx hy ⊢
    exact Nat.and_lt_two_pow x hy
  | 4 =>
    rw [scanNext_bits hf (by decide)] at hx hy ⊢
    exact Nat.or_lt_two_pow hx hy
  | k + 5 =>
    rw [scanNext_bits hf (by omega)] at hx hy ⊢
    exact Nat.xor_lt_two_pow hx hy

theorem scanNext_mod (fn c : Nat) : scanNext fn f c % 2 ^ fmtWidth f = c % 2 ^ fmtWidth f := by
  unfold scanNext
  rw [hf, if_neg (by decide)]
  split
  · exact Nat.mod_mod ..
  · rw [wrapInt_intOfCode_mod, Nat.mod_mod]

theorem combine_sum_mod {run full : Nat} (h : run % 2 ^ fmtWidth f = full % 2 ^ fmtWidth f) (leaf : Nat) :
    combine 0 f run leaf % 2 ^ fmtWidth f = combine 0 f full leaf % 2 ^ fmtWidth f := by
  have hdvd : 2 ^ fmtWidth f ∣ 2 ^ 64 := pow_dvd_pow 2 (fmtWidth_bounds f).2
  rw [combine_sum hf, combine_sum hf, Nat.mod_mod_of_dvd _ hdvd, Nat.mod_mod_of_dvd _ hdvd, Nat.add_mod, h, ← Nat.add_mod]

end

theorem sameRun_identity (fn f : Nat) : SameRun fn f (redIdentity fn f) (redIdentity fn f) := by
  unfold SameRun
  split
  · rfl
  · next hf =>
    split
    · rfl
    · next hfn => exact ⟨rfl, scanNext_identity (by simpa using hf) hfn⟩

/-- An element takes the same result and flags from a running value and from the value it stands for, and so do those after it. -/
theorem sameRun_step {fn f run full c : Nat} (hc : c < 2 ^ fmtWidth f) (h : SameRun fn f run full) :
    scanOut f (combine fn f run (redLeaf fn f c)) = scanOut f (combine fn f full (redLeaf fn f c))
      ∧ (redComb fn f run (redLeaf fn f c)).flags = (redComb fn f full (redLeaf fn f c)).flags
      ∧ SameRun fn f (scanNext fn f (combine fn f run (redLeaf fn f c))) (combine fn f full (redLeaf fn f c)) := by
  unfold SameRun at h ⊢
  cases hf : isFloatFmt f with
  | true =>
    obtain rfl : run = full := by simpa [hf] using h
    exact ⟨rfl, rfl, by simp [scanNext, hf]⟩
  | false =>
    simp only [hf, if_false, Bool.false_eq_true] at h ⊢
    by_cases hfn : fn = 0
    · subst hfn
      rw [if_pos rfl] at h ⊢
      have hmod := combine_sum_mod hf h (redLeaf 0 f c)
      refine ⟨?_, by rw [redComb_flags hf, redComb_flags hf], (scanNext_mod hf 0 _).trans hmod⟩
      simp only [scanOut, hf, if_false, Bool.false_eq_true, hmod]
    · rw [if_neg hfn] at h ⊢
      obtain ⟨rfl, hnext⟩ := h
      have hcomb := scanNext_combine hf hfn hnext (scanNext_leaf hf fn hc)
      exact ⟨rfl, rfl, hcomb, hcomb⟩

/-! ### The whole scan -/

/-- The flags of an active element: those of its combination and of its narrowing. -/
def scanFlags (fn f a : Nat) (act : Nat → Bool) (k : Nat) : Nat :=
  (redComb fn f (scanRun fn f a act k) (redLeaf fn f (elemAt a (fmtWidth f) k))).flags ||| (scanOut f (scanRun fn f a act (k + 1))).flags

theorem scanGo_spec (fn f a old : Nat) (act : Nat → Bool) (n j : Nat) {run : Nat} (h : SameRun fn f run (scanRun fn f a act j)) :
    (scanGo fn f a old act n j run).1 = (List.range' j n).map (fun k =>
        if act k then (scanOut f (scanRun fn f a act (k + 1))).val else elemAt old (fmtWidth f) k)
      ∧ ∀ b, (scanGo fn f a old act n j run).2.testBit b = (List.range' j n).any fun k => act k && (scanFlags fn f a act k).testBit b := by
  induction n generalizing j run with
  | zero => exact ⟨rfl, fun b => Nat.zero_testBit b⟩
  | succ n ih =>
    rw [List.range'_succ]
    cases hact : act j with
    | false =>
      have hrun : scanRun fn f a act (j + 1) = scanRun fn f a act j := by rw [scanRun, if_neg (by simp [hact])]
      obtain ⟨hcodes, hflags⟩ := ih (j + 1) (run := run) (by rwa [hrun])
      rw [scanGo_inactive n run hact]
      exact ⟨by simp [hact, hcodes], fun b => by simp [hact, hflags]⟩
    | true =>
      have hrun : scanRun fn f a act (j + 1) = combine fn f (scanRun fn f a act j) (redLeaf fn f (elemAt a (fmtWidth f) j)) := by
        rw [scanRun, if_pos hact]
      obtain ⟨hout, hfl, hsame⟩ := sameRun_step (c := elemAt a (fmtWidth f) j) (Nat.mod_lt _ (Nat.two_pow_pos _)) h
      rw [← hrun] at hout hsame
      obtain ⟨hcodes, hflags⟩ := ih (j + 1) hsame
      have hstep := scanGo_active (a := a) (old := old) (fn := fn) (f := f) n run hact
      dsimp only at hstep
      change _ = ((scanOut f (combine fn f run _)).val :: (scanGo fn f a old act n (j + 1) (scanNext fn f (combine fn f run _))).1, _ |||
        (scanOut f (combine fn f run _)).flags ||| (scanGo fn f a old act n (j + 1) (scanNext fn f (combine fn f run _))).2) at hstep
      rw [hstep, hout, hfl]
      exact ⟨by simp [hact, hcodes], fun b => by simp [hact, hflags, scanFlags]⟩

theorem range_filter_lt {k n : Nat} (h : k ≤ n) : (List.range n).filter (fun i => decide (i < k)) = List.range k := by
  obtain ⟨d, rfl⟩ := Nat.exists_eq_add_of_le h
  have hbelow : (List.range k).filter (fun i => decide (i < k)) = List.range k := List.filter_eq_self.2 fun i hi => by simpa using hi
  have habove : ((List.range d).map (k + ·)).filter (fun i => decide (i < k)) = [] := by simp
  rw [List.range_add, List.filter_append, hbelow, habove, List.append_nil]

/-- The values combined before an element, as a fold over the active elements. -/
theorem foldl_active (fn f a : Nat) (act : Nat → Bool) {k n : Nat} (h : k ≤ n) :
    (((List.range n).filter act).filter (fun i => decide (i < k))).foldl (fun r i => combine fn f r (redLeaf fn f (elemAt a (fmtWidth f) i)))
      (redIdentity fn f) = scanRun fn f a act k := by
  rw [List.filter_comm, range_filter_lt h]
  clear h
  induction k with
  | zero => rfl
  | succ k ih =>
    rw [List.range_succ, List.filter_append, List.foldl_append, ih, scanRun]
    by_cases ha : act k = true
    · rw [if_pos ha, List.filter_cons_of_pos ha]
      rfl
    · rw [if_neg ha, List.filter_cons_of_neg ha]
      rfl

section
variable {s : State} (hw : s.wlog = []) (vd va : BitVec 9) (fmt : BitVec 5) (m fn : BitVec 4) (men : BitVec 1)
include hw

theorem exec_vscan : Lanes s (.vscan vd va fmt m men fn) vd 12 (fmtWidth fmt.toNat) (1024 / fmtWidth fmt.toNat) (s.acts m men) (s.vArg 0x100 vd)
    fun j => ⟨(scanOut fmt.toNat (scanRun fn.toNat fmt.toNat (s.vArg 0 va).toNat (s.acts m men) (j + 1))).val,
      scanFlags fn.toNat fmt.toNat (s.vArg 0 va).toNat (s.acts m men) j⟩ := by
  obtain ⟨hcodes, hflags⟩ := scanGo_spec fn.toNat fmt.toNat (s.vArg 0 va).toNat (s.oldV vd men) (s.acts m men) (1024 / fmtWidth fmt.toNat) 0
    (sameRun_identity fn.toNat fmt.toNat)
  rw [← List.range_eq_range'] at hcodes hflags
  have hexec : exec (.vscan vd va fmt m men fn) s = done s (s.vecResult vd 12 ⟨packElems (fmtWidth fmt.toNat) _, _⟩) := rfl
  rw [active_eq, State.opV_eq] at hexec
  refine lanes_of_packed hw hexec ?_ (elems_fit le_rfl) (fun j hj => ?_) fun b => ?_
  · exact (congrArg List.length hcodes).trans (by simp)
  · refine (congrArg (fun l => l.getD j 0 % _) hcodes).trans ?_
    cases ha : s.acts m men j with
    | true => simp [List.getD_eq_getElem?_getD, hj, ha]
    | false => simp [List.getD_eq_getElem?_getD, hj, ha, elemAt_oldV s m men vd _ ha, Nat.mod_eq_of_lt (lane_lt (s.vArg 0x100 vd) _ j)]
  · exact (Eq.congr_left (hflags b)).trans (by simp)

end

end Sys2Proof.Machine
end

section
/-! PROOFS. Lane moves, reductions and scans complete (R137 to R139). -/

namespace Sys2Proof.Machine

/-- VINS: the one element that S names is written (R137). -/
theorem exec_vins {s : State} (hw : s.wlog = []) (vd : BitVec 9) (sr sl : BitVec 6) (fmt : BitVec 5) (m : BitVec 4) (men : BitVec 1) :
    let n := 1024 / fmtWidth fmt.toNat
    let j := (s.sArg 0x80 sl).toNat % n
    (s.acts m men j = false → exec (.vins vd sr sl fmt m men) s = .next s)
      ∧ (s.acts m men j = true → Lanes s (.vins vd sr sl fmt m men) vd 2 (fmtWidth fmt.toNat) n (fun i => i == j) (s.vArg 0x100 vd)
        fun _ => ⟨(s.sArg 0 sr).toNat, 0⟩) := by
  intro n j
  have hexec : exec (.vins vd sr sl fmt m men) s = done s (if s.acts m men j then s.vecResult vd 2
      (mergeElems (fmtWidth fmt.toNat) n (fun i => i == j) (s.vArg 0x100 vd).toNat fun _ =>
        ⟨(s.sArg 0 sr).toNat % 2 ^ fmtWidth fmt.toNat, 0⟩) else s) := by
    simp only [j, ← active_eq, ← State.opS_eq, ← State.opV_eq]
    rfl
  refine ⟨fun h => ?_, fun h => ?_⟩
  · rw [hexec, if_neg (by simp [h])]
    exact done_eq hw rfl
  · rw [if_pos h] at hexec
    exact (lanes_of_merge hw hexec (elems_fit le_rfl) fun _ _ => rfl).congr fun i _ _ => ⟨Nat.mod_mod .., rfl⟩

/-! ### Leaves and identities of integers -/

section
variable {f : Nat} (hf : isFloatFmt f = false)
include hf

theorem redLeaf_wide {fn : Nat} (hfn : fn < 3) (c : Nat) : redLeaf fn f c = wrapInt (intOfCode c f) 64 := by
  rw [redLeaf, hf, if_neg (by decide), if_neg (by omega)]

theorem redLeaf_bits {fn : Nat} (hfn : 3 ≤ fn) (c : Nat) : redLeaf fn f c = c := by
  rw [redLeaf, hf, if_neg (by decide), if_pos hfn]

theorem redIdentity_sum : redIdentity 0 f = 0 := by
  unfold redIdentity
  rw [hf]
  rfl

theorem redIdentity_min : redIdentity 1 f = wrapInt (intMax f) 64 := by
  unfold redIdentity
  rw [hf]
  rfl

theorem redIdentity_max : redIdentity 2 f = wrapInt (intMin f) 64 := by
  unfold redIdentity
  rw [hf]
  rfl

theorem redIdentity_and : redIdentity 3 f = 2 ^ fmtWidth f - 1 := by
  unfold redIdentity
  rw [hf]
  rfl

theorem redIdentity_or_xor (k : Nat) : redIdentity (k + 4) f = 0 := by
  unfold redIdentity
  rw [hf]
  rfl

theorem combine_least (x y : Nat) : (combine 1 f x y = x ∧ 1 * intOfCode x (wideFmt f) ≤ 1 * intOfCode y (wideFmt f))
    ∨ (combine 1 f x y = y ∧ 1 * intOfCode y (wideFmt f) ≤ 1 * intOfCode x (wideFmt f)) := by
  rw [combine_min hf]
  split
  · exact .inr ⟨rfl, by omega⟩
  · exact .inl ⟨rfl, by omega⟩

theorem combine_greatest (x y : Nat) : (combine 2 f x y = x ∧ -1 * intOfCode x (wideFmt f) ≤ -1 * intOfCode y (wideFmt f))
    ∨ (combine 2 f x y = y ∧ -1 * intOfCode y (wideFmt f) ≤ -1 * intOfCode x (wideFmt f)) := by
  rw [combine_max hf]
  split
  · exact .inr ⟨rfl, by omega⟩
  · exact .inl ⟨rfl, by omega⟩

end

/-- The bits of a bitwise reduction (R138). -/
theorem testBit_joined {f fn : Nat} (hf : isFloatFmt f = false) (hfn : 3 ≤ fn) {l : List Nat} (hl : ∀ x ∈ l, x < 2 ^ fmtWidth f) (b : Nat) :
    ((joined (combine fn f) l).getD (redIdentity fn f)).testBit b =
      if fn = 3 then decide (b < fmtWidth f) && l.all fun x => x.testBit b
      else if fn = 4 then l.any fun x => x.testBit b
      else (l.filter fun x => x.testBit b).length % 2 == 1 := by
  match fn with
  | 3 =>
    have hid : ∀ x ∈ l, combine 3 f x (2 ^ fmtWidth f - 1) = x := fun x hx =>
      (Nat.and_two_pow_sub_one_eq_mod x _).trans (Nat.mod_eq_of_lt (hl x hx))
    rw [redIdentity_and hf, getD_joined hid]
    exact testBit_foldr_and _ b l
  | 4 =>
    have hid : ∀ x ∈ l, combine 4 f x 0 = x := fun x _ => Nat.or_zero x
    rw [redIdentity_or_xor hf 0, getD_joined hid]
    exact testBit_foldr_or b l
  | k + 5 =>
    have hid : ∀ x ∈ l, combine (k + 5) f x 0 = x := fun x _ => Nat.xor_zero x
    rw [redIdentity_or_xor hf (k + 1), getD_joined hid, if_neg (by omega), if_neg (by omega)]
    exact testBit_foldr_xor b l

/-- Settles O38: integers combine associatively, so the tree of VRED gives them combined in order; the scan's narrowed running value stands for
the values combined at full width. -/
theorem laneMovesReductionsAndScans : Obligations.LaneMovesReductionsAndScans := by
  intro s sd sr sl vd va fmt m fn men hw f w n x act j int put live red
  have hint : ∀ i, intOfCode (x i) f = int (x i) := intOfCode_lane _ f
  obtain ⟨hvins_off, hvins_on⟩ := exec_vins hw vd sr sl fmt m men
  have hred (op : Nat) (hop : fn.toNat = op) (hf : isFloatFmt f = false) (h8 : 8 ≤ w) : put red (BitVec.ofNat 64
      ((joined (combine op f) (live.map fun i => redLeaf op f (x i))).getD (redIdentity op f))) 6 := by
    subst hop
    exact exec_vred_int hw sd va fmt m fn men hf h8
  refine ⟨?ext, hvins_off, hvins_on, fun hf h8 hfn => ?sum, fun hf h8 hfn => ?min, fun hf h8 hfn => ?max, fun hf h8 hfn => ?bits,
    exec_vred_float hw sd va fmt m fn men, ?scan⟩
  case ext =>
    rw [← hint]
    exact exec_vext hw sd sl va fmt m men
  case sum =>
    have h := hred 0 (by rw [hfn]; rfl) hf h8
    rw [redIdentity_sum hf, List.map_congr_left fun i _ => redLeaf_wide hf (by decide) (x i), joined_sum live x hf] at h
    simpa only [← hint] using h
  case min =>
    have h := hred 1 (by rw [hfn]; rfl) hf h8
    obtain ⟨r, hr, hle, hone⟩ := joined_extreme live x 1 (combine_least hf) (intMax f)
    rw [redIdentity_min hf, List.map_congr_left fun i _ => redLeaf_wide hf (by decide) (x i), hr] at h
    simp only [hint, one_mul] at hle hone
    exact ⟨r, h, hle, hone⟩
  case max =>
    have h := hred 2 (by rw [hfn]; rfl) hf h8
    obtain ⟨r, hr, hle, hone⟩ := joined_extreme live x (-1) (combine_greatest hf) (intMin f)
    rw [redIdentity_max hf, List.map_congr_left fun i _ => redLeaf_wide hf (by decide) (x i), hr] at h
    simp only [hint, neg_one_mul, neg_le_neg_iff] at hle hone
    exact ⟨r, h, hle, hone⟩
  case bits =>
    have hbits : ∀ y ∈ live.map x, y < 2 ^ fmtWidth f := fun y hy => by
      obtain ⟨i, -, rfl⟩ := List.mem_map.1 hy
      exact lane_lt ..
    have h := hred fn.toNat rfl hf h8
    rw [List.map_congr_left fun i _ => redLeaf_bits hf hfn (x i)] at h
    refine ⟨_, h, fun b hb => ?_⟩
    rw [getLsbD_ofNat64 _ hb, testBit_joined hf hfn hbits, List.all_map, List.any_map, List.filter_map, List.length_map]
    clear h hred red
    obtain ⟨⟨c, hc⟩⟩ := fn
    change 3 ≤ c at hfn
    interval_cases c <;> rfl
  case scan =>
    intro run
    have hrun : ∀ k, k ≤ n → run k = scanRun fn.toNat f (s.vArg 0 va).toNat act k := fun k hk => foldl_active fn.toNat f _ act hk
    refine (exec_vscan hw vd va fmt m fn men).congr fun i hi ha => ?_
    rw [hrun i hi.le, hrun (i + 1) hi]
    unfold scanFlags scanOut
    cases hf : isFloatFmt f with
    | true => exact ⟨rfl, rfl⟩
    | false => exact ⟨Nat.mod_mod .., (Nat.or_zero _).trans (redComb_flags hf ..)⟩

end Sys2Proof.Machine
end

section
/-! PROOFS. Tile results of the transform units (R45, R148, R149), and rows quantised in blocks of four (R38, R152, R153). -/

namespace Sys2Proof.Machine

/-! ### A tile put on its way -/

theorem elemAt_mod {w e m : Nat} (x : Nat) (h : w * e + w ≤ m) : elemAt (x % 2 ^ m) w e = elemAt x w e := by
  refine Nat.eq_of_testBit_eq fun i => ?_
  simp only [elemAt, Nat.testBit_mod_two_pow, Nat.testBit_div_two_pow]
  by_cases hi : i < w
  · simp [hi, show i + w * e < m by omega]
  · simp [hi]

/-- The bytes of a row hold its elements, where they are enough for them. -/
theorem elemAt_rowBytes {w n e : Nat} (l : List Nat) (h : w * e + w ≤ 8 * n) :
    elemAt (leNat (leBytes n (packElems w l))) w e = l.getD e 0 % 2 ^ w := by
  rw [leNat_leBytes, show 256 ^ n = 2 ^ (8 * n) from (Nat.pow_mul 2 8 n).symm, elemAt_mod _ h, elemAt_packElems]

section
variable {s : State} {t lat rows n w count : Nat} {row : Nat → List Nat} {code : Nat → Nat → Nat} {tc : BitVec 32}

theorem tileOut_writeTile (hbits : count * w ≤ 8 * n)
    (hcode : ∀ r e, r < rows → e < count → (row r).getD e 0 % 2 ^ w = code r e % 2 ^ w) :
    TileOut s (s.writeTile t lat (((List.range rows).map row).map (packElems w)) n tc) t lat rows n w count code tc := by
  refine ⟨tileRuns n (((List.range rows).map row).map (packElems w)), rfl, by simp [tileRuns], fun r run hrun => ?_⟩
  have hr : r < rows := by
    have h := (List.getElem?_eq_some_iff.1 hrun).1
    simpa [tileRuns] using h
  obtain rfl : (128 * r, leBytes n (packElems w (row r))) = run := by simpa [tileRuns, hr] using hrun
  refine ⟨rfl, leBytes_length .., fun e he => ?_⟩
  have hfit : w * e + w ≤ 8 * n := by
    rw [← Nat.mul_succ, Nat.mul_comm]
    exact (Nat.mul_le_mul_right w he).trans hbits
  rw [elemAt_rowBytes _ hfit, hcode r e hr he]

end

theorem raced_fresh (s : State) (news : List (Nat × List Byte)) :
    s.raced news = { s with fresh := if news = [] then s.fresh else s.fresh + 4096 } := by
  unfold State.raced
  split <;> rfl

/-- A transform of tile `a` puts tile `d` on its way: `rows` rows of `count` elements of format `df`, and, where that is a block format, its
companion of scales; the unit is busy for `ii` cycles (R148, R149). -/
def GivesTile (s : State) (i : Instr) (a d unit ii lat df gsz rows count : Nat) (code scale : Nat → Nat → Nat) (flags : Nat) : Prop :=
  let u : State := { s with fresh := if s.tileNews s.myCore a = [] then s.fresh else s.fresh + 4096 }
  let v := u.setMine { s.mine with xfmNext := tabPut s.mine.xfmNext unit (s.fl.t + ii) }
  ∃ t, TileOut v t d lat rows (count * fmtWidth df / 8) (fmtWidth df) count code (tcOf df (rows - 1) (count * fmtWidth df / 8 - 1) gsz)
    ∧ (isBlockFmt df = false → exec i s = .next (t.mergeSlot flags))
    ∧ (isBlockFmt df = true → ∃ c, TileOut t c (d + 1) lat rows (2 * ((count + 3) / 4)) 16 ((count + 3) / 4) scale
        (tcOf 22 (rows - 1) (count / 2 - 1) 0)
      ∧ exec i s = .next (c.mergeSlot flags))

theorem givesTile_of_result {s : State} (hw : s.wlog = []) {i : Instr} {a d unit ii lat df gsz rows count flags : Nat}
    {row : Nat → List Nat} {scales : List (List Nat)} {code scale : Nat → Nat → Nat}
    (hexec : exec i s = done s (s.tileResult unit ii d lat df gsz a ((List.range rows).map row) scales flags))
    (hrows : 0 < rows) (hlen : ∀ r, (row r).length = count) (hbits : 8 ∣ count * fmtWidth df)
    (hcode : ∀ r e, r < rows → e < count → (row r).getD e 0 % 2 ^ fmtWidth df = code r e % 2 ^ fmtWidth df)
    (hscale : isBlockFmt df = true → ∃ srow : Nat → List Nat, scales = (List.range rows).map srow
      ∧ ∀ r b, r < rows → b < (count + 3) / 4 → (srow r).getD b 0 % 2 ^ 16 = scale r b % 2 ^ 16) :
    GivesTile s i a d unit ii lat df gsz rows count code scale flags := by
  have hhead : (((List.range rows).map row).headD []).length = count := by
    obtain ⟨k, rfl⟩ : ∃ k, rows = k + 1 := ⟨rows - 1, by omega⟩
    rw [List.range_succ_eq_map]
    exact hlen 0
  unfold State.tileResult at hexec
  simp only [raced_fresh, List.length_map, List.length_range, hhead] at hexec
  refine ⟨_, tileOut_writeTile (Nat.mul_div_cancel' hbits).ge hcode, fun hblock => ?_, fun hblock => ?_⟩
  · rw [hexec, if_neg (by simp [hblock])]
    refine done_mergeSlot ?_ rfl flags
    exact hw
  · obtain ⟨srow, rfl, hsrow⟩ := hscale hblock
    refine ⟨_, tileOut_writeTile (by omega) hsrow, ?_⟩
    rw [hexec, if_pos hblock]
    refine done_mergeSlot ?_ rfl flags
    exact hw

/-! ### Blocks of four -/

theorem length_blockQuantise (xs : List Val) (f : Nat) : (blockQuantise xs f).val.2.length = xs.length := by
  unfold blockQuantise
  split
  · simp
  · split <;> simp

theorem length_flatMap_four {g : Nat → List Nat} (hg : ∀ k, (g k).length = 4) (n : Nat) : ((List.range n).flatMap g).length = 4 * n := by
  simp [List.length_flatMap, hg, Nat.mul_comm]

/-- Element `e` of lists of four one after another. -/
theorem getD_flatMap_four {g : Nat → List Nat} (hg : ∀ k, (g k).length = 4) {n e : Nat} (he : e < 4 * n) :
    ((List.range n).flatMap g).getD e 0 = (g (e / 4)).getD (e % 4) 0 := by
  have hlen := length_flatMap_four hg
  induction n with
  | zero => omega
  | succ n ih =>
    rw [List.range_succ, List.flatMap_append, List.flatMap_singleton]
    rcases Nat.lt_or_ge e (4 * n) with h | h
    · rw [List.getD_append _ _ _ _ (by rwa [hlen]), ih h]
    · rw [List.getD_append_right _ _ _ _ (by rwa [hlen]), hlen, show e / 4 = n by omega, show e % 4 = e - 4 * n by omega]

/-- The codes, the scales and the flags of blocks. -/
def blockRun (q : Nat → Res (Nat × List Nat)) (ks : List Nat) : List Nat × List Nat × Flags6 :=
  (ks.flatMap fun k => (q k).val.2, ks.map fun k => (q k).val.1, ks.foldr (fun k a => (q k).flags ||| a) 0)

theorem blockRun_congr {q p : Nat → Res (Nat × List Nat)} {ks : List Nat} (h : ∀ k ∈ ks, q k = p k) : blockRun q ks = blockRun p ks := by
  have hcodes := List.flatMap_congr fun k hk => congrArg (fun r : Res (Nat × List Nat) => r.val.2) (h k hk)
  have hscales := List.map_congr_left fun k hk => congrArg (fun r : Res (Nat × List Nat) => r.val.1) (h k hk)
  have hflags := List.foldr_ext _ _ (0 : Nat) fun k hk a => congrArg (fun r : Res (Nat × List Nat) => r.flags ||| a) (h k hk)
  exact Prod.ext hcodes (Prod.ext hscales hflags)

/-- The last `n` blocks of a list, one after another. -/
theorem quantBlocks_eq (f : Nat) (xs : List Val) (n : Nat) (hn : n ≤ xs.length / 4) :
    quantBlocks f xs n = blockRun (fun k => blockQuantise ((xs.drop (4 * k)).take 4) f) (List.range' (xs.length / 4 - n) n) := by
  induction n with
  | zero => rfl
  | succ n ih =>
    have hnext : xs.length / 4 - n = xs.length / 4 - (n + 1) + 1 := by omega
    rw [quantBlocks, ih (by omega), hnext]
    rfl

theorem testBit_foldr_flags {α : Type} (g : α → Nat) (l : List α) (b : Nat) :
    (l.foldr (fun x a => g x ||| a) 0).testBit b = l.any fun x => (g x).testBit b := by
  induction l with
  | nil => exact Nat.zero_testBit b
  | cons x l ih => simp [ih]

theorem take_drop_range {α : Type} (v : Nat → α) {c k : Nat} (h : 4 * k + 4 ≤ c) :
    (((List.range c).map v).drop (4 * k)).take 4 = (List.range 4).map fun i => v (4 * k + i) := by
  refine List.ext_getElem (by simp; omega) fun i h1 h2 => ?_
  simp

/-- Four elements of a row quantised: block `b` of the values that `v` gives (R38). -/
def quantBlock (f : Nat) (v : Nat → Val) (b : Nat) : Res (Nat × List Nat) := blockQuantise ((List.range 4).map fun k => v (4 * b + k)) f

/-- A row of `c` elements quantised: its codes, its scales, and the flags of the blocks and of the values read (R152, R153). -/
def quantRow (f : Nat) (val : Nat → Res Val) (c : Nat) : List Nat × List Nat × Flags6 :=
  let xs := (List.range c).map val
  let q := quantBlocks f (xs.map (·.val)) (c / 4)
  (q.1, q.2.1, q.2.2 ||| resFlags xs)

theorem quantBlocks_range (f : Nat) (v : Nat → Val) (c : Nat) :
    quantBlocks f ((List.range c).map v) (c / 4) = blockRun (quantBlock f v) (List.range (c / 4)) := by
  rw [quantBlocks_eq _ _ _ (by simp), List.length_map, List.length_range, Nat.sub_self, ← List.range_eq_range']
  refine blockRun_congr fun k hk => ?_
  have hk := List.mem_range.1 hk
  rw [take_drop_range v (by omega), quantBlock]

theorem quantRow_spec (f : Nat) (val : Nat → Res Val) {c : Nat} (hc : c % 4 = 0) :
    let q := quantBlock f fun e => (val e).val
    (quantRow f val c).1.length = c
      ∧ (∀ e, e < c → (quantRow f val c).1.getD e 0 = (q (e / 4)).val.2.getD (e % 4) 0)
      ∧ (∀ b, b < (c + 3) / 4 → (quantRow f val c).2.1.getD b 0 = (q b).val.1)
      ∧ ∀ b, (quantRow f val c).2.2.testBit b = true ↔ ∃ e, e < c ∧ ((q (e / 4)).flags ||| (val e).flags).testBit b = true := by
  intro q
  have hfour : ∀ k, (q k).val.2.length = 4 := fun k => by simp [q, quantBlock, length_blockQuantise]
  have hrun : quantBlocks f (((List.range c).map val).map (·.val)) (c / 4) = blockRun q (List.range (c / 4)) := by
    rw [List.map_map]
    exact quantBlocks_range f _ c
  unfold quantRow
  dsimp only
  rw [hrun]
  unfold blockRun
  dsimp only
  refine ⟨?_, fun e he => getD_flatMap_four hfour (by omega), fun b hb => ?_, fun b => ?_⟩
  · rw [length_flatMap_four hfour]
    omega
  · simp [List.getD_eq_getElem?_getD, show b < c / 4 by omega]
  · rw [Nat.testBit_or, testBit_foldr_flags, resFlags, testBit_foldl_or]
    simp only [Nat.zero_testBit, Bool.false_or, Bool.or_eq_true, List.any_eq_true, List.any_map, List.mem_range, Nat.testBit_or, Function.comp_apply]
    constructor
    · rintro (⟨k, hk, hb⟩ | ⟨e, he, hb⟩)
      · exact ⟨4 * k, by omega, .inl (by rwa [Nat.mul_div_cancel_left k (by decide)])⟩
      · exact ⟨e, he, .inr hb⟩
    · rintro ⟨e, he, hb | hb⟩
      · exact .inl ⟨e / 4, by omega, hb⟩
      · exact .inr ⟨e, he, hb⟩

/-- Rows quantised, with the flags of all of them. -/
theorem testBit_rowFlags {α : Type} (g : Nat → α) (flags : α → Nat) (rows b : Nat) :
    (((List.range rows).map g).foldl (fun a q => a ||| flags q) 0).testBit b = true ↔ ∃ r, r < rows ∧ (flags (g r)).testBit b = true := by
  rw [testBit_foldl_or]
  simp

end Sys2Proof.Machine
end

section
/-! PROOFS. XEXP, XTRN, XCVT and XREBLK (R149 to R153). -/

namespace Sys2Proof.Machine

/-! ### Whole bytes of a row -/

/-- Widths are whole bytes, but for 4 and 6 bits. -/
theorem fmtWidth_cases (f : Nat) : 8 ∣ fmtWidth f ∨ fmtWidth f = 4 ∨ fmtWidth f = 6 := by
  unfold fmtWidth
  split <;> decide

theorem bytes_whole {c f : Nat} (h6 : fmtWidth f = 6 → c % 4 = 0) (h4 : fmtWidth f = 4 → c % 2 = 0) : 8 ∣ c * fmtWidth f := by
  rcases fmtWidth_cases f with h | h | h
  · exact h.mul_left c
  · have h4 := h4 h
    rw [h]
    omega
  · have h6 := h6 h
    rw [h]
    omega

theorem getD_map_range (g : Nat → Nat) {n e : Nat} (h : e < n) : ((List.range n).map g).getD e 0 = g e := by
  simp [List.getD_eq_getElem?_getD, h]

section
variable {s : State} {i : Instr} {bad : Prop} [Decidable bad] {a : Nat} {t : State}

/-- A source that the unit does not take is TILEFMT with the source's number (R149). -/
theorem exec_tileFmt (hexec : exec i s = done s (if bad then s.slotFault causeTileFmt a 0 else t)) (h : bad) :
    exec i s = .next ((s.slotFault 0x27 a 0).closed s) := by
  rw [hexec, if_pos h]
  rfl

end

/-! ### Each instruction -/

section
variable (s : State) (td ta : BitVec 4) (fmt : BitVec 5)

/-- The source tile in the format of its control register. -/
def State.plainSource (ta : BitVec 4) : Source := s.source ta.toNat (tcFmt (s.mine.tctlOf ta.toNat))

/-- A source that XTRN does not take (R151; log entry 89). -/
def State.xtrnBad : Prop :=
  let g := tcFmt (s.mine.tctlOf ta.toNat)
  ¬(g < 5 ∨ (17 ≤ g ∧ g < 25)) ∨ 1024 < (s.plainSource ta).nrow * fmtWidth g ∨ (s.plainSource ta).ecnt = 0

/-- A source that XCVT does not take (R149, R152; log entry 89). -/
def State.xcvtBad (f : Nat) : Prop :=
  let g := tcFmt (s.mine.tctlOf ta.toNat)
  let c := (s.plainSource ta).ecnt
  g = 13 ∨ g = 14 ∨ c = 0 ∨ 1024 < c * fmtWidth f ∨ (c % 4 ≠ 0 ∧ (isBlockFmt f = true ∨ fmtWidth f = 6))
    ∨ (c % 2 = 1 ∧ fmtWidth f = 4) ∨ (isBlockFmt g && (ta.toNat % 2 == 1 || !s.me.tgrant.testBit (ta.toNat + 1))) = true

/-- A source that XREBLK does not take (R149, R153; log entry 89). -/
def State.xreblkBad (f : Nat) : Prop :=
  let g := tcFmt (s.mine.tctlOf ta.toNat)
  let x := s.plainSource ta
  isFloatFmt g = false ∨ x.nrow % 4 ≠ 0 ∨ 1024 < x.nrow * fmtWidth f ∨ x.ecnt = 0 ∨ 128 < x.ecnt
    ∨ (isBlockFmt g && (ta.toNat % 2 == 1 || !s.me.tgrant.testBit (ta.toNat + 1))) = true

variable {s ta} in
theorem xtrn_whole (h : ¬s.xtrnBad ta) :
    0 < (s.plainSource ta).ecnt ∧ isBlockFmt (tcFmt (s.mine.tctlOf ta.toNat)) = false
      ∧ ∀ c, 8 ∣ c * fmtWidth (tcFmt (s.mine.tctlOf ta.toNat)) := by
  unfold State.xtrnBad at h
  generalize tcFmt (s.mine.tctlOf ta.toNat) = g at h ⊢
  obtain ⟨hg, h⟩ := not_or.1 h
  obtain ⟨-, hc⟩ := not_or.1 h
  have hfmt : isBlockFmt g = false ∧ 8 ∣ fmtWidth g := by
    rcases not_not.1 hg with h5 | ⟨h17, h25⟩ <;> interval_cases g <;> decide
  exact ⟨Nat.pos_of_ne_zero hc, hfmt.1, fun c => hfmt.2.mul_left c⟩

variable {s ta} in
theorem xcvt_whole {f : Nat} (h : ¬s.xcvtBad ta f) :
    (isBlockFmt f = true → (s.plainSource ta).ecnt % 4 = 0) ∧ 8 ∣ (s.plainSource ta).ecnt * fmtWidth f := by
  unfold State.xcvtBad at h
  simp only [not_or, not_and] at h
  obtain ⟨-, -, -, -, hfour, heven, -⟩ := h
  have hc4 : isBlockFmt f = true ∨ fmtWidth f = 6 → (s.plainSource ta).ecnt % 4 = 0 := fun hf => by
    by_contra hc
    rcases hf with hf | hf
    · exact (hfour hc).1 hf
    · exact (hfour hc).2 hf
  refine ⟨fun hf => hc4 (.inl hf), bytes_whole (fun h6 => hc4 (.inr h6)) fun h4 => ?_⟩
  have hne := mt (heven ·) (not_not.2 h4)
  omega

variable {s ta} in
theorem xreblk_whole {f : Nat} (h : ¬s.xreblkBad ta f) : 0 < (s.plainSource ta).ecnt ∧ (s.plainSource ta).nrow % 4 = 0 := by
  unfold State.xreblkBad at h
  simp only [not_or, not_not] at h
  obtain ⟨-, hrows, -, hc, -, -⟩ := h
  exact ⟨Nat.pos_of_ne_zero hc, hrows⟩

/-- What XEXP makes of each format: codes of 8 bits. -/
theorem xexp_formats (h : fmt ∈ [7#5, 5, 6, 10, 11, 12, 13, 16]) :
    xexpTo fmt.toNat = (if fmt.toNat = 16 then 17 else if fmt.toNat = 13 then 14 else if 10 ≤ fmt.toNat then 8 else 3)
      ∧ fmtWidth (xexpTo fmt.toNat) = 8
      ∧ ∀ c, xexpCode fmt.toNat c = if fmt.toNat = 16 then (signExt c 4 % 256).toNat else if fmt.toNat = 13 then c
        else (narrow (decodeFloat c fmt.toNat) 3 true).val := by
  simp only [List.mem_cons, List.not_mem_nil, or_false] at h
  rcases h with rfl | rfl | rfl | rfl | rfl | rfl | rfl | rfl <;> exact ⟨rfl, rfl, fun c => rfl⟩

/-! ### What each instruction answers -/

theorem exec_xtrn : ∃ bad : Prop, ∃ _ : Decidable bad, (bad ↔ s.xtrnBad ta) ∧ exec (.xtrn td ta) s = done s
    (if bad then s.slotFault causeTileFmt ta.toNat 0
    else s.tileResult 2 16 td.toNat 20 (tcFmt (s.mine.tctlOf ta.toNat)) 0 ta.toNat
      ((List.range (s.plainSource ta).ecnt).map fun j => (List.range (s.plainSource ta).nrow).map fun r => (s.plainSource ta).code r j) [] 0) := by
  refine ⟨_, inferInstance, or_congr_left ?_, rfl⟩
  simp only [xtrnFmt, Bool.not_eq_true', Bool.or_eq_false_iff, Bool.and_eq_false_iff, decide_eq_false_iff_not]
  omega

theorem exec_xcvt : ∃ bad : Bool, (bad = true ↔ s.xcvtBad ta fmt.toNat) ∧ exec (.xcvt td ta fmt) s = done s
    (if bad then s.slotFault causeTileFmt ta.toNat 0
    else if isBlockFmt fmt.toNat then
      let row r := quantRow (fmtBase fmt.toNat) ((s.plainSource ta).value r) (s.plainSource ta).ecnt
      let qs := (List.range (s.plainSource ta).nrow).map row
      s.tileResult 1 8 td.toNat 12 fmt.toNat 0 ta.toNat (qs.map (·.1)) (qs.map (·.2.1)) (qs.foldl (fun a q => a ||| q.2.2) 0)
    else
      let el r e : Res Nat :=
        let v := (s.plainSource ta).value r e
        let c := convertTo v.val fmt.toNat false
        ⟨c.val, c.flags ||| v.flags⟩
      let rs := (List.range (s.plainSource ta).nrow).map fun r => (List.range (s.plainSource ta).ecnt).map (el r)
      s.tileResult 1 8 td.toNat 12 fmt.toNat 0 ta.toNat (rs.map fun r => r.map (·.val)) []
        (rs.foldl (fun a r => r.foldl (fun a c => a ||| c.flags) a) 0)) := by
  refine ⟨_, ?_, rfl⟩
  simp [State.xcvtBad, State.plainSource, State.blockSourceBad, bitOf_eq_testBit, or_assoc]

theorem exec_xreblk : ∃ bad : Bool, (bad = true ↔ s.xreblkBad ta fmt.toNat) ∧ exec (.xreblk td ta fmt) s = done s
    (if bad then s.slotFault causeTileFmt ta.toNat 0
    else
      let column j := quantRow (fmtBase fmt.toNat) (fun r => (s.plainSource ta).value r j) (s.plainSource ta).nrow
      let qs := (List.range (s.plainSource ta).ecnt).map column
      s.tileResult 2 16 td.toNat 28 fmt.toNat 0 ta.toNat (qs.map (·.1)) (qs.map (·.2.1)) (qs.foldl (fun a q => a ||| q.2.2) 0)) := by
  refine ⟨_, ?_, rfl⟩
  simp [State.xreblkBad, State.plainSource, State.blockSourceBad, bitOf_eq_testBit, or_assoc]

end

/-! ### The tiles given -/

theorem testBit_foldl_foldl_or {α : Type} (g : α → Nat) (l : List (List α)) (a b : Nat) :
    (l.foldl (fun a r => r.foldl (fun a x => a ||| g x) a) a).testBit b = (a.testBit b || l.any fun r => r.any fun x => (g x).testBit b) := by
  induction l generalizing a with
  | nil => simp
  | cons r l ih => simp [ih, testBit_foldl_or, Bool.or_assoc]

section
variable {s : State} (hw : s.wlog = []) {i : Instr} {a d unit ii lat f rows c : Nat} {val : Nat → Nat → Res Val}
include hw

/-- Rows quantised in blocks give a tile of a block format with its scales (R152, R153). -/
theorem givesTile_quantised (hexec : exec i s = done s
      (let qs := (List.range rows).map fun r => quantRow (fmtBase f) (val r) c
      s.tileResult unit ii d lat f 0 a (qs.map (·.1)) (qs.map (·.2.1)) (qs.foldl (fun a q => a ||| q.2.2) 0)))
    (hrows : 0 < rows) (hc : c % 4 = 0) :
    let q r := quantBlock (fmtBase f) fun e => (val r e).val
    ∃ flags, GivesTile s i a d unit ii lat f 0 rows c (fun r e => (q r (e / 4)).val.2.getD (e % 4) 0) (fun r b => (q r b).val.1) flags
      ∧ ∀ b, flags.testBit b = true ↔ ∃ r e, r < rows ∧ e < c ∧ ((q r (e / 4)).flags ||| (val r e).flags).testBit b = true := by
  have hq r := quantRow_spec (fmtBase f) (val r) hc
  dsimp only at hexec hq ⊢
  simp only [forall_and] at hq
  obtain ⟨hlen, hcodes, hscales, hflags⟩ := hq
  rw [List.map_map, List.map_map] at hexec
  refine ⟨_, givesTile_of_result hw hexec hrows hlen (bytes_whole (fun _ => hc) fun _ => by omega)
    (fun r e _ he => congrArg (· % _) (hcodes r e he)) (fun _ => ⟨_, rfl, fun r b _ hb => congrArg (· % _) (hscales r b hb)⟩), fun b => ?_⟩
  rw [testBit_rowFlags]
  refine exists_congr fun r => ?_
  rw [hflags r b, ← exists_and_left]

/-- Rows of elements converted one by one (R152). -/
theorem givesTile_converted {el : Nat → Nat → Res Nat} (hexec : exec i s = done s
      (let rs := (List.range rows).map fun r => (List.range c).map (el r)
      s.tileResult unit ii d lat f 0 a (rs.map fun r => r.map (·.val)) [] (rs.foldl (fun a r => r.foldl (fun a c => a ||| c.flags) a) 0)))
    (hrows : 0 < rows) (hplain : isBlockFmt f = false) (hbits : 8 ∣ c * fmtWidth f) (scale : Nat → Nat → Nat) :
    ∃ flags, GivesTile s i a d unit ii lat f 0 rows c (fun r e => (el r e).val) scale flags
      ∧ ∀ b, flags.testBit b = true ↔ ∃ r e, r < rows ∧ e < c ∧ (el r e).flags.testBit b = true := by
  dsimp only at hexec
  rw [List.map_map] at hexec
  refine ⟨_, givesTile_of_result hw hexec hrows (fun r => by simp) hbits (fun r e _ he => ?_) (fun h => by simp [hplain] at h), fun b => ?_⟩
  · simp [List.getD_eq_getElem?_getD, he]
  · rw [testBit_foldl_foldl_or]
    simp

/-- Rows of codes, as they stand or in another arrangement (R151). -/
theorem givesTile_codes {code : Nat → Nat → Nat} (hexec : exec i s = done s
      (s.tileResult unit ii d lat f 0 a ((List.range rows).map fun r => (List.range c).map (code r)) [] 0))
    (hrows : 0 < rows) (hplain : isBlockFmt f = false) (hbits : 8 ∣ c * fmtWidth f) (scale : Nat → Nat → Nat) :
    GivesTile s i a d unit ii lat f 0 rows c code scale 0 :=
  givesTile_of_result hw hexec hrows (fun r => by simp) hbits (fun r e _ he => congrArg (· % _) (getD_map_range (code r) he))
    (fun h => by simp [hplain] at h)

/-- A source that XEXP takes gives a tile of codes of 8 bits (R150). -/
theorem givesTile_xexp (td ta : BitVec 4) (fmt : BitVec 5) (hwidth : fmtWidth (xexpTo fmt.toNat) = 8) :
    let tc := s.mine.tctlOf ta.toNat
    let n := tcBpr tc + 1
    let x := s.source ta.toNat fmt.toNat
    ¬((fmtWidth fmt.toNat = 4 ∧ 64 < n) ∨ (fmtWidth fmt.toNat = 6 ∧ (n % 3 ≠ 0 ∨ 96 < n))) →
      GivesTile s (.xexp td ta fmt) ta.toNat td.toNat 0 8 10 (xexpTo fmt.toNat) (if fmt.toNat = 13 then tcGsz tc else 0) x.nrow x.ecnt
        (fun r e => xexpCode fmt.toNat (x.code r e)) (fun r b => elemAt (x.scales.getD r 0) 16 b % 1024) 0 := by
  intro tc n x h
  have hexec : exec (.xexp td ta fmt) s = done s (if _ then _ else _) := rfl
  rw [if_neg h] at hexec
  exact givesTile_of_result hw hexec (Nat.succ_pos _) (fun r => by simp; rfl) (by rw [hwidth]; exact Nat.dvd_mul_left ..)
    (fun r e _ he => congrArg (· % _) (getD_map_range _ he)) fun _ => ⟨_, rfl, fun r b _ hb => congrArg (· % _) (getD_map_range _ hb)⟩

end

/-- Settles O41: each unit forms its rows (`givesTile_of_result`), in blocks of four where its destination is a block format (`quantRow_spec`). -/
theorem transformsWriteTiles : Obligations.TransformsWriteTiles := by
  intro s td ta fmt hw f a d tc n news src gives exp self bad val quant blockBad
  refine ⟨fun hfmt => ?xexp, ?xtrn, ?xcvt, ?xreblk, fun hnews r k => ?rows⟩
  case xexp =>
    obtain ⟨hto, hwidth, hcode⟩ := xexp_formats fmt hfmt
    split
    · next h => exact exec_tileFmt rfl h
    · next h =>
      have hgives := givesTile_xexp hw td ta fmt hwidth h
      simp only [hcode] at hgives
      rw [← hto]
      exact hgives
  case xtrn =>
    obtain ⟨refused, hdec, hbad, hexec⟩ := exec_xtrn s td ta
    intro g
    split
    · next h => exact exec_tileFmt hexec (hbad.2 h)
    · next h =>
      obtain ⟨hpos, hplain, hbytes⟩ := xtrn_whole (s := s) (ta := ta) h
      rw [if_neg (mt hbad.1 h)] at hexec
      exact givesTile_codes hw hexec hpos hplain (hbytes _) _
  case xcvt =>
    obtain ⟨refused, hbad, hexec⟩ := exec_xcvt s td ta fmt
    intro g c _
    split
    · next h => exact exec_tileFmt hexec (hbad.2 h)
    · next h =>
      obtain ⟨hfour, hbytes⟩ := xcvt_whole (s := s) (ta := ta) (f := f) h
      rw [if_neg (mt hbad.1 h)] at hexec
      cases hf : isBlockFmt f with
      | true =>
        rw [if_pos hf] at hexec
        exact givesTile_quantised hw hexec (Nat.succ_pos _) (hfour hf)
      | false =>
        rw [if_neg (by simp [f, hf])] at hexec
        exact givesTile_converted hw hexec (Nat.succ_pos _) hf hbytes _
  case xreblk =>
    obtain ⟨refused, hbad, hexec⟩ := exec_xreblk s td ta fmt
    intro g col hf
    split
    · next h => exact exec_tileFmt hexec (hbad.2 h)
    · next h =>
      obtain ⟨hpos, hfour⟩ := xreblk_whole (s := s) (ta := ta) (f := f) h
      rw [if_neg (mt hbad.1 h)] at hexec
      exact givesTile_quantised hw (val := fun j r => self.value r j) hexec hpos hfour
  case rows =>
    unfold State.rowNat State.tileRead
    dsimp only
    rw [show s.tileNews s.myCore a = [] from hnews]
    rfl

end Sys2Proof.Machine
end

section
/-! PROOFS. The scale latches, and SLATCH and SLCLR (R164, log entry 75). -/

namespace Sys2Proof.Machine

/-! ### Changes written into the latches -/

theorem latchKey_inj {side sd row r : Nat} (hrow : row < 128) (hr : r < 128) :
    latchKey side row = latchKey sd r ↔ sd = side ∧ r = row := by
  unfold latchKey
  omega

/-- A change of a first latch, and then those of the latches behind it. -/
theorem applyLatch_cons (t : Tab Nat) (at' side row c : Nat) (cs : List Nat) :
    applyLatch t { at' := at', side := side, row := row, codes := c :: cs } =
      applyLatch (if row < 128 then tabPut t (latchKey side row) c else t) { at' := at', side := side, row := row + 1, codes := cs } := by
  unfold applyLatch
  simp only [List.zipIdx_cons', List.foldl_cons, List.foldl_map, Nat.add_zero, Prod.map_fst, Prod.map_snd, id_eq, Nat.add_assoc,
    Nat.add_comm 1]

/-- The code that a change gives the latch of a side and row which holds `v`. -/
def LatchWrite.latch (w : LatchWrite) (side row v : Nat) : Nat :=
  if w.side = side ∧ w.row ≤ row ∧ row < w.row + w.codes.length then w.codes.getD (row - w.row) v else v

theorem tabGet_applyLatch {side row : Nat} (hrow : row < 128) (w : LatchWrite) (t : Tab Nat) :
    tabGet 0x1F0 (applyLatch t w) (latchKey side row) = w.latch side row (tabGet 0x1F0 t (latchKey side row)) := by
  obtain ⟨at', sd, first, codes⟩ := w
  induction codes generalizing first t with
  | nil => simp [applyLatch, LatchWrite.latch]
  | cons c cs ih =>
    have hput : tabGet 0x1F0 (if first < 128 then tabPut t (latchKey sd first) c else t) (latchKey side row)
        = if sd = side ∧ first = row then c else tabGet 0x1F0 t (latchKey side row) := by
      by_cases hfirst : first < 128
      · rw [if_pos hfirst, tabGet_put]
        exact if_congr (latchKey_inj hrow hfirst) rfl rfl
      · rw [if_neg hfirst, if_neg (by omega)]
    rw [applyLatch_cons, ih, hput]
    simp only [LatchWrite.latch, List.length_cons]
    by_cases hat : sd = side ∧ first = row
    · obtain ⟨rfl, rfl⟩ := hat
      simp
    · rw [if_neg hat]
      by_cases hin : sd = side ∧ first + 1 ≤ row ∧ row < first + 1 + cs.length
      · rw [if_pos hin, if_pos (by omega), show row - first = row - (first + 1) + 1 by omega, List.getD_cons_succ]
      · rw [if_neg hin, if_neg (by omega)]

/-! ### The latch at a cycle -/

/-- A change seen at a cycle: it counts once its cycle has come. -/
theorem latchAt_eq (k : Core) (side row cyc : Nat) : k.latchAt side row cyc =
    k.latchIn.foldl (fun v w => if w.at' ≤ cyc then w.latch side row v else v) (tabGet 0x1F0 k.latches (latchKey side row)) := by
  unfold Core.latchAt
  congr 1
  funext v w
  unfold LatchWrite.latch
  by_cases hat : w.at' ≤ cyc <;> simp [hat]

/-- Changes whose cycle has come read the same from the latches as from beside them. -/
theorem foldl_applyLatch {side row cyc : Nat} (hrow : row < 128) {l : List LatchWrite} (hl : ∀ w ∈ l, w.at' ≤ cyc) (t : Tab Nat) :
    tabGet 0x1F0 (l.foldl applyLatch t) (latchKey side row) =
      l.foldl (fun v w => if w.at' ≤ cyc then w.latch side row v else v) (tabGet 0x1F0 t (latchKey side row)) := by
  induction l generalizing t with
  | nil => rfl
  | cons w l ih =>
    rw [List.foldl_cons, List.foldl_cons, ih (fun x hx => hl x (List.mem_cons_of_mem _ hx)), tabGet_applyLatch hrow,
      if_pos (hl w (List.mem_cons_self ..))]

/-- Settling the latches changes no value that may still be read. -/
theorem latchAt_settleLatches (k : Core) {side row cyc : Nat} (hrow : row < 128) (hcyc : k.latchFrom ≤ cyc) :
    k.settleLatches.latchAt side row cyc = k.latchAt side row cyc := by
  obtain ⟨rest, hrest⟩ := List.takeWhile_prefix (fun w : LatchWrite => decide (w.at' ≤ k.latchFrom)) (l := k.latchIn)
  have hold : ∀ w ∈ k.latchIn.takeWhile fun w => decide (w.at' ≤ k.latchFrom), w.at' ≤ cyc := fun w hw =>
    Nat.le_trans (by simpa using List.mem_takeWhile_imp hw) hcyc
  have hdrop : k.settleLatches.latchIn = rest := (congrArg (List.drop _) hrest.symm).trans (List.drop_left' rfl)
  rw [latchAt_eq, latchAt_eq, hdrop, ← hrest, List.foldl_append]
  exact congrArg (fun v => rest.foldl _ v) (foldl_applyLatch hrow hold k.latches)

/-- A change put behind the others comes last at the cycles it has come by. -/
theorem latchAt_append (k : Core) (w : LatchWrite) (r : Option Routine) (side row cyc : Nat) :
    ({ k with latchIn := k.latchIn ++ [w], routine := r } : Core).latchAt side row cyc =
      if w.at' ≤ cyc then w.latch side row (k.latchAt side row cyc) else k.latchAt side row cyc := by
  rw [latchAt_eq, latchAt_eq, List.foldl_append]
  rfl

/-! ### The instructions -/

/-- An instruction gives `n` latches of a side from row `first` on the codes of `code`, six cycles after its issue, and a running routine
counts it. -/
def SetsLatches (s : State) (i : Instr) (side : BitVec 1) (first n : Nat) (code : Nat → Nat) : Prop :=
  ∃ t, exec i s = .next t
    ∧ (∀ sd row cyc, row < 128 → s.mine.latchFrom ≤ cyc → t.mine.latchAt sd row cyc =
      if sd = side.toNat ∧ s.fl.t + 6 ≤ cyc ∧ first ≤ row ∧ row < first + n then code (row - first)
      else s.mine.latchAt sd row cyc)
    ∧ t = s.setMine { s.mine with latches := t.mine.latches, latchIn := t.mine.latchIn, routine := s.mine.routine.map fun r =>
        if side = 0 then { r with sclA := r.sclA ++ [s.fl.t] } else { r with sclB := r.sclB ++ [s.fl.t] } }

theorem mine_scale (s : State) (side row : Nat) (codes : List Nat) : (s.scale side row codes).mine = { s.mine.settleLatches with
    latchIn := s.mine.settleLatches.latchIn ++ [{ at' := s.fl.t + 6, side := side, row := row, codes := codes }]
    routine := s.mine.routine.map fun r =>
      if side = 0 then { r with sclA := r.sclA ++ [s.fl.t] } else { r with sclB := r.sclB ++ [s.fl.t] } } := by
  unfold State.scale
  exact State.mine_setMine ..

theorem setsLatches_scale {s : State} (hw : s.wlog = []) {i : Instr} {side : BitVec 1} {first n : Nat} {code : Nat → Nat}
    (hexec : exec i s = done s (s.scale side.toNat first ((List.range n).map code))) : SetsLatches s i side first n code := by
  refine ⟨s.scale side.toNat first ((List.range n).map code), hexec.trans (done_eq hw rfl), fun sd row cyc hrow hcyc => ?_, ?_⟩
  · rw [mine_scale, latchAt_append, latchAt_settleLatches _ hrow hcyc]
    unfold LatchWrite.latch
    dsimp only
    rw [List.length_map, List.length_range]
    by_cases hset : sd = side.toNat ∧ s.fl.t + 6 ≤ cyc ∧ first ≤ row ∧ row < first + n
    · obtain ⟨rfl, hat, hlo, hhi⟩ := hset
      rw [if_pos hat, if_pos ⟨rfl, hlo, hhi⟩, if_pos ⟨rfl, hat, hlo, hhi⟩, List.getD_eq_getElem?_getD, List.getElem?_map,
        List.getElem?_range (by omega)]
      rfl
    · rw [if_neg hset]
      split
      · exact if_neg (by omega)
      · rfl
  · have hside : side.toNat = 0 ↔ side = 0 := by
      rw [BitVec.toNat_eq]
      rfl
    rw [mine_scale]
    simp only [← hside]
    rfl

/-- Settles O42: a change of latches stands behind those before it (`latchAt_append`), and settling the latches changes no value that may
still be read (`latchAt_settleLatches`). -/
theorem scaleLatchesChangeLater : Obligations.ScaleLatchesChangeLater := by
  intro s side half v hw
  have hslatch : SetsLatches s (.slatch side v half) side (64 * half.toNat) 64 fun j => lane (s.vArg 0 v) 16 j % 1024 := by
    refine setsLatches_scale hw ?_
    simp only [lane, ← State.opV_eq]
    rfl
  have hslclr : SetsLatches s (.slclr side) side 0 128 fun _ => 0x1F0 := by
    refine setsLatches_scale hw ?_
    rw [List.map_const', List.length_range]
    rfl
  exact ⟨hslatch, hslclr⟩

end Sys2Proof.Machine
end

section
/-! PROOFS. The micro-instructions that set a routine's state, loop, jump, wait and end (R158, R159, R163, R164). -/

namespace Sys2Proof.Machine

/-! ### The next state of a routine -/

theorem microStep_none {s : State} (hr : s.mine.routine = none) (cycles : Nat) (f : Routine → Routine) : s.microStep cycles f = s := by
  unfold State.microStep
  dsimp only
  rw [hr]

theorem microStep_some {s : State} {r : Routine} (hr : s.mine.routine = some r) (cycles : Nat) (f : Routine → Routine) :
    s.microStep cycles f = s.setMine { s.mine with routine := some (f { r with mpc := r.mpc + 1, begins := r.begins + cycles }) } := by
  unfold State.microStep
  dsimp only
  rw [hr]

theorem microCopy_none {s : State} (hr : s.mine.routine = none) (p row0 nrow : Nat) (f : Routine → OpCopy → Routine) :
    s.microCopy p row0 nrow f = s := by
  unfold State.microCopy
  rw [hr]

/-- A micro-instruction whose effect is the routine's next state answers that state. -/
theorem exec_microStep {s : State} (hw : s.wlog = []) {r : Routine} (hr : s.mine.routine = some r) {i : Instr} {cycles : Nat}
    {f : Routine → Routine} (hexec : exec i s = done s (s.microStep cycles f)) : exec i s =
      .next (s.setMine { s.mine with routine := some (f { r with mpc := r.mpc + 1, begins := r.begins + cycles }) }) := by
  rw [hexec, microStep_some hr]
  exact done_eq hw rfl

/-! ### The end of a routine -/

theorem tabGet_foldl_erase {α : Type} (d : α) (l : List Nat) (t : Tab α) (n : Nat) :
    tabGet d (l.foldl tabErase t) n = if n ∈ l then d else tabGet d t n := by
  induction l generalizing t with
  | nil => simp
  | cons m l ih =>
    rw [List.foldl_cons, ih]
    by_cases hm : n = m
    · simp [hm]
    · simp [hm, tabGet_erase_ne d t hm]

/-- The first entry of a class that has begun leaves the queue. -/
theorem dropBegun_append {array : Bool} {e : MatrixEntry} {b a : List MatrixEntry} (hbegun : e.begun = true) (hclass : isArray e.op = array)
    (hb : ∀ x ∈ b, ¬(x.begun = true ∧ isArray x.op = array)) : dropBegun array (b ++ e :: a) = b ++ a := by
  induction b with
  | nil => simp [dropBegun, hbegun, hclass]
  | cons x b ih =>
    have hx : ¬(x.begun && isArray x.op == array) = true := by simpa using hb x (List.mem_cons_self ..)
    rw [List.cons_append, dropBegun, if_neg hx, ih fun y hy => hb y (List.mem_cons_of_mem _ hy), List.cons_append]

section
variable (s : State) (c flags : Nat)

@[simp] theorem mergeLate_wlog : (s.mergeLate c flags).wlog = s.wlog := by unfold State.mergeLate; split <;> rfl
@[simp] theorem mergeLate_mem : (s.mergeLate c flags).mem = s.mem := by unfold State.mergeLate; split <;> rfl
@[simp] theorem core_mergeLate (core : Nat) : (s.mergeLate c flags).core core = s.core core := by unfold State.mergeLate; split <;> rfl

theorem fpsf_merge (x : Ctx) (smask : Nat) : (x.merge flags smask).fpsf = x.fpsf ||| flags := by
  unfold Ctx.merge
  dsimp only
  split <;> rfl

theorem fpsf_mergeLate : ((s.mergeLate c flags).ctx c).fpsf = (s.ctx c).fpsf ||| flags := by
  unfold State.mergeLate
  split
  · simp [*]
  · rw [State.ctx_setCtx, fpsf_merge]

theorem ctx_mergeLate_ne {d : Nat} (hd : d ≠ c) : (s.mergeLate c flags).ctx d = s.ctx d := by
  unfold State.mergeLate
  split
  · rfl
  · exact State.ctx_setCtx_ne _ _ _ hd

end

theorem endRoutine_none {s : State} {core : Nat} (hr : (s.core core).routine = none) (extra : Nat) : s.endRoutine core extra = s := by
  unfold State.endRoutine
  dsimp only
  rw [hr]

/-- The row pointers after a routine: those of the banks it wrote have returned to 0 in compatibility mode (R168). -/
def State.pointersAfter (s : State) (core : Nat) (r : Routine) : Tab Nat :=
  (if (s.ctx r.ctx).compat = true then r.wrote else []).foldl tabErase (s.core core).bankPtr

theorem tabGet_pointersAfter (s : State) (core : Nat) (r : Routine) (b : Nat) : tabGet 0 (s.pointersAfter core r) b =
    if (s.ctx r.ctx).compat = true ∧ b ∈ r.wrote then 0 else tabGet 0 (s.core core).bankPtr b := by
  unfold State.pointersAfter
  rw [tabGet_foldl_erase]
  by_cases hc : (s.ctx r.ctx).compat = true <;> simp [hc]

/-- A core whose routine has ended. -/
def State.routineOver (s : State) (core : Nat) (r : Routine) : Core := { s.core core with
  routine := none, mq := dropBegun true (s.core core).mq, mtxFrom := r.begins + 1, bankPtr := s.pointersAfter core r }

theorem endRoutine_some {s : State} {core : Nat} {r : Routine} (hr : (s.core core).routine = some r) (extra : Nat) :
    s.endRoutine core extra = (s.setCore core (s.routineOver core r)).mergeLate r.ctx (r.flags ||| extra) := by
  unfold State.endRoutine
  dsimp only
  rw [hr]
  rfl

theorem done_endRoutine {s : State} (hw : s.wlog = []) {core : Nat} {r : Routine} (hr : (s.core core).routine = some r) (extra : Nat) :
    done s (s.endRoutine core extra) = .next ((s.setCore core (s.routineOver core r)).mergeLate r.ctx (r.flags ||| extra)) := by
  rw [endRoutine_some hr]
  exact done_eq (by simpa using hw) (by simp)

/-- A micro-instruction ends the routine of the core in flight and merges flags into its context. -/
def EndsRoutine (s : State) (r : Routine) (i : Instr) (flags : Nat) : Prop := ∃ (bp : Tab Nat) (mq : List MatrixEntry),
  let u := s.setMine { s.mine with routine := none, mq := mq, mtxFrom := r.begins + 1, bankPtr := bp }
  exec i s = .next (if flags = 0 then u else u.setCtx r.ctx ((s.ctx r.ctx).merge flags (2 ^ 10)))
    ∧ (∀ b, tabGet 0 bp b = if (s.ctx r.ctx).compat = true ∧ b ∈ r.wrote then 0 else tabGet 0 s.mine.bankPtr b)
    ∧ ∀ b e a, s.mine.mq = b ++ e :: a → e.begun = true → isArray e.op = true → (∀ x ∈ b, ¬(x.begun = true ∧ isArray x.op = true)) →
      mq = b ++ a

theorem endsRoutine {s : State} (hw : s.wlog = []) {r : Routine} (hr : s.mine.routine = some r) {i : Instr} {extra : Nat}
    (hexec : exec i s = done s (s.endRoutine s.myCore extra)) : EndsRoutine s r i (r.flags ||| extra) := by
  refine ⟨s.pointersAfter s.myCore r, dropBegun true s.mine.mq, ?_, tabGet_pointersAfter s s.myCore r, fun b e a hmq hbegun harray hb => ?_⟩
  · rw [hexec, done_endRoutine hw hr]
    rfl
  · rw [hmq]
    exact dropBegun_append hbegun harray hb

/-! ### Cores without a routine -/

section
variable {s : State} (hr : s.mine.routine = none)
include hr

theorem execMstep_none (nch : BitVec 8) : execMstep nch s = done s s := by
  unfold execMstep
  rw [hr]

theorem execMloop_none (cnt top : BitVec 10) : execMloop cnt top s = done s s := by
  unfold execMloop
  rw [hr]

theorem execMclr_none (p : BitVec 3) : execMclr p s = done s s := by
  unfold execMclr
  rw [hr]

theorem execMwaits_none (side : BitVec 1) : execMwaits side s = done s s := by
  unfold execMwaits
  rw [hr]

end

/-! ### MLOOP -/

/-- A routine at the end of a loop's body: it repeats the body while counts are left, else it leaves the loop (R163). -/
def Routine.looped (r : Routine) (top : Nat) (level : Nat × Nat) (outer : List (Nat × Nat)) : Routine :=
  if 1 < level.2 then { r with mpc := top, loops := (level.1, level.2 - 1) :: outer } else { r with loops := outer }

/-- The routine's next state after an MLOOP that acts on a level of the stack. -/
theorem exec_looped {s : State} (hw : s.wlog = []) {r : Routine} (hr : s.mine.routine = some r) {i : Instr} {top : Nat}
    {level : Nat × Nat} {outer : List (Nat × Nat)} (hexec : exec i s = done s (s.microStep 1 fun r' => r'.looped top level outer)) :
    exec i s = .next (s.setMine { s.mine with routine := some { (if 1 < level.2 then
        { r with mpc := top, loops := (level.1, level.2 - 1) :: outer }
      else { r with mpc := r.mpc + 1, loops := outer } : Routine) with begins := r.begins + 1 } }) := by
  rw [exec_microStep hw hr hexec]
  unfold Routine.looped
  split <;> rfl

section
variable {s : State} {r : Routine} (hr : s.mine.routine = some r) (cnt top : BitVec 10)
include hr

/-- An MLOOP that no level of the stack names pushes one. -/
theorem exec_mloop_push (hfresh : r.loops.head?.map (·.1) ≠ some r.mpc) : exec (.mloop cnt top) s = done s (
    if 4 ≤ r.loops.length then s.endRoutine s.myCore flagInv
    else s.microStep 1 fun r' => r'.looped top.toNat (r.mpc, cnt.toNat + 1) r.loops) := by
  show execMloop cnt top s = _
  unfold execMloop
  rw [hr]
  dsimp only
  cases hl : r.loops with
  | nil => rfl
  | cons l rest =>
    have hl1 : (l.1 != r.mpc) = true := by simpa [hl] using hfresh
    simp only [hl1, Bool.true_and, decide_eq_true_eq, if_true]
    rfl

/-- An MLOOP that the innermost level names goes on with that level. -/
theorem exec_mloop_again {l : Nat × Nat} {rest : List (Nat × Nat)} (hl : r.loops = l :: rest) (hat : l.1 = r.mpc) :
    exec (.mloop cnt top) s = done s (s.microStep 1 fun r' => r'.looped top.toNat l rest) := by
  have hl1 : (l.1 != r.mpc) = false := by simp [hat]
  show execMloop cnt top s = _
  unfold execMloop
  rw [hr]
  dsimp only
  rw [hl]
  simp only [hl1, Bool.false_and, if_false, Bool.false_eq_true]
  rfl

/-! ### MWAITS -/

theorem exec_mwaits_held {side : BitVec 1} (hscl : (if side = 0 then r.sclA else r.sclB) = []) :
    exec (.mwaits side) s = done s s := by
  show execMwaits side s = _
  unfold execMwaits
  rw [hr]
  dsimp only
  rw [hscl]

/-- MWAITS consumes the first instruction of its side that stands. -/
theorem exec_mwaits_taken {side : BitVec 1} {t : Nat} {rest : List Nat} (hscl : (if side = 0 then r.sclA else r.sclB) = t :: rest) :
    exec (.mwaits side) s = done s (s.microStep (max 1 (t + 6 - r.begins)) fun r' =>
      let late := r.late + max 1 (t + 6 - r.begins) - max 1 (t + 6 + r.late - r.begins)
      if side = 0 then { r' with sclA := rest, late := late } else { r' with sclB := rest, late := late }) := by
  show execMwaits side s = _
  unfold execMwaits
  rw [hr]
  dsimp only
  rw [hscl]

end

/-! ### The obligation -/

/-- Settles O46: each micro-instruction is a `microStep` (`exec_microStep`) or ends the routine (`endsRoutine`). -/
theorem microControl : Obligations.MicroControl := by
  intro s c10 t10 p k12 fa fb side en hw
  refine ⟨fun hr i hi => ?idle, fun r hr => ?running⟩
  case idle =>
    have hidle : exec i s = done s s := by
      simp only [List.mem_cons, List.not_mem_nil, or_false] at hi
      rcases hi with rfl | rfl | rfl | rfl | rfl | rfl | rfl | rfl | rfl | rfl | rfl | rfl | rfl | rfl | rfl | rfl
      · exact congrArg (done s) (microStep_none hr _ _)
      · exact congrArg (done s) (microCopy_none hr ..)
      · exact congrArg (done s) (microCopy_none hr ..)
      · exact execMstep_none hr 0
      · exact congrArg (done s) (microStep_none hr _ _)
      · exact congrArg (done s) (microCopy_none hr ..)
      · exact congrArg (done s) (microStep_none hr _ _)
      · exact congrArg (done s) (microCopy_none hr ..)
      · exact congrArg (done s) (microStep_none hr _ _)
      · exact execMloop_none hr c10 t10
      · exact congrArg (done s) (endRoutine_none hr 0)
      · exact congrArg (done s) (microStep_none hr _ _)
      · exact congrArg (done s) (microStep_none hr _ _)
      · exact execMclr_none hr p
      · exact congrArg (done s) (microStep_none hr _ _)
      · exact execMwaits_none hr side
    rw [hidle]
    exact done_eq hw rfl
  case running =>
    refine ⟨?idles, ?scale, ?skip, ?target, ?formats, ?setk, ?jump, fun hfresh hfull => ?overflow, fun hgoes => ?loop, ?mend,
      fun hscl => (exec_mwaits_held hr hscl).trans (done_eq hw rfl), fun t rest hscl => ?waits⟩
    case scale =>
      refine (exec_microStep hw hr rfl).trans ?_
      split <;> rfl
    case idles | skip | target | formats | setk | jump =>
      refine (exec_microStep hw hr rfl).trans ?_
      rfl
    case overflow =>
      refine endsRoutine hw hr ((exec_mloop_push hr c10 t10 hfresh).trans ?_)
      rw [if_pos hfull]
    case loop =>
      dsimp only
      by_cases hfresh : r.loops.head?.map (·.1) ≠ some r.mpc
      · have hexec := exec_mloop_push hr c10 t10 hfresh
        rw [if_neg fun h => hgoes ⟨hfresh, h⟩] at hexec
        rw [if_pos hfresh, if_pos hfresh]
        exact exec_looped hw hr hexec
      · obtain ⟨l, rest, hl⟩ := List.exists_cons_of_ne_nil (fun h : r.loops = [] => by simp [h] at hfresh)
        have hat : l.1 = r.mpc := by simpa [hl] using hfresh
        rw [if_neg hfresh, if_neg hfresh, hl]
        exact exec_looped hw hr (exec_mloop_again hr c10 t10 hl hat)
    case mend =>
      have hmend : EndsRoutine s r .mend (r.flags ||| 0) := endsRoutine hw hr rfl
      rw [Nat.or_zero] at hmend
      exact hmend
    case waits =>
      refine (exec_microStep hw hr (exec_mwaits_taken hr hscl)).trans ?_
      dsimp only
      split <;> rfl

end Sys2Proof.Machine
end

section
/-! PROOFS. MPSLD and the drains: images and descriptors read in own PM at commit, checked and queued (R169, R170, R192; log entry 31). -/

namespace Sys2Proof.Machine

/-! ### Own PM read at a commit -/

theorem commitNat_lt (s : State) (a n : Nat) : s.commitNat a n < 256 ^ n := by
  unfold State.commitNat readLe
  refine (leNat_lt _).trans_eq ?_
  rw [List.length_map, keysFrom, List.length_map, List.length_range]

/-- With nothing pending in the port or in the reductions own PM is read as it stands. -/
theorem commitNat_quiet {s : State} (hport : s.me.port = []) (hred : s.red = []) (a n : Nat) :
    s.commitNat a n = leNat ((keysFrom (keyOf (.pm s.myCore (a % 2 ^ 20))) n).map s.byte) := by
  have hown : s.ownSeen = s := by
    unfold State.ownSeen
    exact if_pos ⟨hred, by rw [hport]; rfl⟩
  have hseen : s.seen = s.byte := funext fun k => if_pos hred
  unfold State.commitNat readLe
  dsimp only
  rw [hown, hseen]
  rfl

/-- Bits of a word from a place on are zero where the word is below that place. -/
theorem extractLsb'_high_eq_zero (x : Word64) {lo n : Nat} (h : lo + n = 64) : x.extractLsb' lo n = 0 ↔ x.toNat / 2 ^ lo = 0 := by
  have hlt : x.toNat / 2 ^ lo < 2 ^ n := Nat.div_lt_of_lt_mul (by rw [← Nat.pow_add, h]; exact x.isLt)
  rw [BitVec.toNat_eq, BitVec.extractLsb'_toNat, Nat.shiftRight_eq_div_pow, Nat.mod_eq_of_lt hlt]
  rfl

/-- A slot's answer where what it has read has no error, and where it has one. -/
def State.orAccessFault (s : State) (bad : Option AFault) (good : State) : State := bad.elim good s.accessFault

/-! ### MPSLD -/

/-- The image that MPSLD's parameter names: its address, its entry and its header (R169). -/
def State.imageAddr (s : State) (p : BitVec 3) : Nat := ((s.pArg p).extractLsb' 0 24).toNat
def State.imageEntry (s : State) (p : BitVec 3) : Nat := ((s.pArg p).extractLsb' 24 6).toNat
def State.imageHead (s : State) (p : BitVec 3) : Word64 := BitVec.ofNat 64 (s.commitNat (s.imageAddr p) 8)
def State.imageLen (s : State) (p : BitVec 3) : Nat := ((s.imageHead p).extractLsb' 0 10).toNat + 1
def State.imageBase (s : State) (p : BitVec 3) : Nat := ((s.imageHead p).extractLsb' 10 10).toNat
def State.imageKinds (s : State) (p : BitVec 3) : Nat := ((s.imageHead p).extractLsb' 20 16).toNat
def State.imageWords (s : State) (p : BitVec 3) : List Nat :=
  (List.range (s.imageLen p)).map fun i => s.commitNat (s.imageAddr p + 8 + 4 * i) 4

/-- The parameter names an entry that may be loaded, and a place for a header. -/
abbrev State.ImageNamed (s : State) (p : BitVec 3) : Prop :=
  16 ≤ s.imageEntry p ∧ s.imageAddr p % 8 = 0 ∧ ownPm s.myCore (s.imageAddr p) 8 = true

/-- The header is one of an image that lies in own PM and fits the store. -/
abbrev State.ImageShaped (s : State) (p : BitVec 3) : Prop :=
  ownPm s.myCore (s.imageAddr p) (8 + 4 * s.imageLen p) = true ∧ (s.imageHead p).extractLsb' 36 28 = 0
    ∧ s.imageBase p + s.imageLen p ≤ 1024 ∧ ∀ j, j < 8 → kindOf (s.imageKinds p) j ≠ 3

theorem toNat_imageHead (s : State) (p : BitVec 3) : (s.imageHead p).toNat = s.commitNat (s.imageAddr p) 8 :=
  (BitVec.toNat_ofNat ..).trans (Nat.mod_eq_of_lt (commitNat_lt s _ 8))

theorem imageAddr_eq (s : State) (p : BitVec 3) : (s.opP p.toNat).toNat % 2 ^ 24 = s.imageAddr p := by
  have h := bits_toNat (s.pArg p) 0 24
  rwa [bits, Nat.pow_zero, Nat.div_one] at h

theorem imageEntry_eq (s : State) (p : BitVec 3) : bits (s.opP p.toNat).toNat 24 6 = s.imageEntry p := bits_toNat (s.pArg p) 24 6

theorem imageLen_eq (s : State) (p : BitVec 3) : s.commitNat (s.imageAddr p) 8 % 2 ^ 10 + 1 = s.imageLen p := by
  have h := bits_toNat (s.imageHead p) 0 10
  rw [bits, Nat.pow_zero, Nat.div_one, toNat_imageHead] at h
  rw [h]
  rfl

theorem imageField_eq (s : State) (p : BitVec 3) (lo n : Nat) :
    bits (s.commitNat (s.imageAddr p) 8) lo n = ((s.imageHead p).extractLsb' lo n).toNat := by
  rw [← toNat_imageHead, bits_toNat]

theorem imageNamed_iff (s : State) (p : BitVec 3) :
    (s.imageEntry p < 16 ∨ s.imageAddr p % 8 ≠ 0 ∨ (!ownPm s.myCore (s.imageAddr p) 8) = true) ↔ ¬s.ImageNamed p := by
  simp only [State.ImageNamed, not_and_or, Nat.not_le, Bool.not_eq_true, Bool.not_eq_true', ne_eq]

theorem imageShaped_iff (s : State) (p : BitVec 3) :
    (s.commitNat (s.imageAddr p) 8 / 2 ^ 36 ≠ 0 ∨ 1024 < s.imageBase p + s.imageLen p
      ∨ (!ownPm s.myCore (s.imageAddr p) (8 + 4 * s.imageLen p)) = true
      ∨ (List.range 8).any (fun j => kindOf (s.imageKinds p) j == 3) = true) ↔ ¬s.ImageShaped p := by
  have hkinds : (List.range 8).any (fun j => kindOf (s.imageKinds p) j == 3) = true ↔ ¬∀ j, j < 8 → kindOf (s.imageKinds p) j ≠ 3 := by
    simp
  have hchecks : ∀ {own head fits kinds : Prop}, (¬head ∨ ¬fits ∨ ¬own ∨ ¬kinds) ↔ ¬(own ∧ head ∧ fits ∧ kinds) := by tauto
  rw [hkinds, ← toNat_imageHead, ne_eq, ← extractLsb'_high_eq_zero _ (show 36 + 28 = 64 by rfl), Bool.not_eq_true', ← Bool.not_eq_true,
    ← Nat.not_le]
  exact hchecks

/-- What MPSLD answers, in the order of its checks. -/
theorem exec_mpsld (s : State) (p : BitVec 3) : exec (.mpsld p) s = done s (
    if 8 ≤ s.mine.mq.length then s.endFlight
    else if ¬s.ImageNamed p then s.slotFault 0x29 (s.imageEntry p) 0
    else s.orAccessFault (s.commitBad (s.imageAddr p) 8) (
      if ¬s.ImageShaped p then s.slotFault 0x29 (s.imageEntry p) 0
      else s.orAccessFault (s.commitBad (s.imageAddr p) (8 + 4 * s.imageLen p)) (
        if ∀ w ∈ s.imageWords p, wordOk (s.imageKinds p) (s.imageBase p) (s.imageLen p) w = true then
          s.queueMatrix (.mpsld (s.imageEntry p) (s.imageBase p) (s.imageKinds p) (s.imageWords p))
        else s.slotFault 0x29 (s.imageEntry p) 0))) := by
  have hbase : bits _ 10 10 = s.imageBase p := imageField_eq s p 10 10
  have hkinds : bits _ 20 16 = s.imageKinds p := imageField_eq s p 20 16
  have hwords : (List.range (s.imageLen p)).map (fun i => s.commitNat (s.imageAddr p + 8 + 4 * i) 4) = s.imageWords p := rfl
  show execMpsld p s = _
  unfold execMpsld
  dsimp only
  rw [imageEntry_eq, imageAddr_eq, imageLen_eq, hbase, hkinds, hwords]
  refine congrArg (done s) ?_
  refine if_congr (matrixFull_iff _) rfl (if_congr (imageNamed_iff s p) rfl ?_)
  cases s.commitBad (s.imageAddr p) 8 with
  | some e => rfl
  | none =>
    refine if_congr (imageShaped_iff s p) rfl ?_
    cases s.commitBad (s.imageAddr p) (8 + 4 * s.imageLen p) with
    | some e => rfl
    | none =>
      dsimp only [State.orAccessFault, Option.elim_none]
      exact if_congr (List.all_eq_true (l := s.imageWords p)) rfl rfl

/-! ### Drains -/

/-- The parameter of a drain names 64 aligned bytes of own PM. -/
abbrev State.DrainPlaced (s : State) (p : BitVec 3) : Prop :=
  (s.pArg p).extractLsb' 24 40 = 0 ∧ (s.pArg p).extractLsb' 0 6 = 0 ∧ ownPm s.myCore (s.pArg p).toNat 64 = true

/-- The words of the descriptor that a drain's parameter names. -/
def State.descWords (s : State) (p : BitVec 3) : List Nat := (List.range 8).map fun i => s.commitNat ((s.pArg p).toNat + 8 * i) 8

theorem drainPlaced_iff (s : State) (p : BitVec 3) :
    ((s.pArg p).toNat / 2 ^ 24 ≠ 0 ∨ (s.pArg p).toNat % 64 ≠ 0 ∨ (!ownPm s.myCore (s.pArg p).toNat 64) = true) ↔ ¬s.DrainPlaced p := by
  have hlow : (s.pArg p).extractLsb' 0 6 = 0 ↔ (s.pArg p).toNat % 64 = 0 := by
    rw [BitVec.toNat_eq, BitVec.extractLsb'_toNat, Nat.shiftRight_zero]
    rfl
  rw [State.DrainPlaced, hlow, extractLsb'_high_eq_zero _ (show 24 + 40 = 64 by rfl), not_and_or, not_and_or, Bool.not_eq_true',
    Bool.not_eq_true]

/-- What a drain's slot answers, in the order of its checks. -/
theorem queueDrain_eq (s : State) (slot grp : Nat) (p : BitVec 3) (toRegs adjoint : Bool) : s.queueDrain slot grp p.toNat toRegs adjoint =
    if 8 ≤ s.mine.mq.length then s.endFlight
    else if ¬s.DrainPlaced p then s.slotFault 0x2A 0 0
    else s.orAccessFault (s.commitBad (s.pArg p).toNat 64) (
      if drainBad s (s.descWords p) grp toRegs adjoint = true then s.slotFault 0x2A 0 0
      else s.queueMatrix (.drain slot grp toRegs adjoint ((s.descWords p).map (BitVec.ofNat 64)))) := by
  unfold State.queueDrain
  dsimp only
  refine if_congr (matrixFull_iff _) rfl (if_congr (drainPlaced_iff s p) rfl ?_)
  show (match s.commitBad (s.pArg p).toNat 64 with
    | some e => s.accessFault e
    | none => _) = _
  cases s.commitBad (s.pArg p).toNat 64 with
  | some e => rfl
  | none => rfl

/-- A drain by what its descriptor is found to be. -/
theorem exec_drainQueued {s : State} (hw : s.wlog = []) {i : Instr} {slot grp : Nat} {p : BitVec 3} {toRegs adjoint : Bool}
    (hexec : exec i s = done s (s.queueDrain slot grp p.toNat toRegs adjoint)) :
    let refused := drainBad s (s.descWords p) grp toRegs adjoint = true
    (8 ≤ s.mine.mq.length → exec i s = .next s.endFlight)
      ∧ (s.mine.mq.length < 8 → ¬s.DrainPlaced p → exec i s = .next ((s.slotFault 0x2A 0 0).closed s))
      ∧ (s.mine.mq.length < 8 → s.DrainPlaced p → ∀ e, s.commitBad (s.pArg p).toNat 64 = some e →
        exec i s = .next ((s.accessFault e).closed s))
      ∧ (s.mine.mq.length < 8 → s.DrainPlaced p → s.commitBad (s.pArg p).toNat 64 = none →
        (refused → exec i s = .next ((s.slotFault 0x2A 0 0).closed s))
          ∧ (¬refused → exec i s =
            .next (s.queueMatrix (.drain slot grp toRegs adjoint ((s.descWords p).map (BitVec.ofNat 64)))))) := by
  rw [queueDrain_eq] at hexec
  refine ⟨fun hfull => ?_, fun hroom hplaced => ?_, fun hroom hplaced e he => ?_, fun hroom hplaced hgood => ⟨fun hbad => ?_, fun hbad => ?_⟩⟩
  · rw [hexec, if_pos hfull]
    exact done_endFlight hw
  all_goals rw [if_neg (Nat.not_le.2 hroom)] at hexec
  · rw [hexec, if_pos hplaced]
    exact done_closed ..
  all_goals rw [if_neg (not_not.2 hplaced)] at hexec
  · rw [hexec, he]
    exact done_closed ..
  all_goals rw [hgood, State.orAccessFault, Option.elim_none] at hexec
  · rw [hexec, if_pos hbad]
    exact done_closed ..
  · rw [hexec, if_neg hbad]
    exact done_queueMatrix hw rfl rfl _

/-! ### The obligation -/

/-- Settles O44: MPSLD and the drains by what their checks find (`exec_mpsld`, `exec_drainQueued`). -/
theorem imagesAndDescriptorsAreQueued : Obligations.ImagesAndDescriptorsAreQueued := by
  intro s p grp slot dst hw
  have hexec := exec_mpsld s p
  refine ⟨fun hfull => ?full, fun hroom (hnamed : ¬s.ImageNamed p) => ?unnamed, fun hroom (hnamed : s.ImageNamed p) e he => ?badHead,
    fun hroom (hnamed : s.ImageNamed p) hhead => ⟨fun (hshaped : ¬s.ImageShaped p) => ?unshaped,
      fun (hshaped : s.ImageShaped p) e he => ?badWords,
      fun (hshaped : s.ImageShaped p) hwords => ⟨fun hbad => ?refused, fun hgood => ?queued⟩⟩,
    exec_drainQueued hw rfl, exec_drainQueued hw rfl, fun c len hport hred => commitNat_quiet hport hred c len⟩
  case full =>
    rw [hexec, if_pos hfull]
    exact done_endFlight hw
  all_goals rw [if_neg (Nat.not_le.2 hroom)] at hexec
  case unnamed =>
    rw [hexec, if_pos hnamed]
    exact done_closed ..
  all_goals rw [if_neg (not_not.2 hnamed)] at hexec
  case badHead =>
    rw [hexec, show s.commitBad (s.imageAddr p) 8 = some e from he]
    exact done_closed ..
  all_goals rw [show s.commitBad (s.imageAddr p) 8 = none from hhead, State.orAccessFault, Option.elim_none] at hexec
  case unshaped =>
    rw [hexec, if_pos hshaped]
    exact done_closed ..
  all_goals rw [if_neg (not_not.2 hshaped)] at hexec
  case badWords =>
    rw [hexec, show s.commitBad (s.imageAddr p) (8 + 4 * s.imageLen p) = some e from he]
    exact done_closed ..
  all_goals rw [show s.commitBad (s.imageAddr p) (8 + 4 * s.imageLen p) = none from hwords, State.orAccessFault, Option.elim_none] at hexec
  case refused =>
    obtain ⟨w, hmem, hw'⟩ := hbad
    rw [hexec, if_neg fun h => Bool.false_ne_true (hw'.symm.trans (h w hmem))]
    exact done_closed ..
  case queued =>
    rw [hexec, if_pos (show ∀ w ∈ s.imageWords p, wordOk (s.imageKinds p) (s.imageBase p) (s.imageLen p) w = true from hgood)]
    exact done_queueMatrix hw rfl rfl _

end Sys2Proof.Machine
end

section
/-! PROOFS. The entries of the matrix queue begin and end (R154, R155, R158, R162, R167, R169, R171; log entries 28, 82, 88). -/

namespace Sys2Proof.Machine

/-! ### The entry that begins -/

/-- Entries that may not begin where they stand are passed over. -/
theorem nextEntry_append {s : State} {core : Nat} {xs : List MatrixEntry} {before : List MatrixEntry} (tail : List MatrixEntry)
    (hwait : ∀ b d a, xs = b ++ d :: a → mayBegin s core (before ++ b) d = false) :
    nextEntry s core before (xs ++ tail) = nextEntry s core (before ++ xs) tail := by
  induction xs generalizing before with
  | nil => rw [List.nil_append, List.append_nil]
  | cons x xs ih =>
    have hx : mayBegin s core before x = false := by simpa using hwait [] x xs rfl
    have hrest : ∀ b d a, xs = b ++ d :: a → mayBegin s core (before ++ [x] ++ b) d = false := fun b d a h => by
      simpa using hwait (x :: b) d a (by rw [h, List.cons_append])
    rw [List.cons_append, nextEntry, hx, if_neg Bool.false_ne_true, ih hrest, List.append_assoc, List.singleton_append]

section
variable {s : State} {core : Nat}

/-- MATRIX_ENTRY_BEGIN begins the first entry that may. -/
theorem exec_entryBegin {e : MatrixEntry} {front rest : List MatrixEntry} (hmq : (s.core core).mq = front ++ e :: rest)
    (hmay : mayBegin s core front e = true)
    (hwait : ∀ b d a, (s.core core).mq = b ++ d :: a → b.length < front.length → mayBegin s core b d = false) :
    exec (.matrixEntryBegin core) s = done s ((s.setCore core { s.core core with
      mq := front ++ { e with begun := true } :: rest }).beginEntry core e) := by
  have hnext : nextEntry s core [] (s.core core).mq = some (front, e, rest) := by
    rw [hmq, nextEntry_append (e :: rest), List.nil_append, nextEntry, hmay, if_pos rfl]
    intro b d a hfront
    refine hwait b d (a ++ e :: rest) ?_ ?_
    · rw [hmq, hfront, List.append_assoc, List.cons_append]
    · rw [hfront, List.length_append, List.length_cons]
      omega
  show execMatrixEntryBegin core s = _
  unfold execMatrixEntryBegin
  rw [hnext]

/-- Where no entry may begin MATRIX_ENTRY_BEGIN answers the state as it stands. -/
theorem exec_entryBegin_none (hw : s.wlog = []) (hwait : ∀ b d a, (s.core core).mq = b ++ d :: a → mayBegin s core b d = false) :
    exec (.matrixEntryBegin core) s = .next s := by
  have hnext : nextEntry s core [] (s.core core).mq = none := by
    have h := nextEntry_append (s := s) (core := core) (before := []) [] hwait
    rwa [List.append_nil] at h
  show execMatrixEntryBegin core s = _
  unfold execMatrixEntryBegin
  rw [hnext]
  exact done_eq hw rfl

/-! ### What an entry does at its begin -/

/-- A core written twice by a meaning that does nothing else. -/
theorem done_setCore_setCore (hw : s.wlog = []) (k k' : Core) : done s ((s.setCore core k).setCore core k') = .next (s.setCore core k') := by
  rw [State.setCore_setCore]
  exact done_eq hw rfl

variable (k : Core) (e : MatrixEntry)

theorem beginEntry_call {n kinds : Nat} {ps : List Word64} {shapes : Tab (BitVec 32)} (hop : e.op = .call n kinds ps shapes) :
    ∃ base len, (s.setCore core k).beginEntry core e = (s.setCore core k).setCore core
        { k with routine := some (Routine.start e.ctx base len k.cyc ps shapes) }
      ∧ if n < 16 then base = 1024 + 64 * n ∧ len = (romCode n).length
        else ∀ b l kd, k.entries.find? (fun q => q.1 == n) = some (n, b, l, kd) → base = b ∧ len = l := by
  unfold State.beginEntry
  rw [hop, State.core_setCore]
  dsimp only
  refine ⟨_, _, rfl, ?_⟩
  by_cases hn : n < 16
  · simp only [if_pos hn, and_self]
  · simp only [if_neg hn]
    intro b l kd hfind
    rw [hfind]
    exact ⟨rfl, rfl⟩

theorem beginEntry_acz {h : Nat} (hop : e.op = .acz h) : (s.setCore core k).beginEntry core e = (s.setCore core k).setCore core
    { ((s.ctx e.ctx).slotFor h).elim k k.zeroSlot with arrayEnds := some (k.cyc + 3) } := by
  unfold State.beginEntry
  rw [hop, State.core_setCore, State.ctx_setCore]
  dsimp only
  cases (s.ctx e.ctx).slotFor h <;> rfl

theorem beginEntry_acrel_unmapped {h : Nat} (hop : e.op = .acrel h) (hnone : (s.ctx e.ctx).slotFor h = none) :
    (s.setCore core k).beginEntry core e = (s.setCore core k).setCore core { k with arrayEnds := some k.cyc } := by
  unfold State.beginEntry
  rw [hop, State.core_setCore, State.ctx_setCore]
  dsimp only
  rw [hnone]

theorem beginEntry_acrel {h slot : Nat} (hop : e.op = .acrel h) (hsome : (s.ctx e.ctx).slotFor h = some slot) :
    (s.setCore core k).beginEntry core e = ((s.setCore core k).setCore core
      { k.zeroSlot slot with free := k.free ++ [slot], arrayEnds := some k.cyc }).setCtx e.ctx
        { s.ctx e.ctx with handles := tabErase (s.ctx e.ctx).handles h } := by
  unfold State.beginEntry
  rw [hop, State.core_setCore, State.ctx_setCore]
  dsimp only
  rw [hsome]

theorem beginEntry_mpsld {n base kinds : Nat} {words : List Nat} (hop : e.op = .mpsld n base kinds words) :
    (s.setCore core k).beginEntry core e = (s.setCore core k).setCore core { k with
      mps := tabRange 0 k.mps base words, entries := tabPut k.entries n (base, words.length, kinds)
      arrayEnds := some (k.cyc + words.length) } := by
  unfold State.beginEntry
  rw [hop, State.core_setCore]

/-- The drain that an entry of a context begins: its slots are those of its handles at the begin, and its first row is due at once (R171). -/
def drainStart (x : Ctx) (c cyc h grp : Nat) (toRegs adjoint : Bool) (desc : List Word64) : DrainRun :=
  let d := drainDesc (desc.map BitVec.toNat)
  let timing := drainTiming (sieveCtl d.sieve) adjoint grp
  { ctx := c, adjoint := adjoint, toRegs := toRegs, desc := desc, handle := h, slots := (List.range (grp + 1)).map fun i => x.slotFor (h + i)
    row := 0, next := cyc, pace := timing.1, ends := cyc + d.rows * timing.1 + 24 + timing.2, cells := [], regs := [], flags := 0
    peek := none }

/-- A drain begins behind every own-PM access of its core that was committed before it (R204, R264). -/
theorem beginEntry_drain {h grp : Nat} {toRegs adjoint : Bool} {desc : List Word64} (hop : e.op = .drain h grp toRegs adjoint desc) :
    let u := (s.setCore core k).ownBefore core e.mark
    (s.setCore core k).beginEntry core e = u.setCore core
      { u.core core with drainRun := some (drainStart (s.ctx e.ctx) e.ctx k.cyc h grp toRegs adjoint desc) } := by
  unfold State.beginEntry
  rw [hop, State.core_setCore, State.ctx_setCore]
  rfl

end

/-! ### The end of an entry -/

section
variable {s : State} {core : Nat} (hw : s.wlog = [])
include hw

theorem exec_entryEnd_array {e : MatrixEntry} {b a : List MatrixEntry} {t : Nat} (hmq : (s.core core).mq = b ++ e :: a)
    (hbegun : e.begun = true) (harray : isArray e.op = true) (hb : ∀ y ∈ b, ¬(y.begun = true ∧ isArray y.op = true))
    (hends : (s.core core).arrayEnds = some t) : exec (.matrixEntryEnd core) s =
      .next (s.setCore core { s.core core with mq := b ++ a, arrayEnds := none, mtxFrom := t + 1 }) := by
  show execMatrixEntryEnd core s = _
  unfold execMatrixEntryEnd
  dsimp only
  rw [hends, hmq, dropBegun_append hbegun harray hb]
  exact done_eq hw rfl

/-- A routine that stands at an MEND ends as it does by an MEND of its own. -/
theorem exec_entryEnd_routine {r : Routine} (hends : (s.core core).arrayEnds = none) (hr : (s.core core).routine = some r)
    (hmend : (s.core core).microAt r = .mend) : exec (.matrixEntryEnd core) s =
      .next ((s.setCore core (s.routineOver core r)).mergeLate r.ctx (r.flags ||| 0)) := by
  rw [← done_endRoutine hw hr]
  show execMatrixEntryEnd core s = _
  unfold execMatrixEntryEnd
  dsimp only
  rw [hends, hr]
  dsimp only
  rw [if_pos hmend]

end

/-! ### The obligation -/

/-- Settles O48: the first entry that may begin is the one that does (`exec_entryBegin`), with the effect of its kind (`beginEntry_call` and
those beside it); an array entry or a routine leaves the queue at its end. -/
theorem matrixEntriesBeginAndEnd : Obligations.MatrixEntriesBeginAndEnd := by
  intro s core e front rest hw
  refine ⟨fun hmq hmay hwait => ?begins, exec_entryBegin_none hw, fun b a t hmq hbegun harray hb hends => ?array,
    fun r hends hr hmend => ?routine⟩
  case array => exact exec_entryEnd_array hw hmq hbegun harray hb hends
  case routine =>
    refine ⟨_, exec_entryEnd_routine hw hends hr hmend, ?_, ?_, ?_, fun c hc => ctx_mergeLate_ne _ _ _ hc, fun j hj => ?_⟩
    · rw [core_mergeLate, State.core_setCore]
      rfl
    · rw [core_mergeLate, State.core_setCore]
      rfl
    · rw [fpsf_mergeLate, Nat.or_zero]
      rfl
    · rw [core_mergeLate, State.core_setCore_ne _ _ _ hj]
  case begins =>
    have hexec := exec_entryBegin hmq hmay hwait
    obtain ⟨c, at', op, mark, begun⟩ := e
    cases op with
    | call n kinds ps shapes =>
      obtain ⟨base, len, hbegin, hwhere⟩ := beginEntry_call (s := s) (core := core) { s.core core with
        mq := front ++ ⟨c, at', .call n kinds ps shapes, mark, true⟩ :: rest } ⟨c, at', .call n kinds ps shapes, mark, begun⟩ rfl
      rw [hbegin] at hexec
      exact ⟨base, len, hexec.trans (done_setCore_setCore hw ..), hwhere⟩
    | acz h =>
      rw [beginEntry_acz _ _ rfl, done_setCore_setCore hw] at hexec
      refine ⟨fun hnone => ?_, fun slot hsome => ⟨_, tabGet_zeroSlot (s.core core) slot, ?_⟩⟩
      · rw [hexec, hnone]
        rfl
      · rw [hexec, hsome]
        rfl
    | acrel h =>
      refine ⟨fun hnone => ?_, fun slot hsome => ⟨_, tabGet_zeroSlot (s.core core) slot, ?_⟩⟩
      · rw [beginEntry_acrel_unmapped _ _ rfl hnone] at hexec
        exact hexec.trans (done_setCore_setCore hw ..)
      · rw [beginEntry_acrel _ _ rfl hsome, State.setCore_setCore] at hexec
        exact hexec.trans (done_eq hw rfl)
    | mpsld n base kinds words =>
      rw [beginEntry_mpsld _ _ rfl, done_setCore_setCore hw] at hexec
      exact ⟨_, hexec, tabGet_tabRange 0 (s.core core).mps base words⟩
    | drain h grp toRegs adjoint desc =>
      rw [beginEntry_drain _ _ rfl, done_closed] at hexec
      exact hexec

end Sys2Proof.Machine
end
